-- ==== Sys2Proof/Word.lean ====
section
/-! DEFINITION. Sys2Proof/Word.lean: the word types of the SK1. -/

namespace Sys2Proof

/-- An instruction word, a general register, a ring slot, a system register: 64 bits (R225, R19). -/
abbrev Word := BitVec 64

/-- The unit of memory (R2). -/
abbrev Byte := BitVec 8

/-- A virtual address: 57 bits (R25). -/
abbrev VA := BitVec 57

/-- A device physical address: 44 bits (R31). -/
abbrev DPA := BitVec 44

/-- A vector register: 64 lanes of 32 bits (R19). -/
abbrev VReg := BitVec 2048

/-- A line of 128 bytes (R61). -/
abbrev Line := BitVec 1024

end Sys2Proof
end

