-- ==== Sys2Proof/Syntax.lean ====
section
/-! DEFINITION. Sys2Proof/Syntax.lean: the instructions, engine commands and events of the SK1, as syntax.
Operand fields that the manual numbers as bits of a word stay bit vectors (the index spaces of R226); every
coded choice of R237 is a constructor. -/

namespace Sys2Proof

/-- One of the three roles of a core (R7, R17). A system core's single stream is kept as its C role. -/
inductive RoleId where
  | L | C | S
  deriving DecidableEq, Repr

/-- The ROLE field of a word, bits [63:62] (R17): one role, or A for each role. -/
inductive RoleTag where
  | L | C | S | A
  deriving DecidableEq, Repr

/-- What every word carries besides its operation (R225): the role it is tagged for, and its two token marks. -/
structure Mark where
  tag : RoleTag
  pb  : Bool
  pa  : Bool
  deriving DecidableEq, Repr

/-- The guard field (R227): predicate number and sense. The pair (false, 0) is "no guard". -/
structure Guard where
  neg  : Bool
  pidx : BitVec 3
  deriving DecidableEq, Repr

/-- An operand of the G6 space (R226): 0-47 are g0-g47, 48-55 are q0-q7, 56-63 are q0.pk-q7.pk. -/
abbrev G6 := BitVec 6

/-- An operand of the V5 space (R226): 0-27 are v0-v27, 28 and 29 are vq0 and vq1, 30 and 31 their peek forms. -/
abbrev V5 := BitVec 5

/-- An operand of the P3 space (R226): p0-p7. -/
abbrev P3 := BitVec 3

/-- A memory operand [gB + gI*s + off] of the FM format (R22, R230). -/
structure EA where
  rb  : G6
  ri  : G6
  sc  : BitVec 2
  off : BitVec 20
  deriving DecidableEq, Repr

/-- A memory operand whose index is a vector (R299). -/
structure VEA where
  rb  : G6
  vi  : V5
  sc  : BitVec 2
  off : BitVec 20
  deriving DecidableEq, Repr

/-- The SZ suffix of a scalar access (R230). -/
inductive Size where
  | b | h | w | d
  deriving DecidableEq, Repr

/-- A condition code (R237). -/
inductive Cond where
  | eq | ne | lt | ge | ltu | geu | gt | le | gtu | leu
  deriving DecidableEq, Repr

/-- A scope (R78, R237). -/
inductive Scope where
  | core | clu | dev | sys
  deriving DecidableEq, Repr

/-- A data type code (R237). The four reserved codes are kept: in a field that an entry uses they raise FMT when
the word is executed (R240), not when it is decoded. -/
inductive DType where
  | f32 | bf16 | f16 | e4m3 | e5m2 | mxe4m3 | mxe5m2 | mxf4 | s4 | k4 | i8 | r11 | i32 | r13 | r14 | r15
  deriving DecidableEq, Repr

/-- A rounding mode (R237, R318). -/
inductive RM where
  | rne | rtz | rdn | rup | sr
  deriving DecidableEq, Repr

/-- A slice operation (R124). -/
inductive SliceOp where
  | add | and | or | xor | min | max | minu | maxu | swap | fadd | fadd2
  deriving DecidableEq, Repr

/-- The operation of vred (R350). -/
inductive RedOp where
  | add | min | max
  deriving DecidableEq, Repr

/-- The mode of a probe (R301). -/
inductive AMode where
  | r | w | rw
  deriving DecidableEq, Repr

/-- The wait and signal bytes of an engine command (R243). -/
structure WaitSig where
  wen   : Bool
  wsem  : BitVec 5
  wcond : BitVec 2
  sen   : Bool
  ssem  : BitVec 5
  sop   : BitVec 2
  deriving DecidableEq, Repr

/-- A side of a copy job (R382): an address, or a slot of a handle, which a source side may free after reading. -/
inductive CopySide where
  | addr (a : BitVec 57)
  | handle (h : BitVec 4) (pop : Bool)
  deriving DecidableEq, Repr

/-- The streaming bit and the barrier fields of a copy command (R382). -/
structure CopyOpts where
  strm  : Bool
  ben   : Bool
  bcore : BitVec 6
  boff  : BitVec 17
  deriving DecidableEq, Repr

/-- Who sent a reduction contribution: copy job `id` of core `c`, or a peer whose request came in at a port with a tag. -/
inductive ContribFrom where
  | job (c id : Nat)
  | peer (port tag : Nat)
  deriving DecidableEq, Repr

/-- A reduction contribution to one line (R129): the bytes of `data` under `mask`, applied element by element. -/
structure Contribution where
  op    : SliceOp
  dbl   : Bool
  group : BitVec 8
  srcid : BitVec 16
  line  : Nat
  mask  : BitVec 128
  data  : BitVec 1024
  src   : ContribFrom
  deriving DecidableEq, Repr

/-- A codeword that the patrol scrubber found in error (R74, R76). -/
structure ScrubFinding where
  dpa         : Nat
  bank        : BitVec 6
  pc          : BitVec 6
  row         : BitVec 18
  correctable : Bool
  nsym        : BitVec 8
  deriving DecidableEq, Repr

/-- An error that a read meets in a codeword of its line (R73, R75): the line's second codeword or its first, whether the
controller corrects it, and what the error record tells. -/
structure MemErr where
  second      : Bool
  correctable : Bool
  bank        : BitVec 6
  pc          : BitVec 6
  row         : BitVec 18
  nsym        : BitVec 8
  deriving DecidableEq, Repr

/-- The OUT field of a DECIDE message (R187). -/
inductive TreeOut where
  | commit | abort | start
  deriving DecidableEq, Repr

/-- A part of a collective chunk as it arrives at a port (R432 to R434): its tag (GTAG, SEQ, index tuple, outermost
level first), its byte offset in the chunk, and its data. -/
structure CollPart where
  gtag  : BitVec 16
  sq    : BitVec 64
  tuple : List Nat
  off   : Nat
  bytes : List (BitVec 8)
  deriving DecidableEq, Repr

/-- What a peer access asks for (R38, R424). A write is the masked bytes of one line. -/
inductive PeerOp where
  | read (dpa : BitVec 44) (n : Nat)
  | write (dpa : BitVec 44) (mask : BitVec 128) (data : BitVec 1024)
  /-- A whole 2 KiB block (R72). -/
  | block (dpa : BitVec 44) (data : BitVec 16384)
  | amo (dpa : BitVec 44) (op : SliceOp) (dbl : Bool) (x : BitVec 64)
  | cas (dpa : BitVec 44) (e n : BitVec 64)
  | contribute (x : Contribution)
  deriving DecidableEq, Repr

/-- An incoming peer access: what it asks for, the requester's generation (R179), and the tag it is answered under. -/
structure PeerReq where
  op  : PeerOp
  gn  : BitVec 48
  tag : Nat
  deriving DecidableEq, Repr

/-- The status that answers a peer access (R427); the last three answer a reduction contribution (R132, R133). -/
inductive PeerStatus where
  | ok | poisoned | genMismatch | shadowFull | noMem | noRoute | retry | badSrc | noGroup
  deriving DecidableEq, Repr

/-- The answer to a collective part (R435). -/
inductive PartStatus where
  | ok | refused | noRoute
  deriving DecidableEq, Repr

/-- One island's telemetry sample (R465, R466): power in 0.1 W, temperature in 0.25 degrees C. -/
structure TeleSample where
  island : Nat
  power  : BitVec 16
  temp   : BitVec 16
  deriving DecidableEq, Repr

/-- One port's link measurement over a millisecond (R433): flits sent and flits replayed. -/
structure PortSample where
  port     : Nat
  sent     : Nat
  replayed : Nat
  deriving DecidableEq, Repr

/-- One constructor per row of the operation and event table: the instructions of a core (their words are in
"Instruction Formats, Opcode Map and Directives"), the commands of the two engines (their words are in R243 to R245
and the two engine chapters), and the events of the device's other units. An event's arguments are the unit it
happens at and, where it comes from outside the device, the data it carries. -/
inductive Instr where
  /-- NOP (R264): does nothing except act on its token marks. -/
  | nop (m : Mark) (g : Guard)
  /-- ADD (R255): writes (ga + b) mod 2^64 to gd, with taint the OR of the sources. -/
  | add (m : Mark) (rd ra rb : G6) (g : Guard)
  /-- SUB (R255): writes (ga − gb) mod 2^64 to gd. -/
  | sub (m : Mark) (rd ra rb : G6) (g : Guard)
  /-- MUL (R255): writes the low 64 bits of the product to gd. -/
  | mul (m : Mark) (rd ra rb : G6) (g : Guard)
  /-- MULH (R255): writes the high 64 bits of the signed product to gd. -/
  | mulh (m : Mark) (rd ra rb : G6) (g : Guard)
  /-- MULHU (R255): writes the high 64 bits of the unsigned product to gd. -/
  | mulhu (m : Mark) (rd ra rb : G6) (g : Guard)
  /-- DIV (R256): signed division truncating toward zero, with fixed results for b = 0 and overflow; never traps. -/
  | div (m : Mark) (rd ra rb : G6) (g : Guard)
  /-- DIVU (R256): unsigned division; the quotient is all ones when b = 0. -/
  | divu (m : Mark) (rd ra rb : G6) (g : Guard)
  /-- REM (R256): signed remainder, taking the sign of the dividend. -/
  | rem (m : Mark) (rd ra rb : G6) (g : Guard)
  /-- REMU (R256): unsigned remainder; returns a when b = 0. -/
  | remu (m : Mark) (rd ra rb : G6) (g : Guard)
  /-- AND (R255): writes the bitwise AND of ga and gb to gd. -/
  | and (m : Mark) (rd ra rb : G6) (g : Guard)
  /-- OR (R255): writes the bitwise OR of ga and gb to gd. -/
  | or (m : Mark) (rd ra rb : G6) (g : Guard)
  /-- XOR (R255): writes the bitwise XOR of ga and gb to gd. -/
  | xor (m : Mark) (rd ra rb : G6) (g : Guard)
  /-- ANDN (R255): writes ga AND NOT gb to gd. -/
  | andn (m : Mark) (rd ra rb : G6) (g : Guard)
  /-- SHL (R255): shifts ga left by gb[5:0]. -/
  | shl (m : Mark) (rd ra rb : G6) (g : Guard)
  /-- SHR (R255): shifts ga right logically by gb[5:0]. -/
  | shr (m : Mark) (rd ra rb : G6) (g : Guard)
  /-- SAR (R255): shifts ga right arithmetically by gb[5:0]. -/
  | sar (m : Mark) (rd ra rb : G6) (g : Guard)
  /-- ROTR (R255): rotates ga right by gb[5:0]. -/
  | rotr (m : Mark) (rd ra rb : G6) (g : Guard)
  /-- MIN (R255): writes the signed smaller of ga and gb to gd. -/
  | min (m : Mark) (rd ra rb : G6) (g : Guard)
  /-- MAX (R255): writes the signed larger of ga and gb to gd. -/
  | max (m : Mark) (rd ra rb : G6) (g : Guard)
  /-- MINU (R255): writes the unsigned smaller of ga and gb to gd. -/
  | minu (m : Mark) (rd ra rb : G6) (g : Guard)
  /-- MAXU (R255): writes the unsigned larger of ga and gb to gd. -/
  | maxu (m : Mark) (rd ra rb : G6) (g : Guard)
  /-- CLZ (R257): counts the leading zero bits of ga. -/
  | clz (m : Mark) (rd ra : G6) (g : Guard)
  /-- CTZ (R257): counts the trailing zero bits of ga. -/
  | ctz (m : Mark) (rd ra : G6) (g : Guard)
  /-- POPC (R257): counts the one bits of ga. -/
  | popc (m : Mark) (rd ra : G6) (g : Guard)
  /-- SEXT (R257): sign-extends the low w bits of ga. -/
  | sext (m : Mark) (rd ra : G6) (w : BitVec 6) (g : Guard)
  /-- ZEXT (R257): zero-extends the low w bits of ga. -/
  | zext (m : Mark) (rd ra : G6) (w : BitVec 6) (g : Guard)
  /-- BFX (R257): extracts a bit field of ga, zero-extended. -/
  | bfx (m : Mark) (rd ra : G6) (pos len : BitVec 6) (g : Guard)
  /-- BFI (R257): inserts the low len bits of ga into gb at pos. -/
  | bfi (m : Mark) (rd ra rb : G6) (pos len : BitVec 6) (g : Guard)
  /-- SEL (R257): selects ga or gb by bit 0 of a predicate, reading both. -/
  | sel (m : Mark) (rd ra rb : G6) (p : P3) (g : Guard)
  /-- LI (R258): loads a sign-extended 32-bit immediate into gd. -/
  | li (m : Mark) (rd : G6) (imm : BitVec 32) (g : Guard)
  /-- LIH (R258): places a 32-bit immediate above ga[31:0] in gd. -/
  | lih (m : Mark) (rd ra : G6) (imm : BitVec 32) (g : Guard)
  /-- MOV (R259): copies ga with its taint into gd. -/
  | mov (m : Mark) (rd ra : G6) (g : Guard)
  /-- LEA (R260): writes the effective address of a memory operand without accessing memory. -/
  | lea (m : Mark) (rd : G6) (ea : EA) (g : Guard)
  /-- ADDI (R261): adds a sign-extended immediate to ga. -/
  | addi (m : Mark) (rd ra : G6) (imm : BitVec 32) (g : Guard)
  /-- ANDI (R261): aNDs ga with a sign-extended immediate. -/
  | andi (m : Mark) (rd ra : G6) (imm : BitVec 32) (g : Guard)
  /-- ORI (R261): oRs ga with a sign-extended immediate. -/
  | ori (m : Mark) (rd ra : G6) (imm : BitVec 32) (g : Guard)
  /-- XORI (R261): xORs ga with a sign-extended immediate. -/
  | xori (m : Mark) (rd ra : G6) (imm : BitVec 32) (g : Guard)
  /-- SHLI (R261): shifts ga left by an immediate count. -/
  | shli (m : Mark) (rd ra : G6) (sh : BitVec 6) (g : Guard)
  /-- SHRI (R261): shifts ga right logically by an immediate count. -/
  | shri (m : Mark) (rd ra : G6) (sh : BitVec 6) (g : Guard)
  /-- SARI (R261): shifts ga right arithmetically by an immediate count. -/
  | sari (m : Mark) (rd ra : G6) (sh : BitVec 6) (g : Guard)
  /-- CMP (R262): sets predicate pd to all ones or zero by a condition on ga and gb. -/
  | cmp (m : Mark) (c : Cond) (pd : P3) (ra rb : G6) (g : Guard)
  /-- CSET (R262): sets gd to 1 or 0 by a condition on ga and gb. -/
  | cset (m : Mark) (c : Cond) (rd ra rb : G6) (g : Guard)
  /-- PAND (R263): aNDs two predicates. -/
  | pand (m : Mark) (pd pa pb : P3) (g : Guard)
  /-- POR (R263): oRs two predicates. -/
  | por (m : Mark) (pd pa pb : P3) (g : Guard)
  /-- PXOR (R263): xORs two predicates. -/
  | pxor (m : Mark) (pd pa pb : P3) (g : Guard)
  /-- PNOT (R263): inverts a predicate. -/
  | pnot (m : Mark) (pd pa : P3) (g : Guard)
  /-- PMOV (R263): copies one predicate into another. -/
  | pmov (m : Mark) (pd pa : P3) (g : Guard)
  /-- PMOV_FROM_GENERAL (R263): copies a general register into a predicate. -/
  | pmovFromGeneral (m : Mark) (pd : P3) (ra : G6) (g : Guard)
  /-- PMOV_TO_GENERAL (R263): copies a predicate into a general register with taint 0. -/
  | pmovToGeneral (m : Mark) (rd : G6) (pa : P3) (g : Guard)
  /-- BRA (R265): branches unconditionally by a word displacement. -/
  | bra (m : Mark) (disp : BitVec 32)
  /-- BR (R265): branches to the address in ga. -/
  | br (m : Mark) (ra : G6)
  /-- BRC (R265): branches when a condition holds between ga and gb. -/
  | brc (m : Mark) (c : Cond) (ra rb : G6) (disp : BitVec 32)
  /-- BRQ (R265): branches on whether a queue holds an entry, without popping. -/
  | brq (m : Mark) (ne : Bool) (q : BitVec 3) (disp : BitVec 32)
  /-- CALL (R265): writes the return address to gd and branches by displacement. -/
  | call (m : Mark) (rd : G6) (disp : BitVec 32)
  /-- RET (R265): returns to the address in ga. -/
  | ret (m : Mark) (ra : G6)
  /-- JMP (R265): writes the return address to gd and branches to ga. -/
  | jmp (m : Mark) (rd ra : G6)
  /-- LOOP (R266): decrements a loop counter and branches while it is nonzero. -/
  | loop (m : Mark) (lc : BitVec 2) (disp : BitVec 32)
  /-- LREC (R266): loads a loop counter from ga plus an immediate. -/
  | lrec (m : Mark) (lc : BitVec 2) (ra : G6) (imm : BitVec 32)
  /-- FIN (R267): ends the role, or the current segment of a LOOP task. -/
  | fin (m : Mark)
  /-- SAFE (R268): unbinds registers outside the live masks and marks a safe point. -/
  | safe (m : Mark) (gmask : BitVec 47) (vmask : BitVec 28)
  /-- WAIT (R269): starts a pause of the role for a computed number of clocks. -/
  | wait (m : Mark) (ra : G6) (imm : BitVec 32)
  /-- WAIT_EXPIRY (R269): the clock count of a wait runs out and the role issues again. -/
  | waitExpiry (c : Nat) (r : RoleId)
  /-- QCFG (R270): sets the producer and consumer roles of a queue. -/
  | qcfg (m : Mark) (q : BitVec 4) (prod cons : RoleId)
  /-- TOK_PUSH (R271): pushes n tokens to the role's downstream FIFO. -/
  | tokPush (m : Mark) (n : BitVec 5)
  /-- TOK_POP (R271): pops n tokens from the role's upstream FIFO. -/
  | tokPop (m : Mark) (n : BitVec 5)
  /-- TOK_Q (R271): reads the upstream and downstream token counts. -/
  | tokQ (m : Mark) (rd : G6)
  /-- CBINIT (R272): writes a handle descriptor after checking its extent and shape. -/
  | cbinit (m : Mark) (h : BitVec 4) (ra rb : G6)
  /-- CBWAIT (R272): waits for n filled slots and returns the oldest slot's address. -/
  | cbwait (m : Mark) (h : BitVec 4) (rd ra : G6) (imm : BitVec 16)
  /-- CBRES (R272): waits for n free slots and returns the next write slot's address. -/
  | cbres (m : Mark) (h : BitVec 4) (rd ra : G6) (imm : BitVec 16)
  /-- CBPUSH (R272): publishes n slots of a handle. -/
  | cbpush (m : Mark) (h : BitVec 4) (ra : G6) (imm : BitVec 16)
  /-- CBPOP (R272): frees n slots of a handle. -/
  | cbpop (m : Mark) (h : BitVec 4) (ra : G6) (imm : BitVec 16)
  /-- SEMW_DEC (R274): waits until s ≥ n, then subtracts n. -/
  | semwDec (m : Mark) (sem : BitVec 5) (rd ra : G6) (imm : BitVec 16)
  /-- SEMW_GE (R274): waits until s ≥ n. -/
  | semwGe (m : Mark) (sem : BitVec 5) (rd ra : G6) (imm : BitVec 16)
  /-- SEMW_EQ (R274): waits until s = n. -/
  | semwEq (m : Mark) (sem : BitVec 5) (rd ra : G6) (imm : BitVec 16)
  /-- SEMS_ADD (R274): adds n to a semaphore, saturating. -/
  | semsAdd (m : Mark) (sem : BitVec 5) (rd ra : G6) (imm : BitVec 16)
  /-- SEMS_SUB (R274): subtracts n from a semaphore, flooring at 0. -/
  | semsSub (m : Mark) (sem : BitVec 5) (rd ra : G6) (imm : BitVec 16)
  /-- SEMSET (R274): sets a semaphore to n. -/
  | semset (m : Mark) (sem : BitVec 5) (rd ra : G6) (imm : BitVec 16)
  /-- BARI (R275): initialises a barrier object with EXPECT. -/
  | bari (m : Mark) (ra rb : G6) (imm : BitVec 16)
  /-- BARA (R275): arrives at a barrier and returns the phase the arrival counted in. -/
  | bara (m : Mark) (rd ra : G6)
  /-- BARX (R275): adds expected bytes to a barrier's PENDING. -/
  | barx (m : Mark) (ra rb : G6) (imm : BitVec 16)
  /-- BARW (R275): waits until a barrier's phase differs from the given parity. -/
  | barw (m : Mark) (ra rb : G6) (imm : BitVec 16)
  /-- PUSH_M (R276): places a matrix command of 1–4 words in ring h14. -/
  | pushM (m : Mark) (cnt : BitVec 2) (ra rb rc rd : G6)
  /-- PUSH_C (R276): places a copy command of 1–4 words in ring h15. -/
  | pushC (m : Mark) (cnt : BitVec 2) (ra rb rc rd : G6)
  /-- SPAWN (R277): submits a task record to the die's Collie. -/
  | spawn (m : Mark) (rd ra rb : G6)
  /-- SPAWN_W (R277): submits a task record that may use the low-water reserve and requires a completion word. -/
  | spawnW (m : Mark) (rd ra rb : G6)
  /-- TSIG (R278): releases selected successor-list entries early. -/
  | tsig (m : Mark) (ra : G6)
  /-- COLL (R430): checks a span record, stamps its sequence number and weights, and posts it to a port's walkers. -/
  | coll (m : Mark) (rd ra : G6) (sem : Option (BitVec 5))
  /-- MFSR (R281): reads a system register by number. -/
  | mfsr (m : Mark) (rd : G6) (n : BitVec 12)
  /-- MTSR (R281): writes a system register by number. -/
  | mtsr (m : Mark) (n : BitVec 12) (ra : G6)
  /-- TRAP (R282): raises TRAPI with TPC at the following word. -/
  | trap (t : RoleTag) (imm : BitVec 16)
  /-- BRK (R282): raises BRK, or halts the role under a debugger. -/
  | brk (t : RoleTag) (imm : BitVec 16)
  /-- ERET (R440): returns from a handler, restores the mode and re-executes the word at TPC. -/
  | eret (m : Mark)
  /-- XINV_ALL (R285): drops every cached translation of every XID. -/
  | xinvAll (m : Mark)
  /-- XINV_X (R285): drops cached translations of one XID. -/
  | xinvX (m : Mark) (ra : G6)
  /-- XINV_VA (R285): drops the translation of one VA under one XID. -/
  | xinvVa (m : Mark) (ra rb : G6)
  /-- XINV_G (R285): drops global translations of one VA. -/
  | xinvG (m : Mark) (rb : G6)
  /-- PTMC (R286): writes a page-table entry at every replica by ordered multicast. -/
  | ptmc (m : Mark) (ra rb : G6)
  /-- PTMC_SYNC (R286): waits until every earlier ptmc of the system core is applied everywhere. -/
  | ptmcSync (m : Mark)
  /-- CFGD (R463): verifies and applies a configuration difference image to shadow planes. -/
  | cfgd (m : Mark) (rd ra : G6)
  /-- ISYNC (R288): writes back the role's L1 data and invalidates the instruction cache. -/
  | isync (m : Mark)
  /-- HALT (R289): stops a system core until a wake event. -/
  | halt (m : Mark)
  /-- SYSTEM_CORE_WAKE (R289): a fault record, doorbell or launch fault wakes a halted system core. -/
  | systemCoreWake (d : Nat)
  /-- LD (R296): loads a scalar from memory within the phase view. -/
  | ld (m : Mark) (sz : Size) (sx : Bool) (rd : G6) (ea : EA) (g : Guard)
  /-- ST (R297): posts a scalar store. -/
  | st (m : Mark) (sz : Size) (rs : G6) (ea : EA) (g : Guard)
  /-- LDC (R296): consume load that taints its destination. -/
  | ldc (m : Mark) (sz : Size) (sx : Bool) (x : Scope) (rd : G6) (ea : EA) (g : Guard)
  /-- LDA (R296): acquire load at a scope. -/
  | lda (m : Mark) (sz : Size) (sx : Bool) (x : Scope) (rd : G6) (ea : EA) (g : Guard)
  /-- STL (R297): release store at a scope. -/
  | stl (m : Mark) (sz : Size) (x : Scope) (rs : G6) (ea : EA) (g : Guard)
  /-- LOAD_DATA_RETURN (R66): data for an outstanding load arrives and its destination is written. -/
  | loadDataReturn (c : Nat) (r : RoleId) (id : Nat)
  /-- WRITE_ACKNOWLEDGE (R293): a home slice acknowledges a write and the core's write-acknowledge count falls. -/
  | writeAcknowledge (c : Nat) (id : Nat)
  /-- VLD (R298): loads a stretch of lanes from memory. -/
  | vld (m : Mark) (n : BitVec 2) (vd : V5) (ea : EA) (g : Guard)
  /-- VST (R298): stores a stretch of lanes to memory. -/
  | vst (m : Mark) (n : BitVec 2) (vs : V5) (ea : EA) (g : Guard)
  /-- VLDX (R299): gathers one element per lane from indexed addresses. -/
  | vldx (m : Mark) (sz : Size) (sx : Bool) (vd : V5) (ea : VEA) (g : Guard)
  /-- VSTX (R299): scatters one element per lane to indexed addresses. -/
  | vstx (m : Mark) (sz : Size) (vs : V5) (ea : VEA) (g : Guard)
  /-- PREF (R300): speculatively brings lines into the L1 or the Deck. -/
  | pref (m : Mark) (dk : Bool) (n : BitVec 2) (ea : EA) (g : Guard)
  /-- PROBE (R40): drains the role, walks a range and pins it or asks the kernel. -/
  | probe (m : Mark) (mode : AMode) (rd ra rb : G6) (g : Guard)
  /-- UNPIN (R301): removes the newest matching pin of the context. -/
  | unpin (m : Mark) (rd ra rb : G6) (g : Guard)
  /-- PHASE (R302): release then acquire at a scope. -/
  | phase (m : Mark) (x : Scope)
  /-- ACQ (R302): acquire fence at a scope. -/
  | acq (m : Mark) (x : Scope)
  /-- REL (R302): release fence at a scope. -/
  | rel (m : Mark) (x : Scope)
  /-- DRAIN (R95): places markers in named engine rings and starts a release of engine work. -/
  | drain (m : Mark) (sys : Bool) (mask : BitVec 2)
  /-- DRAIN_COMPLETE (R95): all markers retire and writes are acknowledged, so the drain completes as a release. -/
  | drainComplete (c : Nat) (r : RoleId)
  /-- AMO (R125): sends an atomic operation to the target's home slice. -/
  | amo (m : Mark) (op : SliceOp) (dbl : Bool) (rd ra rs : G6)
  /-- CAS (R125): sends a compare-and-swap to the target's home slice. -/
  | cas (m : Mark) (rd ra re rn : G6)
  /-- CASC (R136): compare-and-swap that launches a continuation task on success. -/
  | casc (m : Mark) (rd ra re rn : G6) (cidx : BitVec 12)
  /-- VAMO (R127): applies an atomic per active lane in lane order. -/
  | vamo (m : Mark) (op : SliceOp) (vd : V5) (rb : G6) (vi : V5) (sc : BitVec 2) (vs : V5) (g : Guard)
  /-- ATOMIC_REPLY (R325): an atomic's reply arrives, writing the old value and ORing its flags. -/
  | atomicReply (c : Nat) (r : RoleId)
  /-- CASC_RETRY (R136): a casc answered busy resends after its backoff expires. -/
  | cascRetry (c : Nat) (r : RoleId)
  /-- SNOPEN (R164): opens the next snapshot level over a range. -/
  | snopen (m : Mark) (rd ra rb rc : G6)
  /-- SNACC (R165): accepts the innermost snapshot level. -/
  | snacc (m : Mark) (ra : G6)
  /-- SNREJ (R165): rejects the innermost snapshot level. -/
  | snrej (m : Mark) (ra : G6)
  /-- SNQ (R166): reads the state of a snapshot context. -/
  | snq (m : Mark) (rd ra : G6)
  /-- VOTE (R188): casts one local vote at Keystone. -/
  | vote (m : Mark) (ra : G6)
  /-- VWAIT (R191): waits for a step decision and returns LASTDEC. -/
  | vwait (m : Mark) (rd : G6)
  /-- VFLAG (R189): oRs LOSS or SW flags into the step's flags. -/
  | vflag (m : Mark) (loss sw : Bool)
  /-- RAND (R195): draws a Philox value from a step stream without changing it. -/
  | rand (m : Mark) (rd ra : G6) (stream : BitVec 6)
  /-- GEN (R190): reads generation or Keystone state. -/
  | gen (m : Mark) (rd : G6) (sel : BitVec 2)
  /-- VADD (R339): lanewise addition. -/
  | vadd (m : Mark) (dt : DType) (rm : RM) (sat : Bool) (vd va vb : V5) (g : Guard)
  /-- VSUB (R339): lanewise subtraction. -/
  | vsub (m : Mark) (dt : DType) (rm : RM) (sat : Bool) (vd va vb : V5) (g : Guard)
  /-- VMUL (R339): lanewise multiplication. -/
  | vmul (m : Mark) (dt : DType) (rm : RM) (sat : Bool) (vd va vb : V5) (g : Guard)
  /-- VFMA (R339): lanewise fused multiply-add. -/
  | vfma (m : Mark) (dt : DType) (rm : RM) (sat : Bool) (vd va vb vc : V5) (g : Guard)
  /-- VFMS (R339): lanewise fused multiply-subtract. -/
  | vfms (m : Mark) (dt : DType) (rm : RM) (sat : Bool) (vd va vb vc : V5) (g : Guard)
  /-- VFNMA (R339): lanewise negated fused multiply-add. -/
  | vfnma (m : Mark) (dt : DType) (rm : RM) (sat : Bool) (vd va vb vc : V5) (g : Guard)
  /-- VNEG (R339): lanewise negation. -/
  | vneg (m : Mark) (dt : DType) (sat : Bool) (vd va : V5) (g : Guard)
  /-- VABS (R339): lanewise absolute value. -/
  | vabs (m : Mark) (dt : DType) (sat : Bool) (vd va : V5) (g : Guard)
  /-- VMIN (R339): lanewise minimum. -/
  | vmin (m : Mark) (dt : DType) (vd va vb : V5) (g : Guard)
  /-- VMAX (R339): lanewise maximum. -/
  | vmax (m : Mark) (dt : DType) (vd va vb : V5) (g : Guard)
  /-- VRCP (R339): lanewise correctly rounded reciprocal. -/
  | vrcp (m : Mark) (dt : DType) (rm : RM) (sat : Bool) (vd va : V5) (g : Guard)
  /-- VRSQ (R339): lanewise reciprocal square root. -/
  | vrsq (m : Mark) (dt : DType) (rm : RM) (sat : Bool) (vd va : V5) (g : Guard)
  /-- VSQRT (R339): lanewise square root. -/
  | vsqrt (m : Mark) (dt : DType) (rm : RM) (sat : Bool) (vd va : V5) (g : Guard)
  /-- VDIV (R339): lanewise division. -/
  | vdiv (m : Mark) (dt : DType) (rm : RM) (sat : Bool) (vd va vb : V5) (g : Guard)
  /-- VEXP2 (R339): lanewise base-2 exponential. -/
  | vexp2 (m : Mark) (dt : DType) (sat : Bool) (vd va : V5) (g : Guard)
  /-- VLOG2 (R339): lanewise base-2 logarithm. -/
  | vlog2 (m : Mark) (dt : DType) (vd va : V5) (g : Guard)
  /-- VTANH (R339): lanewise hyperbolic tangent. -/
  | vtanh (m : Mark) (dt : DType) (vd va : V5) (g : Guard)
  /-- VCLAMP (R339): lanewise clamp between two bounds. -/
  | vclamp (m : Mark) (dt : DType) (vd va vb vc : V5) (g : Guard)
  /-- VCMP (R342): lanewise comparison into a predicate. -/
  | vcmp (m : Mark) (c : Cond) (hi : Bool) (dt : DType) (pd : P3) (va vb : V5) (g : Guard)
  /-- VSEL (R343): lanewise selection by a predicate. -/
  | vsel (m : Mark) (vd va vb : V5) (p : P3) (g : Guard)
  /-- VAND (R343): lanewise bitwise AND. -/
  | vand (m : Mark) (vd va vb : V5) (g : Guard)
  /-- VOR (R343): lanewise bitwise OR. -/
  | vor (m : Mark) (vd va vb : V5) (g : Guard)
  /-- VXOR (R343): lanewise bitwise XOR. -/
  | vxor (m : Mark) (vd va vb : V5) (g : Guard)
  /-- VMOV (R343): copies each active lane. -/
  | vmov (m : Mark) (vd va : V5) (g : Guard)
  /-- VSHL (R344): lanewise left shift by a per-lane count. -/
  | vshl (m : Mark) (vd va vb : V5) (g : Guard)
  /-- VSHR (R344): lanewise logical right shift by a per-lane count. -/
  | vshr (m : Mark) (vd va vb : V5) (g : Guard)
  /-- VSAR (R344): lanewise arithmetic right shift by a per-lane count. -/
  | vsar (m : Mark) (vd va vb : V5) (g : Guard)
  /-- VSHL_IMMEDIATE (R344): lanewise left shift by an immediate. -/
  | vshlImmediate (m : Mark) (vd va : V5) (n : BitVec 6) (g : Guard)
  /-- VSHR_IMMEDIATE (R344): lanewise logical right shift by an immediate. -/
  | vshrImmediate (m : Mark) (vd va : V5) (n : BitVec 6) (g : Guard)
  /-- VSAR_IMMEDIATE (R344): lanewise arithmetic right shift by an immediate. -/
  | vsarImmediate (m : Mark) (vd va : V5) (n : BitVec 6) (g : Guard)
  /-- VCVT (R345): converts lanes between f32, bf16, f16 and i32. -/
  | vcvt (m : Mark) (hi : Bool) (dt dt2 : DType) (rm : RM) (sat : Bool) (vd va : V5) (g : Guard)
  /-- VSCL (R347): computes E8M0 block scales for a stretch. -/
  | vscl (m : Mark) (dt dt2 : DType) (vd va : V5) (q : BitVec 3) (g : Guard)
  /-- VPACK (R348): converts wide elements into a stretch of narrow elements. -/
  | vpack (m : Mark) (dt dt2 : DType) (rm : RM) (sat : Bool) (vd va vb : V5) (q : BitVec 3) (g : Guard)
  /-- VUNPK (R349): converts a stretch of narrow elements into wide elements. -/
  | vunpk (m : Mark) (dt dt2 : DType) (rm : RM) (sat : Bool) (vd va vb : V5) (q : BitVec 3) (g : Guard)
  /-- VRED (R350): reduces every element by a fixed tree into lane 0. -/
  | vred (m : Mark) (op : RedOp) (dt dt2 : DType) (rm : RM) (sat : Bool) (vd va : V5) (g : Guard)
  /-- VDOT (R351): dot products into 16 lanes through the aligned adder. -/
  | vdot (m : Mark) (dt dt2 : DType) (vd va vb vc : V5) (g : Guard)
  /-- VBC (R352): broadcasts a general register to every element. -/
  | vbc (m : Mark) (dt : DType) (vd : V5) (ga : G6) (g : Guard)
  /-- VBC_ELEMENT (R352): broadcasts one element of va to every element. -/
  | vbcElement (m : Mark) (dt : DType) (vd va : V5) (idx : BitVec 16) (g : Guard)
  /-- VEXT (R352): extracts one element into a general register. -/
  | vext (m : Mark) (sx : Bool) (dt : DType) (rd : G6) (va : V5) (idx : BitVec 16) (g : Guard)
  /-- VINS (R352): inserts a general register into one element. -/
  | vins (m : Mark) (dt : DType) (vd : V5) (ga : G6) (idx : BitVec 16) (g : Guard)
  /-- VSLIDE_DN (R353): shifts lanes down by a count. -/
  | vslideDn (m : Mark) (vd va : V5) (ga : G6) (n : BitVec 16) (g : Guard)
  /-- VSLIDE_UP (R353): shifts lanes up by a count. -/
  | vslideUp (m : Mark) (vd va : V5) (ga : G6) (n : BitVec 16) (g : Guard)
  /-- VIOTA (R353): writes an arithmetic sequence by lane index. -/
  | viota (m : Mark) (vd : V5) (ga : G6) (stp : BitVec 16) (g : Guard)
  /-- VIOTA_PC (R353): writes an arithmetic sequence by active-lane count. -/
  | viotaPc (m : Mark) (vd : V5) (ga : G6) (stp : BitVec 16) (g : Guard)
  /-- VPERM (R354): permutes lanes from a 128-lane table. -/
  | vperm (m : Mark) (vd va vb vc : V5) (g : Guard)
  /-- VZIP (R354): interleaves elements of two registers. -/
  | vzip (m : Mark) (hi : Bool) (dt : DType) (vd va vb : V5) (g : Guard)
  /-- VUZP (R354): de-interleaves elements of two registers. -/
  | vuzp (m : Mark) (hi : Bool) (dt : DType) (vd va vb : V5) (g : Guard)
  /-- VRAND (R355): fills active lanes with Philox words from a step stream. -/
  | vrand (m : Mark) (vd : V5) (ga : G6) (stream : BitVec 6) (g : Guard)
  /-- ASYNC_TRAP_DELIVERY (R373): a held MISMATCH or copy-job SHADOW_FULL is delivered at the role's next word boundary. -/
  | asyncTrapDelivery (c : Nat) (r : RoleId)
  /-- OVERDUE (R220): a role would issue with SAFECNT at 4096, taking the fatal OVERDUE. -/
  | overdue (c : Nat) (r : RoleId)
  /-- DEADLOCK (R224): all roles blocked locally with idle engines for 2^20 clocks raises fatal DEADLOCK. -/
  | deadlock (c : Nat)
  /-- FAULT_RECORD_WRITE (R445): a buffered record is written to the die fault queue once the ring has room. -/
  | faultRecordWrite (d : Nat)
  /-- MNOP (R371): matrix command that acts only through its wait and signal bytes. -/
  | mnop (ws : WaitSig)
  /-- MMA (R365): accumulates A × B of one K slice into an accumulator. -/
  | mma (ws : WaitSig) (lp : Bool) (fidx ha hb : BitVec 4) (acc : BitVec 3) (reuse popa popb : Bool)
  /-- MZR (R367): clears an accumulator and sets its TYPE. -/
  | mzr (ws : WaitSig) (acc : BitVec 3) (ty cs : Bool)
  /-- MLD (R368): loads an accumulator bit for bit from a tile slot. -/
  | mld (ws : WaitSig) (acc : BitVec 3) (ty cs : Bool) (h : BitVec 4) (pop : Bool)
  /-- MDR (R369): converts an accumulator into a tile slot. -/
  | mdr (ws : WaitSig) (acc : BitVec 3) (dt : BitVec 4) (rm : RM) (sat : Bool) (h : BitVec 4) (clr free : Bool)
  /-- MCFG_REDUNDANT (R370): sets redundant mode and empties the A buffer. -/
  | mcfgRedundant (ws : WaitSig) (red : Bool)
  /-- MCFG_LOAD_FORMAT (R370): loads FMT0–FMT15 from a handle slot. -/
  | mcfgLoadFormat (ws : WaitSig) (h : BitVec 4) (pop : Bool)
  /-- MATRIX_COMMAND_START (R362): a filled command at the head of h14 is read, its slots freed and its wait byte taken. -/
  | matrixCommandStart (c : Nat)
  /-- MATRIX_COMMAND_COMPLETION (R362): a matrix command completes in ring order, acting on its signal byte and FLAGS OR. -/
  | matrixCommandCompletion (c : Nat)
  /-- CNOP (R384): copy command that completes after every earlier h15 command. -/
  | cnop (ws : WaitSig)
  /-- CPY (R385): copies rows of bytes in up to three dimensions. -/
  | cpy (ws : WaitSig) (dims : BitVec 2) (src dst : CopySide) (x : CopyOpts) (len : BitVec 24) (shp : BitVec 18)
  /-- CPYD (R386): decompresses a CMP range into scratch. -/
  | cpyd (ws : WaitSig) (sa : BitVec 57) (dst : CopySide) (x : CopyOpts) (len : BitVec 24)
  /-- GATH (R387): gathers indexed elements into a dense side. -/
  | gath (ws : WaitSig) (table : BitVec 57) (dst : CopySide) (x : CopyOpts) (nm1 : BitVec 16) (esz : BitVec 4) (idx : BitVec 19)
  /-- SCAT (R387): scatters dense elements to indexed addresses. -/
  | scat (ws : WaitSig) (src : CopySide) (table : BitVec 57) (x : CopyOpts) (nm1 : BitVec 16) (esz : BitVec 4) (idx : BitVec 19)
  /-- FILL (R388): writes a 64-bit pattern over a region. -/
  | fill (ws : WaitSig) (dst : CopySide) (x : CopyOpts) (len : BitVec 24) (pat : BitVec 64)
  /-- REDC (R389): sends reduction contributions to home slices. -/
  | redc (ws : WaitSig) (src : CopySide) (da : BitVec 57) (x : CopyOpts) (len : BitVec 24) (op : BitVec 4) (dbl : Bool) (group : BitVec 8) (srcid : BitVec 16)
  /-- BARTX (R390): completes bytes on a barrier after earlier commands complete. -/
  | bartx (ws : WaitSig) (bcore : BitVec 6) (boff : BitVec 17) (bytes : BitVec 48)
  /-- COPY_JOB_ADMISSION (R377): a copy command takes its wait byte and slot claims and passes its checks. -/
  | copyJobAdmission (c : Nat)
  /-- COPY_JOB_COMPLETION (R377): a job's writes, handle operations and byte counts finish and its signal byte acts. -/
  | copyJobCompletion (c : Nat) (id : Nat)
  /-- COPY_JOB_STOP (R392): a job's write is refused SHADOWFULL and the job stops. -/
  | copyJobStop (c : Nat) (id : Nat) (line : Nat)
  /-- CONTRIBUTION_RESEND (R132): a refused contribution is resent after a 64-clock backoff. -/
  | contributionResend (c : Nat) (id : Nat)
  /-- HOME_SLICE_READ (R61): a read reaches its home slice and is served from the Deck or the controller. -/
  | homeSliceRead (c : Nat) (r : RoleId) (id part : Nat) (err : Option MemErr)
  /-- HOME_SLICE_WRITE (R120): a write reaches its home slice and is performed in its serial order. -/
  | homeSliceWrite (c : Nat) (id : Nat)
  /-- SECOND_TOUCH_FILTER_CLEAR (R63): the slice miss count reaches 2^20 and the filter and count clear. -/
  | secondTouchFilterClear (sl : Nat)
  /-- SLICE_ATOMIC (R125): a home slice performs an atomic as one serial step and replies. -/
  | sliceAtomic (c : Nat) (r : RoleId)
  /-- SLICE_CASC (R136): a home slice admits a casc, compares, and launches its continuation on success. -/
  | sliceCasc (c : Nat) (r : RoleId)
  /-- REDUCTION_CONTRIBUTION (R131): a contribution arrives at its slice and is applied, held or refused by its group round. -/
  | reductionContribution (x : Contribution)
  /-- CONTINUATION_ACCEPT (R141): collie accepts a launched continuation into its pool or Kennel. -/
  | continuationAccept (sl : Nat)
  /-- ADMISSION_HOLD_EXPIRY (R139): a held launch entry's member does not retry within 4096 clocks and leaves the ring. -/
  | admissionHoldExpiry (sl : Nat)
  /-- DECK_WALKER_ENTRY (R156): the Deck walker applies a pending accept or reject to one shadow directory entry. -/
  | deckWalkerEntry (d : Nat)
  /-- PATROL_SCRUB (R74): the scrubber reads a row, corrects and logs its codewords. -/
  | patrolScrub (n : Nat) (found : List ScrubFinding) (lastRow : Bool)
  /-- REPAIR_PASS (R178): a controller runs one version repair pass over its VER blocks. -/
  | repairPass (n : Nat)
  /-- ABW_RETIRE (R178): an abort-window entry is invalidated once every pass and walker has cleared it. -/
  | abwRetire (k : Nat)
  /-- XID_WRITE (R33): writing a unit's XID register reads that XID's root entry into the unit. -/
  | xidWrite (u : Nat) (x : BitVec 64)
  /-- CARVE_WRITE (R64): a carve-out register write resizes the carve-out and shadow pool or is refused. -/
  | carveWrite (d : Nat) (x : BitVec 64)
  /-- CARVE_RESIZE_DONE (R65): every slice has finished resizing and BUSY returns to 0. -/
  | carveResizeDone (d : Nat)
  /-- MDREG_REGISTER (R70): registers a 64 KiB granule with CMP and VER attributes. -/
  | mdregRegister (n : Nat) (x : BitVec 64)
  /-- MDREG_DEREGISTER (R70): deregisters a granule, writing its data raw. -/
  | mdregDeregister (n : Nat) (x : BitVec 64)
  /-- MDREG_DONE (R70): a metadata operation finishes and BUSY returns to 0. -/
  | mdregDone (n : Nat)
  /-- PROBEACK_WRITE (R41): the kernel answers a probe request: re-walk or refuse. -/
  | probeackWrite (d : Nat) (x : BitVec 64)
  /-- RGRP_WRITE (R130): enables or disables a reduction group, loading its slot table into every slice. -/
  | rgrpWrite (n : Nat) (x : BitVec 64)
  /-- RGRP_DROP (R130): discards every open round and held contribution of a group. -/
  | rgrpDrop (n : Nat)
  /-- RGRP_DONE (R130): a table load or discard finishes at every slice and BUSY returns to 0. -/
  | rgrpDone (n : Nat)
  /-- CTAB_WRITE_ENTRY (R135): writes a CTAB entry to every slice and core. -/
  | ctabWriteEntry (x : BitVec 64)
  /-- CTAB_READ_ENTRY (R135): reads a CTAB entry into CTABD0 and CTABD1. -/
  | ctabReadEntry (x : BitVec 64)
  /-- CTAB_UPDATE_DONE (R135): every copy holds the new entry and BUSY returns to 0. -/
  | ctabUpdateDone
  /-- KSCFG_WRITE (R181): configures the Keystone node, accepted only in permitted states. -/
  | kscfgWrite (x : BitVec 64)
  /-- START (R182): root starts the commit tree, sending DECIDE START. -/
  | start (x : BitVec 64)
  /-- STOP (R182): root sets STOPREQ so the next decision closes the tree. -/
  | stop
  /-- LOCALABORT (R182): aborts GEN.O at this device alone and goes IDLE. -/
  | localAbort
  /-- VOTE_FORMED (R185): a node forms its vote, sends VOTE to its parent, and a root decides. -/
  | voteFormed
  /-- VOTE_TIMEOUT (R185): the vote timer reaches TIMEOUT and the vote forms with TIMEOUT raised. -/
  | voteTimeout
  /-- VOTE_MESSAGE (R187): a child's VOTE arrives and is counted or discarded as late. -/
  | voteMessage (port : Nat) (gn : BitVec 48) (flags : BitVec 8) (devid : BitVec 12)
  /-- DECIDE (R184): a DECIDE arrives; the node applies and forwards it. -/
  | decideMessage (port : Nat) (out : TreeOut) (gn next : BitVec 48) (flags : BitVec 8)
  /-- DACK (R187): a child's DACK arrives at its parent. -/
  | dack (port : Nat) (next : BitVec 48) (devid : BitVec 12)
  /-- DACK_SEND (R187): a node's DACK conditions are met and it sends DACK or, as root, OPEN. -/
  | dackSend
  /-- OPEN (R184): an OPEN arrives; the node marks DONE, forwards and opens the step. -/
  | openMessage (port : Nat) (next : BitVec 48)
  /-- HOST_LAUNCH (R402): an aligned 128-byte write to a launch aperture submits a task record. -/
  | hostLaunch (d : Nat) (off : Nat) (bytes : List (BitVec 8))
  /-- TASK_SUBMISSION (R404): collie reads, checks and places a submitted record, creating its edges. -/
  | taskSubmission (d : Nat)
  /-- KENNEL_MOVE (R405): collie moves the oldest Kennel record into the pool when room frees. -/
  | kennelMove (d : Nat)
  /-- SUCCESSOR_SUBMIT (R409): a waiting submit entry submits its record once room exists. -/
  | successorSubmit (d : Nat)
  /-- DISPATCH_DECISION (R413): every 8 clocks Collie places the first ready task with a free position. -/
  | dispatchDecision (d : Nat)
  /-- DISPATCH (R414): collie sets each core of the rectangle and the task's first word issues. -/
  | dispatch (d : Nat)
  /-- LEVEL_RISE (R412): a ready task waits AGE × 1024 clocks and its level rises by one. -/
  | levelRise (d : Nat) (id : Nat)
  /-- NODE_DECIDE (R411): a ready COND or LOOPNODE reads its predicate and acts on set A or B. -/
  | nodeDecide (d : Nat)
  /-- SEGMENT_END (R415): all roles reach fin in a LOOP segment and the next segment starts. -/
  | segmentEnd (d : Nat) (id : Nat)
  /-- TASK_RETIREMENT (R416): all roles at fin and rings empty: the task retires and releases successors. -/
  | taskRetirement (d : Nat) (id : Nat)
  /-- PREEMPT_REQUEST (R419): a CLPRE write requests pre-emption of a rectangle. -/
  | preemptRequest (d : Nat) (x : BitVec 64)
  /-- PREEMPT_SAVE (R420): once every role is stoppable, engines finish and the state is saved. -/
  | preemptSave (d : Nat)
  /-- RESUME (R422): a pre-empted task resumes at its own position with its state restored. -/
  | resume (d : Nat)
  /-- COLLECTIVE_PART (R434): a collective part arrives at a port and is consumed or parked. -/
  | collectivePart (port : Nat) (part : CollPart)
  /-- PARKED_PART_DISCARD (R434): a part parked for 2 ms is discarded and its sender answered REFUSED. -/
  | parkedPartDiscard (port : Nat)
  /-- COLLECTIVE_COMPLETE (R279): a collective completes at this device and its semaphore is added to. -/
  | collectiveComplete (port : Nat) (k : Nat)
  /-- COLLECTIVE_TIMEOUT (R435): 2 ms pass without progress and the collective fails. -/
  | collectiveTimeout (port : Nat) (k : Nat)
  /-- PEER_REQUEST (R427): an incoming peer access is performed at its home slice and answered. -/
  | peerRequest (port : Nat) (q : PeerReq)
  /-- PEER_RESPONSE (R427): a peer answer arrives and its status takes effect at the requester. -/
  | peerResponse (tag : Nat) (st : PeerStatus) (data : List (BitVec 8))
  /-- PTMC_WRITE_ARRIVAL (R428): a multicast page-table write is applied, forwarded and acknowledged. -/
  | ptmcWriteArrival (port : Nat) (origin sq : Nat) (dpa : BitVec 44) (val : BitVec 64)
  /-- PORT_DOWN (R423): eight consecutive replays of a flit fail and the port goes DOWN. -/
  | portDown (port : Nat)
  /-- PORTCFG_WRITE (R425): a change of EN or LANES retrains the port. -/
  | portcfgWrite (port : Nat) (x : BitVec 64)
  /-- PORT_UP (R425): training completes and the port returns UP. -/
  | portUp (port : Nat)
  /-- ROUTE_WRITE (R426): writes a route table entry. -/
  | routeWrite (x : BitVec 64)
  /-- ROUTE_READ (R426): reads a route table entry into V and PORT. -/
  | routeRead (x : BitVec 64)
  /-- HOST_READ (R105): a host read through BAR2 is translated and served at the home slice. -/
  | hostRead (va : Nat) (n : Nat)
  /-- HOST_WRITE (R105): a host write through BAR2 is performed at its home slice in PCIe order. -/
  | hostWrite (va : Nat) (bytes : List (BitVec 8))
  /-- UNSUPPORTED_REQUEST (R453): a BAR0 access that is not aligned 8-byte completes with Unsupported Request. -/
  | unsupportedRequest (off n : Nat)
  /-- DOORBELL (R454): a host doorbell write ORs into VALUE and wakes the die's system core. -/
  | doorbell (d : Nat) (x : BitVec 64)
  /-- DOORBELL_READ (R454): a system-core read returns VALUE and clears it. -/
  | doorbellRead (d : Nat)
  /-- TSTAMP_WRITE (R454): a host time write captures every die's cycle count in TSCAP. -/
  | tstampWrite (x : BitVec 64)
  /-- HERR_READ (R454): reading HERR returns and clears its counters. -/
  | herrRead
  /-- EHPTR_READ (R75): reading EHPTR returns and clears LOST. -/
  | ehptrRead (n : Nat)
  /-- SHSTAT_READ (R154): reading SHSTAT returns and clears HDROP. -/
  | shstatRead (d : Nat)
  /-- KSSTAT_READ (R182): reading KSSTAT returns and clears LATE. -/
  | ksstatRead
  /-- LSTAT_READ (R402): reading LSTAT returns and clears DROPS. -/
  | lstatRead (d : Nat)
  /-- KNSTAT_READ (R405): reading KNSTAT returns and clears HIGH. -/
  | knstatRead (d : Nat)
  /-- CLSTAT_READ (R406): reading CLSTAT returns and clears OVREL. -/
  | clstatRead (d : Nat)
  /-- PORTSTAT_READ (R425): reading PORTSTAT returns and clears DOWNS, REPLAY and PDROP. -/
  | portstatRead (port : Nat)
  /-- FQPTR_READ (R445): reading FQPTR returns and clears LOST and MERGED. -/
  | fqptrRead (d : Nat)
  /-- TRPTR_READ (R452): reading TRPTR returns and clears LOST. -/
  | trptrRead (d : Nat)
  /-- REGISTER_WRITE (R281): a write to a register with no behaviour of its own sets its fields by access code. -/
  | registerWrite (n : Nat) (x : BitVec 64)
  /-- CONTEXT_RESET (R456): tears down the rectangle at a named origin with KILLED. -/
  | contextReset (x : BitVec 64)
  /-- WARM_RESET (R457): stops every unit at once, keeping HBM in self-refresh. -/
  | warmReset
  /-- QUIESCED_WARM_RESET (R457): quiesces, writes back dirty state, then resets warm. -/
  | quiescedWarmReset
  /-- COLD_RESET (R455): power-on, PERST# or RSTCTL resets the whole part cold. -/
  | coldReset
  /-- ATTESTATION_REPORT (R459): aTTCTL GO starts a signed attestation report into BUF. -/
  | attestationReport (x : BitVec 64)
  /-- ATTESTATION_DONE (R459): the report is written and BUSY returns to 0. -/
  | attestationDone
  /-- CFGSW_GO (R464): requests every unit with a differing shadow plane to switch. -/
  | cfgswGo
  /-- UNIT_PLANE_SWITCH (R464): a unit reaches a quiesce point and switches its active plane. -/
  | unitPlaneSwitch (u : Nat)
  /-- PWRCTL_WRITE (R465): changes an island's clock level or is refused. -/
  | pwrctlWrite (i : Nat) (x : BitVec 64)
  /-- POWER_CHANGE_DONE (R465): an island finishes its level change and BUSY returns to 0. -/
  | powerChangeDone (i : Nat)
  /-- TELEMETRY_SAMPLE (R465): each millisecond telemetry samples island power, temperature and port rates. -/
  | telemetrySample (isl : List TeleSample) (ports : List PortSample)
  /-- DEBUG_HALT (R449): a debug write halts or resumes roles at a word boundary. -/
  | debugHalt (c : Nat) (x : BitVec 64)
  /-- DEBUG_STEP (R450): a role issues exactly one executed word and halts. -/
  | debugStep (c : Nat) (r : RoleId)
  /-- ADDRESS_BREAKPOINT (R450): a role halts before issuing a word at a breakpoint address. -/
  | addressBreakpoint (c : Nat) (r : RoleId)
  /-- DBGDATA_READ (R449): reads a selected item of a halted role. -/
  | dbgdataRead (c : Nat)
  /-- DBGDATA_WRITE (R449): writes a selected item of a halted role, binding the register. -/
  | dbgdataWrite (c : Nat) (x : BitVec 64)
  /-- FLIT_REPLAY (R423): a received flit fails its CRC check and is replayed from the sender's replay buffer, counting in PORTSTAT.REPLAY. -/
  | flitReplay (port : Nat)
  /-- PART_ANSWER (R435): the answer to a sent collective part arrives; OK counts toward completion and restarts the 2 ms progress timer, while REFUSED or NOROUTE fails the collective with fatal ENGINE. -/
  | partAnswer (port : Nat) (tag : Nat) (st : PartStatus)
  /-- PTMC_ACKNOWLEDGEMENT (R428): a replica's acknowledgement of a ptmc write arrives at the origin, letting ptmc.sync complete once every write is acknowledged. -/
  | ptmcAcknowledgement (origin sq : Nat)
  /-- PREDECODE_SKIP (R201): in a clock where a role's predecoder finds no word it executes among the four at its counter, the counter advances by 4 and WALK grows, with nothing issued. -/
  | predecodeSkip (c : Nat) (r : RoleId)
  deriving DecidableEq, Repr

end Sys2Proof
end

