-- ==== Sys2Proof/WellFormed.lean ====
section
/-! DEFINITION. Sys2Proof/WellFormed.lean: which instructions are well formed: every ILLEGAL cause of R240 that is a
matter of operand values, each under its own name. The zero fields of a word are the decoder's matter. -/

namespace Sys2Proof

/-- Why a word is not an instruction (R240), or a command word no command (R245). -/
inductive Ill where
  | opcode | selector | zeroField | guard | peekDest | cond | rm | scope | dtype | range | mark | operand | mergeQueue
  | extension | short | command | marker
  deriving DecidableEq, Repr

namespace Check

/-- The first check that fails, of a list of (holds, name). -/
def first : List (Bool × Ill) → Option Ill
  | [] => none
  | (b, e) :: r => if b then first r else some e

/-- The guard code 1000b is reserved (R227). -/
def guard (g : Guard) : Bool := !(g.neg && g.pidx == 0)

/-- A G6 destination is no peek form (R226). -/
def gd (r : G6) : Bool := r.toNat < 56

/-- A V5 destination is no peek form (R226). -/
def vd (r : V5) : Bool := r.toNat < 30

/-- A V5 destination whose old value is merged is no queue (R334). -/
def vmerge (r : V5) : Bool := r.toNat < 28

/-- A register that holds a link is g0 to g47 (R265). -/
def link (r : G6) : Bool := r.toNat < 48

/-- The reserved data type codes (R237), which raise FMT instead of ILLEGAL (R240). -/
def reserved : DType → Bool
  | .r11 | .r13 | .r14 | .r15 => true
  | _ => false

/-- Element width in bits (R333); reserved codes count as 32. -/
def width : DType → Nat
  | .bf16 | .f16 => 16
  | .e4m3 | .e5m2 | .mxe4m3 | .mxe5m2 | .i8 => 8
  | .mxf4 | .s4 | .k4 => 4
  | _ => 32

/-- The types .f32, .bf16, .f16 (R339). -/
def isFloat : DType → Bool
  | .f32 | .bf16 | .f16 => true
  | _ => false

/-- The types .i32 and .i8 (R339). -/
def isInt : DType → Bool
  | .i32 | .i8 => true
  | _ => false

def isWide : DType → Bool
  | .f32 | .bf16 | .i32 => true
  | _ => false

/-- The scaled narrow formats (R347). -/
def isScaled : DType → Bool
  | .mxe4m3 | .mxe5m2 | .mxf4 | .s4 | .k4 => true
  | _ => false

/-- The narrow formats with no scale register (R346). -/
def isUnscaled : DType → Bool
  | .e4m3 | .e5m2 | .i8 => true
  | _ => false

def isNarrow (d : DType) : Bool := isScaled d || isUnscaled d

/-- The types of lane movement (R352). -/
def isMove : DType → Bool
  | .f32 | .i32 | .bf16 | .f16 | .e4m3 | .e5m2 | .i8 => true
  | _ => false

/-- A type field is listed by its entry, or reserved (R240, R337). -/
def ty (listed : DType → Bool) (d : DType) : Bool := reserved d || listed d

/-- A pair of listed types is not excluded; pairs with a reserved code are judged by FMT later. -/
def pair (ok : DType → DType → Bool) (d e : DType) : Bool := reserved d || reserved e || ok d e

/-- The stretch q lies in the table of R346. -/
def stretch (wide narrow : DType) (q : BitVec 3) : Bool :=
  reserved wide || reserved narrow ||
    q.toNat < (2048 / width narrow) / (if width wide == 32 then 64 else 128)

/-- An element index lies in the register (R352). -/
def index (d : DType) (i : BitVec 16) : Bool := reserved d || i.toNat < 2048 / width d

def unsignedCond : Cond → Bool
  | .ltu | .geu | .gtu | .leu => true
  | _ => false

/-- A slice operation is allowed at the 64-bit size (R124). -/
def dblOp : SliceOp → Bool
  | .fadd | .fadd2 => false
  | _ => true

def redPair : DType → DType → Bool
  | .f32, .f32 | .f32, .bf16 | .f32, .f16 | .bf16, .bf16 | .f16, .f16 | .i32, .i32 => true
  | _, _ => false

def dotPair : DType → DType → Bool
  | .f32, .e4m3 | .f32, .e5m2 | .f32, .bf16 | .f32, .f16 | .f32, .mxf4 | .f32, .s4 | .f32, .k4 => true
  | .i32, .i8 => true
  | _, _ => false

/-- The source types of vdot taken alone (R351). -/
def isDotSrc : DType → Bool
  | .e4m3 | .e5m2 | .bf16 | .f16 | .mxf4 | .s4 | .k4 | .i8 => true
  | _ => false

/-- The pair of vcvt (R345). -/
def cvtPair (d e : DType) : Bool := d != e

def isCvt (d : DType) : Bool := isFloat d || d == .i32

/-- The wait and signal bytes: reserved WCOND, and the zero fields of disabled bytes (R243, R244). -/
def waitSig (w : WaitSig) : Bool :=
  w.wcond != 3 && (w.wen || (w.wsem == 0 && w.wcond == 0)) && (w.sen || (w.ssem == 0 && w.sop == 0))

/-- Barrier fields of a copy command: zero when BEN = 0 (R382). -/
def copyOpts (x : CopyOpts) : Bool := x.ben || (x.bcore == 0 && x.boff == 0)

/-- A destination handle has no pop bit (R382). -/
def noPop : CopySide → Bool
  | .handle _ p => !p
  | .addr _ => true

end Check

open Check in
/-- The first failing check of an instruction; none when it is well formed. Events carry no encoding and are well
formed. Command fields whose fate is a check of the engine (R372, R391) are not judged here. -/
def Instr.check : Instr → Option Ill
  | .nop _ g => first [(guard g, .guard)]
  | .add _ d _ _ g | .sub _ d _ _ g | .mul _ d _ _ g | .mulh _ d _ _ g | .mulhu _ d _ _ g
  | .div _ d _ _ g | .divu _ d _ _ g | .rem _ d _ _ g | .remu _ d _ _ g
  | .and _ d _ _ g | .or _ d _ _ g | .xor _ d _ _ g | .andn _ d _ _ g
  | .shl _ d _ _ g | .shr _ d _ _ g | .sar _ d _ _ g | .rotr _ d _ _ g
  | .min _ d _ _ g | .max _ d _ _ g | .minu _ d _ _ g | .maxu _ d _ _ g =>
      first [(gd d, .peekDest), (guard g, .guard)]
  | .clz _ d _ g | .ctz _ d _ g | .popc _ d _ g | .mov _ d _ g => first [(gd d, .peekDest), (guard g, .guard)]
  | .sext _ d _ _ g | .zext _ d _ _ g => first [(gd d, .peekDest), (guard g, .guard)]
  | .bfx _ d _ pos len g | .bfi _ d _ _ pos len g =>
      first [(gd d, .peekDest), (pos.toNat + (len.toNat + 1) ≤ 64, .range), (guard g, .guard)]
  | .sel _ d _ _ _ g => first [(gd d, .peekDest), (guard g, .guard)]
  | .li _ d _ g => first [(gd d, .peekDest), (guard g, .guard)]
  | .lih _ d _ _ g | .addi _ d _ _ g | .andi _ d _ _ g | .ori _ d _ _ g | .xori _ d _ _ g =>
      first [(gd d, .peekDest), (guard g, .guard)]
  | .shli _ d _ _ g | .shri _ d _ _ g | .sari _ d _ _ g => first [(gd d, .peekDest), (guard g, .guard)]
  | .lea _ d _ g => first [(gd d, .peekDest), (guard g, .guard)]
  | .cmp _ _ _ _ _ g => first [(guard g, .guard)]
  | .cset _ _ d _ _ g => first [(gd d, .peekDest), (guard g, .guard)]
  | .pand _ _ _ _ g | .por _ _ _ _ g | .pxor _ _ _ _ g => first [(guard g, .guard)]
  | .pnot _ _ _ g | .pmov _ _ _ g | .pmovFromGeneral _ _ _ g => first [(guard g, .guard)]
  | .pmovToGeneral _ d _ g => first [(gd d, .peekDest), (guard g, .guard)]
  | .bra _ _ | .br _ _ | .brc _ _ _ _ _ | .brq _ _ _ _ | .ret _ _ | .loop _ _ _ | .lrec _ _ _ _ | .fin _
  | .safe _ _ _ | .wait _ _ _ => none
  | .call _ d _ => first [(link d, .operand)]
  | .jmp _ d _ => first [(link d, .operand)]
  | .qcfg _ q _ _ => first [(q.toNat < 10, .range)]
  | .tokPush _ n | .tokPop _ n => first [(decide (1 ≤ n.toNat ∧ n.toNat ≤ 16), .range)]
  | .tokQ _ d => first [(gd d, .peekDest)]
  | .cbinit _ _ _ _ => none
  | .cbwait _ _ d _ _ | .cbres _ _ d _ _ => first [(gd d, .peekDest)]
  | .cbpush _ _ _ _ | .cbpop _ _ _ _ => none
  | .semwDec _ _ d _ _ | .semwGe _ _ d _ _ | .semwEq _ _ d _ _ | .semsAdd _ _ d _ _ | .semsSub _ _ d _ _
  | .semset _ _ d _ _ => first [(gd d, .peekDest)]
  | .bari _ _ _ _ | .barx _ _ _ _ | .barw _ _ _ _ => none
  | .bara _ d _ => first [(gd d, .peekDest)]
  | .pushM _ n _ rb rc rd | .pushC _ n _ rb rc rd =>
      first [(n.toNat ≥ 1 || rb == 0, .zeroField), (n.toNat ≥ 2 || rc == 0, .zeroField),
        (n.toNat ≥ 3 || rd == 0, .zeroField)]
  | .spawn _ d _ _ | .spawnW _ d _ _ => first [(gd d, .peekDest)]
  | .tsig _ _ => none
  | .coll _ d _ _ => first [(gd d, .peekDest)]
  | .mfsr _ d _ => first [(gd d, .peekDest)]
  | .mtsr _ _ _ => none
  | .trap _ _ | .brk _ _ => none
  | .eret _ | .xinvAll _ | .xinvX _ _ | .xinvVa _ _ _ | .xinvG _ _ | .ptmc _ _ _ | .ptmcSync _ => none
  | .cfgd _ d _ => first [(gd d, .peekDest)]
  | .isync _ | .halt _ => none
  | .ld _ sz sx d _ g => first [(gd d, .peekDest), (!(sx && sz == .d), .operand), (guard g, .guard)]
  | .st _ _ _ _ g => first [(guard g, .guard)]
  | .ldc _ sz sx _ d _ g | .lda _ sz sx _ d _ g =>
      first [(gd d, .peekDest), (!(sx && sz == .d), .operand), (guard g, .guard)]
  | .stl _ _ _ _ _ g => first [(guard g, .guard)]
  | .vld _ _ d _ g => first [(vd d, .peekDest), (guard g, .guard)]
  | .vst _ _ _ _ g => first [(guard g, .guard)]
  | .vldx _ sz sx d _ g =>
      first [(vd d, .peekDest), (sz != .d, .operand), (!(sx && sz == .w), .operand), (guard g, .guard)]
  | .vstx _ sz _ _ g => first [(sz != .d, .operand), (guard g, .guard)]
  | .pref _ _ _ _ g => first [(guard g, .guard)]
  | .probe _ _ d _ _ g | .unpin _ d _ _ g => first [(gd d, .peekDest), (guard g, .guard)]
  | .phase _ _ | .acq _ _ | .rel _ _ | .drain _ _ _ => none
  | .amo _ op dbl d _ _ => first [(gd d, .peekDest), (!dbl || dblOp op, .operand)]
  | .cas _ d _ _ _ | .casc _ d _ _ _ _ => first [(gd d, .peekDest)]
  | .vamo _ _ d _ _ _ _ g => first [(vd d, .peekDest), (guard g, .guard)]
  | .snopen _ d _ _ _ | .snq _ d _ | .vwait _ d | .rand _ d _ _ | .gen _ d _ => first [(gd d, .peekDest)]
  | .snacc _ _ | .snrej _ _ | .vote _ _ | .vflag _ _ _ => none
  | .vadd _ dt rm _ d _ _ g | .vsub _ dt rm _ d _ _ g | .vmul _ dt rm _ d _ _ g =>
      first [(ty (fun t => isFloat t || isInt t) dt, .dtype), (!isInt dt || rm == .rne, .zeroField),
        (vd d, .peekDest), (guard g, .guard)]
  | .vfma _ dt _ _ d _ _ _ g | .vfms _ dt _ _ d _ _ _ g | .vfnma _ dt _ _ d _ _ _ g =>
      first [(ty isFloat dt, .dtype), (vd d, .peekDest), (guard g, .guard)]
  | .vneg _ dt sat d _ g | .vabs _ dt sat d _ g =>
      first [(ty (fun t => isFloat t || isInt t) dt, .dtype), (!(sat && isFloat dt), .zeroField),
        (vd d, .peekDest), (guard g, .guard)]
  | .vmin _ dt d _ _ g | .vmax _ dt d _ _ g =>
      first [(ty (fun t => isFloat t || isInt t) dt, .dtype), (vd d, .peekDest), (guard g, .guard)]
  | .vrcp _ dt _ _ d _ g | .vrsq _ dt _ _ d _ g | .vsqrt _ dt _ _ d _ g =>
      first [(ty isFloat dt, .dtype), (vd d, .peekDest), (guard g, .guard)]
  | .vdiv _ dt _ _ d _ _ g => first [(ty isFloat dt, .dtype), (vd d, .peekDest), (guard g, .guard)]
  | .vexp2 _ dt _ d _ g => first [(ty isFloat dt, .dtype), (vd d, .peekDest), (guard g, .guard)]
  | .vlog2 _ dt d _ g | .vtanh _ dt d _ g => first [(ty isFloat dt, .dtype), (vd d, .peekDest), (guard g, .guard)]
  | .vclamp _ dt d _ _ _ g =>
      first [(ty (fun t => isFloat t || isInt t) dt, .dtype), (vd d, .peekDest), (guard g, .guard)]
  | .vcmp _ c hi dt _ _ _ g =>
      first [(ty (fun t => isFloat t || t == .i32) dt, .dtype),
        (!(unsignedCond c && isFloat dt), .cond), (!(hi && (dt == .f32 || dt == .i32)), .operand), (guard g, .guard)]
  | .vsel _ d _ _ _ g => first [(vd d, .peekDest), (guard g, .guard)]
  | .vand _ d _ _ g | .vor _ d _ _ g | .vxor _ d _ _ g | .vshl _ d _ _ g | .vshr _ d _ _ g | .vsar _ d _ _ g =>
      first [(vd d, .peekDest), (guard g, .guard)]
  | .vmov _ d _ g => first [(vd d, .peekDest), (guard g, .guard)]
  | .vshlImmediate _ d _ _ g | .vshrImmediate _ d _ _ g | .vsarImmediate _ d _ _ g =>
      first [(vd d, .peekDest), (guard g, .guard)]
  | .vcvt _ hi dt dt2 _ sat d _ g =>
      first [(ty isCvt dt, .dtype), (ty isCvt dt2, .dtype), (pair cvtPair dt dt2, .dtype),
        (!(hi && !reserved dt && !reserved dt2 && width dt == width dt2), .zeroField),
        (!(sat && dt == .i32), .zeroField), (vd d, .peekDest),
        (!(width dt == 16 && width dt2 == 32 && !reserved dt2) || vmerge d, .mergeQueue), (guard g, .guard)]
  | .vscl _ dt dt2 d _ q g =>
      first [(ty isScaled dt, .dtype), (ty (fun t => t == .f32 || t == .bf16) dt2, .dtype),
        (stretch dt2 dt q, .range), (vmerge d, .mergeQueue), (guard g, .guard)]
  | .vpack _ dt dt2 _ sat d _ vb q g =>
      first [(ty isNarrow dt, .dtype), (ty isWide dt2, .dtype),
        (pair (fun n w => w != .i32 || n == .i8) dt dt2, .dtype),
        (!(sat && (dt == .s4 || dt == .k4 || dt == .i8)), .zeroField), (!isUnscaled dt || vb == 0, .zeroField),
        (stretch dt2 dt q, .range), (vmerge d, .mergeQueue), (guard g, .guard)]
  | .vunpk _ dt dt2 _ _ d _ vb q g =>
      first [(ty isWide dt, .dtype), (ty isNarrow dt2, .dtype),
        (pair (fun w n => w != .i32 || n == .i8) dt dt2, .dtype), (!isUnscaled dt2 || vb == 0, .zeroField),
        (stretch dt dt2 q, .range), (vd d, .peekDest), (guard g, .guard)]
  | .vred _ op dt dt2 rm sat d _ g =>
      first [(ty (fun t => isFloat t || t == .i32) dt, .dtype), (ty (fun t => isFloat t || t == .i32) dt2, .dtype),
        (pair redPair dt dt2, .dtype), (rm != .sr, .rm), (!(dt == .i32) || rm == .rne, .zeroField),
        (!sat || (dt == .i32 && op == .add), .zeroField), (vd d, .peekDest), (guard g, .guard)]
  | .vdot _ dt dt2 d _ _ _ g =>
      first [(ty (fun t => t == .f32 || t == .i32) dt, .dtype), (ty isDotSrc dt2, .dtype),
        (pair dotPair dt dt2, .dtype), (vd d, .peekDest), (guard g, .guard)]
  | .vbc _ dt d _ g => first [(ty isMove dt, .dtype), (vd d, .peekDest), (guard g, .guard)]
  | .vbcElement _ dt d _ i g =>
      first [(ty isMove dt, .dtype), (index dt i, .range), (vd d, .peekDest), (guard g, .guard)]
  | .vext _ sx dt d _ i g =>
      first [(ty isMove dt, .dtype), (!sx || isInt dt || reserved dt, .operand), (index dt i, .range),
        (gd d, .peekDest), (guard g, .guard)]
  | .vins _ dt d _ i g =>
      first [(ty isMove dt, .dtype), (index dt i, .range), (vmerge d, .mergeQueue), (guard g, .guard)]
  | .vslideDn _ d _ _ _ g | .vslideUp _ d _ _ _ g => first [(vd d, .peekDest), (guard g, .guard)]
  | .viota _ d _ _ g | .viotaPc _ d _ _ g => first [(vd d, .peekDest), (guard g, .guard)]
  | .vperm _ d _ _ _ g => first [(vd d, .peekDest), (guard g, .guard)]
  | .vzip _ _ dt d _ _ g | .vuzp _ _ dt d _ _ g => first [(ty isMove dt, .dtype), (vd d, .peekDest), (guard g, .guard)]
  | .vrand _ d _ _ g => first [(vd d, .peekDest), (guard g, .guard)]
  | .mnop w | .mcfgRedundant w _ => first [(waitSig w, .zeroField)]
  | .mma w _ _ ha _ _ reuse popa _ =>
      first [(waitSig w, .zeroField), (!reuse || (ha == 0 && !popa), .zeroField)]
  | .mzr w _ _ _ | .mld w _ _ _ _ _ | .mdr w _ _ _ _ _ _ _ | .mcfgLoadFormat w _ _ => first [(waitSig w, .zeroField)]
  | .cnop w => first [(waitSig w, .zeroField)]
  | .cpy w dims _ b x _ shp =>
      first [(waitSig w, .zeroField), (copyOpts x, .zeroField), (dims != 3, .command), (dims != 0 || shp == 0, .zeroField),
        (noPop b, .zeroField)]
  | .cpyd w _ b x _ | .gath w _ b x _ _ _ | .fill w b x _ _ =>
      first [(waitSig w, .zeroField), (copyOpts x, .zeroField), (noPop b, .zeroField)]
  | .scat w _ _ x _ _ _ => first [(waitSig w, .zeroField), (copyOpts x, .zeroField)]
  | .redc w _ _ x _ _ _ _ _ => first [(waitSig w, .zeroField), (copyOpts x, .zeroField)]
  | .bartx w _ _ _ => first [(waitSig w, .zeroField)]
  | _ => none

/-- Well formed: no check fails. -/
def Instr.wf (i : Instr) : Bool := i.check.isNone

end Sys2Proof
end

