-- ==== Sys2Proof/Decode.lean ====
section
/-! DEFINITION. Sys2Proof/Decode.lean: the encodings of R225 to R245, R365 to R370 and R382 to R390. A format is a
record of its fields with a `parse` and a `pack`; `rawDecode` reads a word by the map R238, `decodeWords` adds the
checks of WellFormed; `encode` is written from the same tables. Nothing is read from a bit outside a format record. -/

namespace Sys2Proof

/-! ## Codes -/

/-- The ROLE field (R17). -/
def RoleTag.code : RoleTag → BitVec 2
  | .C => 0
  | .L => 1
  | .S => 2
  | .A => 3

def RoleTag.ofCode (b : BitVec 2) : RoleTag :=
  match b.toNat with
  | 0 => .C
  | 1 => .L
  | 2 => .S
  | _ => .A

/-- A role code (R17, R206). -/
def RoleId.code : RoleId → BitVec 2
  | .C => 0
  | .L => 1
  | .S => 2

def RoleId.ofCode (b : BitVec 2) : Option RoleId :=
  match b.toNat with
  | 0 => some .C
  | 1 => some .L
  | 2 => some .S
  | _ => none

/-- The guard bits (R227). -/
def Guard.code (g : Guard) : BitVec 4 := BitVec.ofBool g.neg ++ g.pidx

def Guard.ofCode (b : BitVec 4) : Guard := ⟨b.getLsbD 3, b.extractLsb' 0 3⟩

/-- The code of a Cond (R237, R124, R350, R301, R230). -/
def Cond.code : Cond → BitVec 4
  | .eq => 0
  | .ne => 1
  | .lt => 2
  | .ge => 3
  | .ltu => 4
  | .geu => 5
  | .gt => 6
  | .le => 7
  | .gtu => 8
  | .leu => 9

def Cond.ofCode (b : BitVec 4) : Option Cond :=
  match b.toNat with
  | 0 => some .eq
  | 1 => some .ne
  | 2 => some .lt
  | 3 => some .ge
  | 4 => some .ltu
  | 5 => some .geu
  | 6 => some .gt
  | 7 => some .le
  | 8 => some .gtu
  | 9 => some .leu
  | _ => none

/-- The code of a Scope (R237, R124, R350, R301, R230). -/
def Scope.code : Scope → BitVec 3
  | .core => 1
  | .clu => 2
  | .dev => 3
  | .sys => 4

def Scope.ofCode (b : BitVec 3) : Option Scope :=
  match b.toNat with
  | 1 => some .core
  | 2 => some .clu
  | 3 => some .dev
  | 4 => some .sys
  | _ => none

/-- The code of a DType (R237, R124, R350, R301, R230). -/
def DType.code : DType → BitVec 4
  | .f32 => 0
  | .bf16 => 1
  | .f16 => 2
  | .e4m3 => 3
  | .e5m2 => 4
  | .mxe4m3 => 5
  | .mxe5m2 => 6
  | .mxf4 => 7
  | .s4 => 8
  | .k4 => 9
  | .i8 => 10
  | .r11 => 11
  | .i32 => 12
  | .r13 => 13
  | .r14 => 14
  | .r15 => 15

def DType.ofCode (b : BitVec 4) : DType :=
  match b.toNat with
  | 0 => .f32
  | 1 => .bf16
  | 2 => .f16
  | 3 => .e4m3
  | 4 => .e5m2
  | 5 => .mxe4m3
  | 6 => .mxe5m2
  | 7 => .mxf4
  | 8 => .s4
  | 9 => .k4
  | 10 => .i8
  | 11 => .r11
  | 12 => .i32
  | 13 => .r13
  | 14 => .r14
  | _ => .r15

/-- The code of a RM (R237, R124, R350, R301, R230). -/
def RM.code : RM → BitVec 4
  | .rne => 0
  | .rtz => 1
  | .rdn => 2
  | .rup => 3
  | .sr => 4

def RM.ofCode (b : BitVec 4) : Option RM :=
  match b.toNat with
  | 0 => some .rne
  | 1 => some .rtz
  | 2 => some .rdn
  | 3 => some .rup
  | 4 => some .sr
  | _ => none

/-- The code of a Size (R237, R124, R350, R301, R230). -/
def Size.code : Size → BitVec 2
  | .b => 0
  | .h => 1
  | .w => 2
  | .d => 3

def Size.ofCode (b : BitVec 2) : Size :=
  match b.toNat with
  | 0 => .b
  | 1 => .h
  | 2 => .w
  | _ => .d

/-- The code of a SliceOp (R237, R124, R350, R301, R230). -/
def SliceOp.code : SliceOp → BitVec 4
  | .add => 0
  | .and => 1
  | .or => 2
  | .xor => 3
  | .min => 4
  | .max => 5
  | .minu => 6
  | .maxu => 7
  | .swap => 8
  | .fadd => 9
  | .fadd2 => 10

def SliceOp.ofCode (b : BitVec 4) : Option SliceOp :=
  match b.toNat with
  | 0 => some .add
  | 1 => some .and
  | 2 => some .or
  | 3 => some .xor
  | 4 => some .min
  | 5 => some .max
  | 6 => some .minu
  | 7 => some .maxu
  | 8 => some .swap
  | 9 => some .fadd
  | 10 => some .fadd2
  | _ => none

/-- The code of a RedOp (R237, R124, R350, R301, R230). -/
def RedOp.code : RedOp → BitVec 2
  | .add => 0
  | .min => 1
  | .max => 2

def RedOp.ofCode (b : BitVec 2) : Option RedOp :=
  match b.toNat with
  | 0 => some .add
  | 1 => some .min
  | 2 => some .max
  | _ => none

/-- The code of a AMode (R237, R124, R350, R301, R230). -/
def AMode.code : AMode → BitVec 2
  | .r => 1
  | .w => 2
  | .rw => 3

def AMode.ofCode (b : BitVec 2) : Option AMode :=
  match b.toNat with
  | 1 => some .r
  | 2 => some .w
  | 3 => some .rw
  | _ => none

/-! ## Formats -/

/-- Bits [63:60] of a word (R17, R225). -/
def Mark.code (m : Mark) : BitVec 4 := m.tag.code ++ BitVec.ofBool m.pb ++ BitVec.ofBool m.pa

def Mark.ofWord (w : Word) : Mark := ⟨RoleTag.ofCode (w.extractLsb' 62 2), w.getLsbD 61, w.getLsbD 60⟩

/-- The major opcode (R225). -/
def opOf (w : Word) : BitVec 8 := w.extractLsb' 52 8

/-- A word from its marks, opcode and format body (R225). -/
def packWord (m : Mark) (op : BitVec 8) (body : BitVec 52) : Word := m.code ++ op ++ body

/-- Format FA (R228). -/
structure FA where
  rd : BitVec 6 := 0
  ra : BitVec 6 := 0
  rb : BitVec 6 := 0
  rc : BitVec 6 := 0
  func : BitVec 12 := 0
  aux : BitVec 12 := 0
  g : BitVec 4 := 0
  deriving DecidableEq, Repr

def FA.parse (w : Word) : FA := ⟨w.extractLsb' 46 6, w.extractLsb' 40 6, w.extractLsb' 34 6, w.extractLsb' 28 6, w.extractLsb' 16 12, w.extractLsb' 4 12, w.extractLsb' 0 4⟩

def FA.body (f : FA) : BitVec 52 := f.rd ++ f.ra ++ f.rb ++ f.rc ++ f.func ++ f.aux ++ f.g

def FA.pack (m : Mark) (op : BitVec 8) (f : FA) : Word := packWord m op f.body

/-- Format FB (R229). -/
structure FB where
  rd : BitVec 6 := 0
  ra : BitVec 6 := 0
  func : BitVec 4 := 0
  imm : BitVec 32 := 0
  g : BitVec 4 := 0
  deriving DecidableEq, Repr

def FB.parse (w : Word) : FB := ⟨w.extractLsb' 46 6, w.extractLsb' 40 6, w.extractLsb' 36 4, w.extractLsb' 4 32, w.extractLsb' 0 4⟩

def FB.body (f : FB) : BitVec 52 := f.rd ++ f.ra ++ f.func ++ f.imm ++ f.g

def FB.pack (m : Mark) (op : BitVec 8) (f : FB) : Word := packWord m op f.body

/-- Format FM (R230). -/
structure FM where
  rd : BitVec 6 := 0
  rb : BitVec 6 := 0
  ri : BitVec 6 := 0
  sc : BitVec 2 := 0
  sz : BitVec 2 := 0
  ord : BitVec 3 := 0
  func : BitVec 3 := 0
  off : BitVec 20 := 0
  g : BitVec 4 := 0
  deriving DecidableEq, Repr

def FM.parse (w : Word) : FM := ⟨w.extractLsb' 46 6, w.extractLsb' 40 6, w.extractLsb' 34 6, w.extractLsb' 32 2, w.extractLsb' 30 2, w.extractLsb' 27 3, w.extractLsb' 24 3, w.extractLsb' 4 20, w.extractLsb' 0 4⟩

def FM.body (f : FM) : BitVec 52 := f.rd ++ f.rb ++ f.ri ++ f.sc ++ f.sz ++ f.ord ++ f.func ++ f.off ++ f.g

def FM.pack (m : Mark) (op : BitVec 8) (f : FM) : Word := packWord m op f.body

/-- Format FJ (R231). -/
structure FJ where
  ra : BitVec 6 := 0
  rb : BitVec 6 := 0
  cond : BitVec 4 := 0
  lc : BitVec 2 := 0
  zf : BitVec 2 := 0
  disp : BitVec 32 := 0
  deriving DecidableEq, Repr

def FJ.parse (w : Word) : FJ := ⟨w.extractLsb' 46 6, w.extractLsb' 40 6, w.extractLsb' 36 4, w.extractLsb' 34 2, w.extractLsb' 32 2, w.extractLsb' 0 32⟩

def FJ.body (f : FJ) : BitVec 52 := f.ra ++ f.rb ++ f.cond ++ f.lc ++ f.zf ++ f.disp

def FJ.pack (m : Mark) (op : BitVec 8) (f : FJ) : Word := packWord m op f.body

/-- Format FQ (R232). -/
structure FQ where
  ra : BitVec 6 := 0
  rb : BitVec 6 := 0
  idx : BitVec 5 := 0
  sub : BitVec 3 := 0
  imm : BitVec 16 := 0
  zf : BitVec 16 := 0
  deriving DecidableEq, Repr

def FQ.parse (w : Word) : FQ := ⟨w.extractLsb' 46 6, w.extractLsb' 40 6, w.extractLsb' 35 5, w.extractLsb' 32 3, w.extractLsb' 16 16, w.extractLsb' 0 16⟩

def FQ.body (f : FQ) : BitVec 52 := f.ra ++ f.rb ++ f.idx ++ f.sub ++ f.imm ++ f.zf

def FQ.pack (m : Mark) (op : BitVec 8) (f : FQ) : Word := packWord m op f.body

/-- Format FV (R233). -/
structure FV where
  vd : BitVec 5 := 0
  va : BitVec 5 := 0
  vb : BitVec 5 := 0
  vc : BitVec 5 := 0
  dt : BitVec 4 := 0
  dt2 : BitVec 4 := 0
  rm : BitVec 4 := 0
  sat : BitVec 1 := 0
  func : BitVec 15 := 0
  g : BitVec 4 := 0
  deriving DecidableEq, Repr

def FV.parse (w : Word) : FV := ⟨w.extractLsb' 47 5, w.extractLsb' 42 5, w.extractLsb' 37 5, w.extractLsb' 32 5, w.extractLsb' 28 4, w.extractLsb' 24 4, w.extractLsb' 20 4, w.extractLsb' 19 1, w.extractLsb' 4 15, w.extractLsb' 0 4⟩

def FV.body (f : FV) : BitVec 52 := f.vd ++ f.va ++ f.vb ++ f.vc ++ f.dt ++ f.dt2 ++ f.rm ++ f.sat ++ f.func ++ f.g

def FV.pack (m : Mark) (op : BitVec 8) (f : FV) : Word := packWord m op f.body

/-- Format FVI (R234). -/
structure FVI where
  d : BitVec 6 := 0
  va : BitVec 5 := 0
  ga : BitVec 6 := 0
  dt : BitVec 4 := 0
  func : BitVec 11 := 0
  imm : BitVec 16 := 0
  g : BitVec 4 := 0
  deriving DecidableEq, Repr

def FVI.parse (w : Word) : FVI := ⟨w.extractLsb' 46 6, w.extractLsb' 41 5, w.extractLsb' 35 6, w.extractLsb' 31 4, w.extractLsb' 20 11, w.extractLsb' 4 16, w.extractLsb' 0 4⟩

def FVI.body (f : FVI) : BitVec 52 := f.d ++ f.va ++ f.ga ++ f.dt ++ f.func ++ f.imm ++ f.g

def FVI.pack (m : Mark) (op : BitVec 8) (f : FVI) : Word := packWord m op f.body

/-- Format FS (R235). -/
structure FS where
  rd : BitVec 6 := 0
  ra : BitVec 6 := 0
  rb : BitVec 6 := 0
  rc : BitVec 6 := 0
  sel : BitVec 12 := 0
  imm : BitVec 16 := 0
  deriving DecidableEq, Repr

def FS.parse (w : Word) : FS := ⟨w.extractLsb' 46 6, w.extractLsb' 40 6, w.extractLsb' 34 6, w.extractLsb' 28 6, w.extractLsb' 16 12, w.extractLsb' 0 16⟩

def FS.body (f : FS) : BitVec 52 := f.rd ++ f.ra ++ f.rb ++ f.rc ++ f.sel ++ f.imm

def FS.pack (m : Mark) (op : BitVec 8) (f : FS) : Word := packWord m op f.body

/-- Format FSafe (R236, word 0). -/
structure FSafe where
  gmask : BitVec 47 := 0
  zf : BitVec 5 := 0
  deriving DecidableEq, Repr

def FSafe.parse (w : Word) : FSafe := ⟨w.extractLsb' 5 47, w.extractLsb' 0 5⟩

def FSafe.body (f : FSafe) : BitVec 52 := f.gmask ++ f.zf

def FSafe.pack (m : Mark) (op : BitVec 8) (f : FSafe) : Word := packWord m op f.body

/-- Format FExt (R236, word 1). -/
structure FExt where
  zf : BitVec 24 := 0
  vmask : BitVec 28 := 0
  deriving DecidableEq, Repr

def FExt.parse (w : Word) : FExt := ⟨w.extractLsb' 28 24, w.extractLsb' 0 28⟩

def FExt.body (f : FExt) : BitVec 52 := f.zf ++ f.vmask

def FExt.pack (m : Mark) (op : BitVec 8) (f : FExt) : Word := packWord m op f.body

/-! ## Reading a word -/

/-- A decoder's answer. -/
abbrev D := Except Ill Instr

/-- The rest of a decoder under a condition on zero fields (R4, R240). -/
def zf (b : Bool) (k : D) : D := if b then k else .error .zeroField

/-- The rest of a decoder, given a code that must be assigned. -/
def need {α : Type} (e : Ill) (x : Option α) (k : α → D) : D :=
  match x with
  | some a => k a
  | none => .error e

/-- A memory operand of format FM (R22, R230). -/
def FM.ea (f : FM) : EA := ⟨f.rb, f.ri, f.sc, f.off⟩

def FM.vea (f : FM) : VEA := ⟨f.rb, f.ri.extractLsb' 0 5, f.sc, f.off⟩

/-- Words of format FA (R255 to R264, R301, R304). -/
def decodeFA (m : Mark) (op : Nat) (f : FA) : D :=
  match op with
  | 0x01 => zf (f.rd == 0 && f.ra == 0 && f.rb == 0 && f.rc == 0 && f.func == 0 && f.aux == 0) (.ok (.nop m (Guard.ofCode f.g)))
  | 0x02 => zf (f.rc == 0 && f.aux == 0) (match f.func.toNat with
      | 0 => .ok (.add m f.rd f.ra f.rb (Guard.ofCode f.g))
      | 1 => .ok (.sub m f.rd f.ra f.rb (Guard.ofCode f.g))
      | _ => .error .selector)
  | 0x03 => zf (f.rc == 0 && f.aux == 0) (match f.func.toNat with
      | 0 => .ok (.mul m f.rd f.ra f.rb (Guard.ofCode f.g))
      | 1 => .ok (.mulh m f.rd f.ra f.rb (Guard.ofCode f.g))
      | 2 => .ok (.mulhu m f.rd f.ra f.rb (Guard.ofCode f.g))
      | _ => .error .selector)
  | 0x04 => zf (f.rc == 0 && f.aux == 0) (match f.func.toNat with
      | 0 => .ok (.div m f.rd f.ra f.rb (Guard.ofCode f.g))
      | 1 => .ok (.divu m f.rd f.ra f.rb (Guard.ofCode f.g))
      | 2 => .ok (.rem m f.rd f.ra f.rb (Guard.ofCode f.g))
      | 3 => .ok (.remu m f.rd f.ra f.rb (Guard.ofCode f.g))
      | _ => .error .selector)
  | 0x05 => zf (f.rc == 0 && f.aux == 0) (match f.func.toNat with
      | 0 => .ok (.and m f.rd f.ra f.rb (Guard.ofCode f.g))
      | 1 => .ok (.or m f.rd f.ra f.rb (Guard.ofCode f.g))
      | 2 => .ok (.xor m f.rd f.ra f.rb (Guard.ofCode f.g))
      | 3 => .ok (.andn m f.rd f.ra f.rb (Guard.ofCode f.g))
      | _ => .error .selector)
  | 0x06 => zf (f.rc == 0 && f.aux == 0) (match f.func.toNat with
      | 0 => .ok (.shl m f.rd f.ra f.rb (Guard.ofCode f.g))
      | 1 => .ok (.shr m f.rd f.ra f.rb (Guard.ofCode f.g))
      | 2 => .ok (.sar m f.rd f.ra f.rb (Guard.ofCode f.g))
      | 3 => .ok (.rotr m f.rd f.ra f.rb (Guard.ofCode f.g))
      | _ => .error .selector)
  | 0x07 => zf (f.rc == 0 && f.aux == 0) (match f.func.toNat with
      | 0 => .ok (.min m f.rd f.ra f.rb (Guard.ofCode f.g))
      | 1 => .ok (.max m f.rd f.ra f.rb (Guard.ofCode f.g))
      | 2 => .ok (.minu m f.rd f.ra f.rb (Guard.ofCode f.g))
      | 3 => .ok (.maxu m f.rd f.ra f.rb (Guard.ofCode f.g))
      | _ => .error .selector)
  | 0x08 => zf (f.rb == 0 && f.rc == 0 && f.aux == 0) (match f.func.toNat with
      | 0 => .ok (.clz m f.rd f.ra (Guard.ofCode f.g))
      | 1 => .ok (.ctz m f.rd f.ra (Guard.ofCode f.g))
      | 2 => .ok (.popc m f.rd f.ra (Guard.ofCode f.g))
      | _ => .error .selector)
  | 0x09 => zf (f.rb == 0 && f.rc == 0 && f.aux.extractLsb' 6 6 == 0) (match f.func.toNat with
      | 0 => .ok (.sext m f.rd f.ra (f.aux.extractLsb' 0 6) (Guard.ofCode f.g))
      | 1 => .ok (.zext m f.rd f.ra (f.aux.extractLsb' 0 6) (Guard.ofCode f.g))
      | _ => .error .selector)
  | 0x0A => zf (f.rb == 0 && f.rc == 0 && f.func == 0) (.ok (.bfx m f.rd f.ra (f.aux.extractLsb' 0 6) (f.aux.extractLsb' 6 6) (Guard.ofCode f.g)))
  | 0x0B => zf (f.rc == 0 && f.func == 0) (.ok (.bfi m f.rd f.ra f.rb (f.aux.extractLsb' 0 6) (f.aux.extractLsb' 6 6) (Guard.ofCode f.g)))
  | 0x0D => zf (f.rc.extractLsb' 3 3 == 0 && f.func == 0 && f.aux == 0) (.ok (.sel m f.rd f.ra f.rb (f.rc.extractLsb' 0 3) (Guard.ofCode f.g)))
  | 0x10 => zf (f.rb == 0 && f.rc == 0 && f.func == 0 && f.aux == 0) (.ok (.mov m f.rd f.ra (Guard.ofCode f.g)))
  | 0x11 => zf (f.rd.extractLsb' 3 3 == 0 && f.rc == 0 && f.func.extractLsb' 4 8 == 0 && f.aux == 0)
      (need .cond (Cond.ofCode (f.func.extractLsb' 0 4)) fun c => .ok (.cmp m c (f.rd.extractLsb' 0 3) f.ra f.rb (Guard.ofCode f.g)))
  | 0x12 => zf (f.rc == 0 && f.func.extractLsb' 4 8 == 0 && f.aux == 0)
      (need .cond (Cond.ofCode (f.func.extractLsb' 0 4)) fun c => .ok (.cset m c f.rd f.ra f.rb (Guard.ofCode f.g)))
  | 0x1A => zf (f.rc == 0 && f.aux == 0) (match f.func.toNat with
      | 0 => zf (f.rd.extractLsb' 3 3 == 0 && f.ra.extractLsb' 3 3 == 0 && f.rb.extractLsb' 3 3 == 0) (.ok (.pand m (f.rd.extractLsb' 0 3) (f.ra.extractLsb' 0 3) (f.rb.extractLsb' 0 3) (Guard.ofCode f.g)))
      | 1 => zf (f.rd.extractLsb' 3 3 == 0 && f.ra.extractLsb' 3 3 == 0 && f.rb.extractLsb' 3 3 == 0) (.ok (.por m (f.rd.extractLsb' 0 3) (f.ra.extractLsb' 0 3) (f.rb.extractLsb' 0 3) (Guard.ofCode f.g)))
      | 2 => zf (f.rd.extractLsb' 3 3 == 0 && f.ra.extractLsb' 3 3 == 0 && f.rb.extractLsb' 3 3 == 0) (.ok (.pxor m (f.rd.extractLsb' 0 3) (f.ra.extractLsb' 0 3) (f.rb.extractLsb' 0 3) (Guard.ofCode f.g)))
      | 3 => zf (f.rd.extractLsb' 3 3 == 0 && f.ra.extractLsb' 3 3 == 0 && f.rb == 0) (.ok (.pnot m (f.rd.extractLsb' 0 3) (f.ra.extractLsb' 0 3) (Guard.ofCode f.g)))
      | 4 => zf (f.rd.extractLsb' 3 3 == 0 && f.ra.extractLsb' 3 3 == 0 && f.rb == 0) (.ok (.pmov m (f.rd.extractLsb' 0 3) (f.ra.extractLsb' 0 3) (Guard.ofCode f.g)))
      | 12 => zf (f.rd.extractLsb' 3 3 == 0 && f.rb == 0) (.ok (.pmovFromGeneral m (f.rd.extractLsb' 0 3) f.ra (Guard.ofCode f.g)))
      | 20 => zf (f.ra.extractLsb' 3 3 == 0 && f.rb == 0) (.ok (.pmovToGeneral m f.rd (f.ra.extractLsb' 0 3) (Guard.ofCode f.g)))
      | _ => .error .selector)
  | 0x4A => zf (f.rc == 0 && f.aux == 0 && f.func.extractLsb' 2 10 == 0)
      (need .selector (AMode.ofCode (f.func.extractLsb' 0 2)) fun a => .ok (.probe m a f.rd f.ra f.rb (Guard.ofCode f.g)))
  | 0x4B => zf (f.rc == 0 && f.aux == 0 && f.func == 0) (.ok (.unpin m f.rd f.ra f.rb (Guard.ofCode f.g)))
  | 0x60 => zf (f.rc == 0 && f.aux == 0 && f.g == 0 && f.func.extractLsb' 5 7 == 0)
      (need .selector (SliceOp.ofCode (f.func.extractLsb' 0 4)) fun p => .ok (.amo m p (f.func.getLsbD 4) f.rd f.ra f.rb))
  | 0x61 => zf (f.func == 0 && f.aux == 0 && f.g == 0) (.ok (.cas m f.rd f.ra f.rb f.rc))
  | 0x62 => zf (f.func == 0 && f.g == 0) (.ok (.casc m f.rd f.ra f.rb f.rc f.aux))
  | 0x63 => zf (f.rd.extractLsb' 5 1 == 0 && f.rb.extractLsb' 5 1 == 0 && f.rc.extractLsb' 5 1 == 0 &&
        f.func.extractLsb' 4 8 == 0 && f.aux.extractLsb' 2 10 == 0)
      (need .selector (SliceOp.ofCode (f.func.extractLsb' 0 4)) fun p => .ok (.vamo m p (f.rd.extractLsb' 0 5) f.ra
        (f.rb.extractLsb' 0 5) (f.aux.extractLsb' 0 2) (f.rc.extractLsb' 0 5) (Guard.ofCode f.g)))
  | _ => .error .opcode

/-- Words of format FB (R258, R261). -/
def decodeFB (m : Mark) (op : Nat) (f : FB) : D :=
  match op with
  | 0x0E => zf (f.ra == 0 && f.func == 0) (.ok (.li m f.rd f.imm (Guard.ofCode f.g)))
  | 0x0F => zf (f.func == 0) (.ok (.lih m f.rd f.ra f.imm (Guard.ofCode f.g)))
  | 0x13 => zf (f.func == 0) (.ok (.addi m f.rd f.ra f.imm (Guard.ofCode f.g)))
  | 0x14 => zf (f.func == 0) (.ok (.andi m f.rd f.ra f.imm (Guard.ofCode f.g)))
  | 0x15 => zf (f.func == 0) (.ok (.ori m f.rd f.ra f.imm (Guard.ofCode f.g)))
  | 0x16 => zf (f.func == 0) (.ok (.xori m f.rd f.ra f.imm (Guard.ofCode f.g)))
  | 0x17 => zf (f.func == 0 && f.imm.extractLsb' 6 26 == 0) (.ok (.shli m f.rd f.ra (f.imm.extractLsb' 0 6) (Guard.ofCode f.g)))
  | 0x18 => zf (f.func == 0 && f.imm.extractLsb' 6 26 == 0) (.ok (.shri m f.rd f.ra (f.imm.extractLsb' 0 6) (Guard.ofCode f.g)))
  | 0x19 => zf (f.func == 0 && f.imm.extractLsb' 6 26 == 0) (.ok (.sari m f.rd f.ra (f.imm.extractLsb' 0 6) (Guard.ofCode f.g)))
  | _ => .error .opcode

/-- Words of format FM (R260, R295 to R300). -/
def decodeFM (m : Mark) (op : Nat) (f : FM) : D :=
  match op with
  | 0x0C => zf (f.sz == 0 && f.ord == 0 && f.func == 0) (.ok (.lea m f.rd f.ea (Guard.ofCode f.g)))
  | 0x40 => zf (f.ord == 0 && f.func.extractLsb' 1 2 == 0) (.ok (.ld m (Size.ofCode f.sz) (f.func.getLsbD 0) f.rd f.ea (Guard.ofCode f.g)))
  | 0x41 => zf (f.ord == 0 && f.func == 0) (.ok (.st m (Size.ofCode f.sz) f.rd f.ea (Guard.ofCode f.g)))
  | 0x42 => zf (f.func.extractLsb' 1 2 == 0)
      (need .scope (Scope.ofCode f.ord) fun x => .ok (.ldc m (Size.ofCode f.sz) (f.func.getLsbD 0) x f.rd f.ea (Guard.ofCode f.g)))
  | 0x43 => zf (f.func.extractLsb' 1 2 == 0)
      (need .scope (Scope.ofCode f.ord) fun x => .ok (.lda m (Size.ofCode f.sz) (f.func.getLsbD 0) x f.rd f.ea (Guard.ofCode f.g)))
  | 0x44 => zf (f.func == 0) (need .scope (Scope.ofCode f.ord) fun x => .ok (.stl m (Size.ofCode f.sz) x f.rd f.ea (Guard.ofCode f.g)))
  | 0x45 => zf (f.rd.extractLsb' 5 1 == 0 && f.ord == 0 && f.func == 0) (.ok (.vld m f.sz (f.rd.extractLsb' 0 5) f.ea (Guard.ofCode f.g)))
  | 0x46 => zf (f.rd.extractLsb' 5 1 == 0 && f.ord == 0 && f.func == 0) (.ok (.vst m f.sz (f.rd.extractLsb' 0 5) f.ea (Guard.ofCode f.g)))
  | 0x47 => zf (f.rd.extractLsb' 5 1 == 0 && f.ri.extractLsb' 5 1 == 0 && f.ord == 0 && f.func.extractLsb' 1 2 == 0)
      (.ok (.vldx m (Size.ofCode f.sz) (f.func.getLsbD 0) (f.rd.extractLsb' 0 5) f.vea (Guard.ofCode f.g)))
  | 0x48 => zf (f.rd.extractLsb' 5 1 == 0 && f.ri.extractLsb' 5 1 == 0 && f.ord == 0 && f.func == 0)
      (.ok (.vstx m (Size.ofCode f.sz) (f.rd.extractLsb' 0 5) f.vea (Guard.ofCode f.g)))
  | 0x49 => zf (f.rd == 0 && f.ord == 0 && f.func.extractLsb' 1 2 == 0) (.ok (.pref m (f.func.getLsbD 0) f.sz f.ea (Guard.ofCode f.g)))
  | _ => .error .opcode

/-- Words of format FJ (R265 to R269). -/
def decodeFJ (m : Mark) (op : Nat) (f : FJ) : D :=
  match op with
  | 0x20 => zf (f.ra == 0 && f.rb == 0 && f.cond == 0 && f.lc == 0 && f.zf == 0) (.ok (.bra m f.disp))
  | 0x21 => zf (f.rb == 0 && f.cond == 0 && f.lc == 0 && f.zf == 0 && f.disp == 0) (.ok (.br m f.ra))
  | 0x22 => zf (f.lc == 0 && f.zf == 0) (need .cond (Cond.ofCode f.cond) fun c => .ok (.brc m c f.ra f.rb f.disp))
  | 0x23 => zf (f.rb == 0 && f.lc == 0 && f.zf == 0) (if f.ra.extractLsb' 3 3 == 6 then (match f.cond.toNat with
    | 0 => .ok (.brq m false (f.ra.extractLsb' 0 3) f.disp)
    | 1 => .ok (.brq m true (f.ra.extractLsb' 0 3) f.disp)
    | _ => .error .cond) else .error .operand)
  | 0x24 => zf (f.rb == 0 && f.cond == 0 && f.lc == 0 && f.zf == 0) (.ok (.call m f.ra f.disp))
  | 0x25 => zf (f.rb == 0 && f.cond == 0 && f.lc == 0 && f.zf == 0 && f.disp == 0) (.ok (.ret m f.ra))
  | 0x26 => zf (f.cond == 0 && f.lc == 0 && f.zf == 0 && f.disp == 0) (.ok (.jmp m f.ra f.rb))
  | 0x27 => zf (f.ra == 0 && f.rb == 0 && f.cond == 0 && f.zf == 0) (.ok (.loop m f.lc f.disp))
  | 0x28 => zf (f.rb == 0 && f.cond == 0 && f.zf == 0) (.ok (.lrec m f.lc f.ra f.disp))
  | 0x29 => zf (f.ra == 0 && f.rb == 0 && f.cond == 0 && f.lc == 0 && f.zf == 0 && f.disp == 0) (.ok (.fin m))
  | 0x2B => zf (f.rb == 0 && f.cond == 0 && f.lc == 0 && f.zf == 0) (.ok (.wait m f.ra f.disp))
  | _ => .error .opcode

/-- Words of format FQ (R270 to R275). -/
def decodeFQ (m : Mark) (op : Nat) (f : FQ) : D :=
  match op with
  | 0x30 => zf (f.ra == 0 && f.rb == 0 && f.sub == 0 && f.zf == 0 && f.imm.extractLsb' 4 12 == 0 && f.idx.getLsbD 4 == false)
      (need .operand (RoleId.ofCode (f.imm.extractLsb' 2 2)) fun p => need .operand (RoleId.ofCode (f.imm.extractLsb' 0 2)) fun c =>
        .ok (.qcfg m (f.idx.extractLsb' 0 4) p c))
  | 0x31 => zf (f.idx == 0 && f.rb == 0 && f.zf == 0) (match f.sub.toNat with
    | 0 => zf (f.ra == 0 && f.imm.extractLsb' 5 11 == 0) (.ok (.tokPush m (f.imm.extractLsb' 0 5)))
    | 1 => zf (f.ra == 0 && f.imm.extractLsb' 5 11 == 0) (.ok (.tokPop m (f.imm.extractLsb' 0 5)))
    | 2 => zf (f.imm == 0) (.ok (.tokQ m f.ra))
    | _ => .error .selector)
  | 0x32 => zf (f.sub == 0 && f.zf == 0 && f.idx.getLsbD 4 == false && f.imm == 0) (.ok (.cbinit m (f.idx.extractLsb' 0 4) f.ra f.rb))
  | 0x33 => zf (f.sub == 0 && f.zf == 0 && f.idx.getLsbD 4 == false) (.ok (.cbwait m (f.idx.extractLsb' 0 4) f.rb f.ra f.imm))
  | 0x34 => zf (f.sub == 0 && f.zf == 0 && f.idx.getLsbD 4 == false) (.ok (.cbres m (f.idx.extractLsb' 0 4) f.rb f.ra f.imm))
  | 0x35 => zf (f.sub == 0 && f.zf == 0 && f.idx.getLsbD 4 == false && f.rb == 0) (.ok (.cbpush m (f.idx.extractLsb' 0 4) f.ra f.imm))
  | 0x36 => zf (f.sub == 0 && f.zf == 0 && f.idx.getLsbD 4 == false && f.rb == 0) (.ok (.cbpop m (f.idx.extractLsb' 0 4) f.ra f.imm))
  | 0x37 => zf (f.zf == 0) (match f.sub.toNat with
      | 0 => .ok (.semwDec m f.idx f.rb f.ra f.imm)
      | 1 => .ok (.semwGe m f.idx f.rb f.ra f.imm)
      | 2 => .ok (.semwEq m f.idx f.rb f.ra f.imm)
      | _ => .error .selector)
  | 0x38 => zf (f.zf == 0) (match f.sub.toNat with
      | 0 => .ok (.semsAdd m f.idx f.rb f.ra f.imm)
      | 1 => .ok (.semsSub m f.idx f.rb f.ra f.imm)
      | _ => .error .selector)
  | 0x39 => zf (f.zf == 0) (match f.sub.toNat with
      | 0 => .ok (.semset m f.idx f.rb f.ra f.imm)
      | _ => .error .selector)
  | 0x3A => zf (f.idx == 0 && f.sub == 0 && f.zf == 0) (.ok (.bari m f.ra f.rb f.imm))
  | 0x3C => zf (f.idx == 0 && f.sub == 0 && f.zf == 0) (.ok (.barx m f.ra f.rb f.imm))
  | 0x3D => zf (f.idx == 0 && f.sub == 0 && f.zf == 0) (.ok (.barw m f.ra f.rb f.imm))
  | 0x3B => zf (f.idx == 0 && f.sub == 0 && f.zf == 0 && f.imm == 0) (.ok (.bara m f.rb f.ra))
  | _ => .error .opcode

/-- Words of format FS (R276 to R290, R302 to R306). -/
def decodeFS (m : Mark) (op : Nat) (f : FS) : D :=
  match op with
  | 0x4C => zf (f.rd == 0 && f.ra == 0 && f.rb == 0 && f.rc == 0 && f.imm == 0 && f.sel.extractLsb' 3 9 == 0)
      (need .scope (Scope.ofCode (f.sel.extractLsb' 0 3)) fun x => .ok (.phase m x))
  | 0x4D => zf (f.rd == 0 && f.ra == 0 && f.rb == 0 && f.rc == 0 && f.imm == 0 && f.sel.extractLsb' 3 9 == 0)
      (need .scope (Scope.ofCode (f.sel.extractLsb' 0 3)) fun x => .ok (.acq m x))
  | 0x4E => zf (f.rd == 0 && f.ra == 0 && f.rb == 0 && f.rc == 0 && f.imm == 0 && f.sel.extractLsb' 3 9 == 0)
      (need .scope (Scope.ofCode (f.sel.extractLsb' 0 3)) fun x => .ok (.rel m x))
  | 0x4F => zf (f.rd == 0 && f.ra == 0 && f.rb == 0 && f.rc == 0 && f.imm.extractLsb' 2 14 == 0) (match f.sel.toNat with
    | 3 => .ok (.drain m false (f.imm.extractLsb' 0 2))
    | 4 => .ok (.drain m true (f.imm.extractLsb' 0 2))
    | _ => .error .scope)
  | 0x64 => zf (f.sel == 0 && f.imm == 0) (.ok (.snopen m f.rd f.ra f.rb f.rc))
  | 0x65 => zf (f.rd == 0 && f.rb == 0 && f.rc == 0 && f.sel == 0 && f.imm == 0) (.ok (.snacc m f.ra))
  | 0x66 => zf (f.rd == 0 && f.rb == 0 && f.rc == 0 && f.sel == 0 && f.imm == 0) (.ok (.snrej m f.ra))
  | 0x67 => zf (f.rb == 0 && f.rc == 0 && f.sel == 0 && f.imm == 0) (.ok (.snq m f.rd f.ra))
  | 0x68 => zf (f.rd == 0 && f.rb == 0 && f.rc == 0 && f.sel == 0 && f.imm == 0) (.ok (.vote m f.ra))
  | 0x69 => zf (f.ra == 0 && f.rb == 0 && f.rc == 0 && f.sel == 0 && f.imm == 0) (.ok (.vwait m f.rd))
  | 0x6A => zf (f.rd == 0 && f.ra == 0 && f.rb == 0 && f.rc == 0 && f.sel == 0 && f.imm.extractLsb' 8 8 == 0 && f.imm.extractLsb' 2 5 == 0 && f.imm.getLsbD 0 == false)
      (.ok (.vflag m (f.imm.getLsbD 1) (f.imm.getLsbD 7)))
  | 0x6B => zf (f.rb == 0 && f.rc == 0 && f.sel == 0 && f.imm.extractLsb' 6 10 == 0) (.ok (.rand m f.rd f.ra (f.imm.extractLsb' 0 6)))
  | 0x6C => zf (f.ra == 0 && f.rb == 0 && f.rc == 0 && f.sel == 0 && f.imm.extractLsb' 2 14 == 0) (.ok (.gen m f.rd (f.imm.extractLsb' 0 2)))
  | 0x70 => zf (f.imm == 0 && f.sel.extractLsb' 3 9 == 0) (if f.sel.getLsbD 0
      then .ok (.pushC m (f.sel.extractLsb' 1 2) f.ra f.rb f.rc f.rd)
      else .ok (.pushM m (f.sel.extractLsb' 1 2) f.ra f.rb f.rc f.rd))
  | 0x71 => zf (f.rc == 0 && f.imm == 0 && f.sel.extractLsb' 1 11 == 0) (if f.sel.getLsbD 0
      then .ok (.spawnW m f.rd f.ra f.rb) else .ok (.spawn m f.rd f.ra f.rb))
  | 0x72 => zf (f.rd == 0 && f.rb == 0 && f.rc == 0 && f.sel == 0 && f.imm == 0) (.ok (.tsig m f.ra))
  | 0x73 => zf (f.rb == 0 && f.rc == 0 && f.imm == 0 && f.sel.extractLsb' 6 6 == 0 && (f.sel.getLsbD 5 || f.sel.extractLsb' 0 5 == 0))
      (.ok (.coll m f.rd f.ra (if f.sel.getLsbD 5 then some (f.sel.extractLsb' 0 5) else none)))
  | 0x78 => zf (f.ra == 0 && f.rb == 0 && f.rc == 0 && f.imm == 0) (.ok (.mfsr m f.rd f.sel))
  | 0x79 => zf (f.rd == 0 && f.rb == 0 && f.rc == 0 && f.imm == 0) (.ok (.mtsr m f.sel f.ra))
  | 0x7A => zf (f.rd == 0 && f.ra == 0 && f.rb == 0 && f.rc == 0 && f.sel == 0 && !m.pb && !m.pa) (.ok (.trap m.tag f.imm))
  | 0x7C => zf (f.rd == 0 && f.ra == 0 && f.rb == 0 && f.rc == 0 && f.sel == 0 && !m.pb && !m.pa) (.ok (.brk m.tag f.imm))
  | 0x7B => zf (f.rd == 0 && f.ra == 0 && f.rb == 0 && f.rc == 0 && f.sel == 0 && f.imm == 0) (.ok (.eret m))
  | 0x7D => zf (f.rd == 0 && f.rc == 0 && f.imm == 0) (match f.sel.toNat with
    | 0 => zf (f.ra == 0 && f.rb == 0) (.ok (.xinvAll m))
    | 1 => zf (f.rb == 0) (.ok (.xinvX m f.ra))
    | 2 => .ok (.xinvVa m f.ra f.rb)
    | 3 => zf (f.ra == 0) (.ok (.xinvG m f.rb))
    | _ => .error .selector)
  | 0x7E => zf (f.rd == 0 && f.rc == 0 && f.imm == 0) (match f.sel.toNat with
    | 0 => .ok (.ptmc m f.ra f.rb)
    | 1 => zf (f.ra == 0 && f.rb == 0) (.ok (.ptmcSync m))
    | _ => .error .selector)
  | 0x7F => zf (f.rb == 0 && f.rc == 0 && f.imm == 0) (match f.sel.toNat with
    | 0 => .ok (.cfgd m f.rd f.ra)
    | 1 => zf (f.rd == 0 && f.ra == 0) (.ok (.isync m))
    | 2 => zf (f.rd == 0 && f.ra == 0) (.ok (.halt m))
    | _ => .error .selector)
  | _ => .error .opcode

/-- Words of format FV (R339 to R354). -/
def decodeFV (m : Mark) (op : Nat) (f : FV) : D :=
  match op with
  | 0x80 => zf (f.vc == 0 && f.dt2 == 0 && f.func == 0) (need .rm (RM.ofCode f.rm) fun rm => .ok (.vadd m (DType.ofCode f.dt) rm (f.sat == 1) f.vd f.va f.vb (Guard.ofCode f.g)))
  | 0x81 => zf (f.vc == 0 && f.dt2 == 0 && f.func == 0) (need .rm (RM.ofCode f.rm) fun rm => .ok (.vsub m (DType.ofCode f.dt) rm (f.sat == 1) f.vd f.va f.vb (Guard.ofCode f.g)))
  | 0x82 => zf (f.vc == 0 && f.dt2 == 0 && f.func == 0) (need .rm (RM.ofCode f.rm) fun rm => .ok (.vmul m (DType.ofCode f.dt) rm (f.sat == 1) f.vd f.va f.vb (Guard.ofCode f.g)))
  | 0x8D => zf (f.vc == 0 && f.dt2 == 0 && f.func == 0) (need .rm (RM.ofCode f.rm) fun rm => .ok (.vdiv m (DType.ofCode f.dt) rm (f.sat == 1) f.vd f.va f.vb (Guard.ofCode f.g)))
  | 0x83 => zf (f.dt2 == 0 && f.func == 0) (need .rm (RM.ofCode f.rm) fun rm => .ok (.vfma m (DType.ofCode f.dt) rm (f.sat == 1) f.vd f.va f.vb f.vc (Guard.ofCode f.g)))
  | 0x84 => zf (f.dt2 == 0 && f.func == 0) (need .rm (RM.ofCode f.rm) fun rm => .ok (.vfms m (DType.ofCode f.dt) rm (f.sat == 1) f.vd f.va f.vb f.vc (Guard.ofCode f.g)))
  | 0x85 => zf (f.dt2 == 0 && f.func == 0) (need .rm (RM.ofCode f.rm) fun rm => .ok (.vfnma m (DType.ofCode f.dt) rm (f.sat == 1) f.vd f.va f.vb f.vc (Guard.ofCode f.g)))
  | 0x86 => zf (f.vb == 0 && f.vc == 0 && f.dt2 == 0 && f.func == 0 && f.rm == 0) (.ok (.vneg m (DType.ofCode f.dt) (f.sat == 1) f.vd f.va (Guard.ofCode f.g)))
  | 0x87 => zf (f.vb == 0 && f.vc == 0 && f.dt2 == 0 && f.func == 0 && f.rm == 0) (.ok (.vabs m (DType.ofCode f.dt) (f.sat == 1) f.vd f.va (Guard.ofCode f.g)))
  | 0x88 => zf (f.vc == 0 && f.dt2 == 0 && f.func == 0 && f.rm == 0 && f.sat == 0) (.ok (.vmin m (DType.ofCode f.dt) f.vd f.va f.vb (Guard.ofCode f.g)))
  | 0x89 => zf (f.vc == 0 && f.dt2 == 0 && f.func == 0 && f.rm == 0 && f.sat == 0) (.ok (.vmax m (DType.ofCode f.dt) f.vd f.va f.vb (Guard.ofCode f.g)))
  | 0x8A => zf (f.vb == 0 && f.vc == 0 && f.dt2 == 0 && f.func == 0) (need .rm (RM.ofCode f.rm) fun rm => .ok (.vrcp m (DType.ofCode f.dt) rm (f.sat == 1) f.vd f.va (Guard.ofCode f.g)))
  | 0x8B => zf (f.vb == 0 && f.vc == 0 && f.dt2 == 0 && f.func == 0) (need .rm (RM.ofCode f.rm) fun rm => .ok (.vrsq m (DType.ofCode f.dt) rm (f.sat == 1) f.vd f.va (Guard.ofCode f.g)))
  | 0x8C => zf (f.vb == 0 && f.vc == 0 && f.dt2 == 0 && f.func == 0) (need .rm (RM.ofCode f.rm) fun rm => .ok (.vsqrt m (DType.ofCode f.dt) rm (f.sat == 1) f.vd f.va (Guard.ofCode f.g)))
  | 0x8E => zf (f.vb == 0 && f.vc == 0 && f.dt2 == 0 && f.func == 0 && f.rm == 0) (.ok (.vexp2 m (DType.ofCode f.dt) (f.sat == 1) f.vd f.va (Guard.ofCode f.g)))
  | 0x8F => zf (f.vb == 0 && f.vc == 0 && f.dt2 == 0 && f.func == 0 && f.rm == 0 && f.sat == 0) (.ok (.vlog2 m (DType.ofCode f.dt) f.vd f.va (Guard.ofCode f.g)))
  | 0x90 => zf (f.vb == 0 && f.vc == 0 && f.dt2 == 0 && f.func == 0 && f.rm == 0 && f.sat == 0) (.ok (.vtanh m (DType.ofCode f.dt) f.vd f.va (Guard.ofCode f.g)))
  | 0x91 => zf (f.vc == 0 && f.dt2 == 0 && f.rm == 0 && f.sat == 0 && f.func.extractLsb' 5 10 == 0 && f.vd.extractLsb' 3 2 == 0)
      (need .cond (Cond.ofCode (f.func.extractLsb' 0 4)) fun c => .ok (.vcmp m c (f.func.getLsbD 4) (DType.ofCode f.dt) (f.vd.extractLsb' 0 3) f.va f.vb (Guard.ofCode f.g)))
  | 0x92 => zf (f.dt == 0 && f.dt2 == 0 && f.rm == 0 && f.sat == 0 && f.func == 0 && f.vc.extractLsb' 3 2 == 0) (.ok (.vsel m f.vd f.va f.vb (f.vc.extractLsb' 0 3) (Guard.ofCode f.g)))
  | 0x93 => zf (f.vc == 0 && f.dt == 0 && f.dt2 == 0 && f.rm == 0 && f.sat == 0 && f.func == 0) (.ok (.vand m f.vd f.va f.vb (Guard.ofCode f.g)))
  | 0x94 => zf (f.vc == 0 && f.dt == 0 && f.dt2 == 0 && f.rm == 0 && f.sat == 0 && f.func == 0) (.ok (.vor m f.vd f.va f.vb (Guard.ofCode f.g)))
  | 0x95 => zf (f.vc == 0 && f.dt == 0 && f.dt2 == 0 && f.rm == 0 && f.sat == 0 && f.func == 0) (.ok (.vxor m f.vd f.va f.vb (Guard.ofCode f.g)))
  | 0x96 => zf (f.vc == 0 && f.dt == 0 && f.dt2 == 0 && f.rm == 0 && f.sat == 0 && f.func == 0) (.ok (.vshl m f.vd f.va f.vb (Guard.ofCode f.g)))
  | 0x97 => zf (f.vc == 0 && f.dt == 0 && f.dt2 == 0 && f.rm == 0 && f.sat == 0 && f.func == 0) (.ok (.vshr m f.vd f.va f.vb (Guard.ofCode f.g)))
  | 0x98 => zf (f.vc == 0 && f.dt == 0 && f.dt2 == 0 && f.rm == 0 && f.sat == 0 && f.func == 0) (.ok (.vsar m f.vd f.va f.vb (Guard.ofCode f.g)))
  | 0x99 => zf (f.vb == 0 && f.vc == 0 && f.func.extractLsb' 1 14 == 0) (need .rm (RM.ofCode f.rm) fun rm => .ok (.vcvt m (f.func.getLsbD 0) (DType.ofCode f.dt) (DType.ofCode f.dt2) rm (f.sat == 1) f.vd f.va (Guard.ofCode f.g)))
  | 0x9A => zf (f.vc == 0 && f.func.extractLsb' 3 12 == 0) (need .rm (RM.ofCode f.rm) fun rm => .ok (.vpack m (DType.ofCode f.dt) (DType.ofCode f.dt2) rm (f.sat == 1) f.vd f.va f.vb (f.func.extractLsb' 0 3) (Guard.ofCode f.g)))
  | 0x9B => zf (f.vc == 0 && f.func.extractLsb' 3 12 == 0) (need .rm (RM.ofCode f.rm) fun rm => .ok (.vunpk m (DType.ofCode f.dt) (DType.ofCode f.dt2) rm (f.sat == 1) f.vd f.va f.vb (f.func.extractLsb' 0 3) (Guard.ofCode f.g)))
  | 0x9C => zf (f.vb == 0 && f.vc == 0 && f.rm == 0 && f.sat == 0 && f.func.extractLsb' 3 12 == 0) (.ok (.vscl m (DType.ofCode f.dt) (DType.ofCode f.dt2) f.vd f.va (f.func.extractLsb' 0 3) (Guard.ofCode f.g)))
  | 0x9D => zf (f.vb == 0 && f.vc == 0 && f.func.extractLsb' 2 13 == 0)
      (need .selector (RedOp.ofCode (f.func.extractLsb' 0 2)) fun p => (need .rm (RM.ofCode f.rm) fun rm => .ok (.vred m p (DType.ofCode f.dt) (DType.ofCode f.dt2) rm (f.sat == 1) f.vd f.va (Guard.ofCode f.g))))
  | 0x9E => zf (f.rm == 0 && f.sat == 0 && f.func == 0) (.ok (.vdot m (DType.ofCode f.dt) (DType.ofCode f.dt2) f.vd f.va f.vb f.vc (Guard.ofCode f.g)))
  | 0x9F => zf (f.vb == 0 && f.vc == 0 && f.dt == 0 && f.dt2 == 0 && f.rm == 0 && f.sat == 0 && f.func == 0) (.ok (.vmov m f.vd f.va (Guard.ofCode f.g)))
  | 0xA0 => zf (f.dt == 0 && f.dt2 == 0 && f.rm == 0 && f.sat == 0 && f.func == 0) (.ok (.vperm m f.vd f.va f.vb f.vc (Guard.ofCode f.g)))
  | 0xA1 => zf (f.vc == 0 && f.dt2 == 0 && f.rm == 0 && f.sat == 0 && f.func.extractLsb' 1 14 == 0) (.ok (.vzip m (f.func.getLsbD 0) (DType.ofCode f.dt) f.vd f.va f.vb (Guard.ofCode f.g)))
  | 0xA2 => zf (f.vc == 0 && f.dt2 == 0 && f.rm == 0 && f.sat == 0 && f.func.extractLsb' 1 14 == 0) (.ok (.vuzp m (f.func.getLsbD 0) (DType.ofCode f.dt) f.vd f.va f.vb (Guard.ofCode f.g)))
  | 0xA3 => zf (f.dt2 == 0 && f.rm == 0 && f.sat == 0 && f.func == 0) (.ok (.vclamp m (DType.ofCode f.dt) f.vd f.va f.vb f.vc (Guard.ofCode f.g)))
  | _ => .error .opcode

/-- Words of format FVI (R344, R352, R353, R355). -/
def decodeFVI (m : Mark) (op : Nat) (f : FVI) : D :=
  match op with
  | 0xA8 => zf (f.d.extractLsb' 5 1 == 0 && f.ga == 0 && f.dt == 0 && f.func == 0 && f.imm.extractLsb' 6 10 == 0) (.ok (.vshlImmediate m (f.d.extractLsb' 0 5) f.va (f.imm.extractLsb' 0 6) (Guard.ofCode f.g)))
  | 0xA9 => zf (f.d.extractLsb' 5 1 == 0 && f.ga == 0 && f.dt == 0 && f.func == 0 && f.imm.extractLsb' 6 10 == 0) (.ok (.vshrImmediate m (f.d.extractLsb' 0 5) f.va (f.imm.extractLsb' 0 6) (Guard.ofCode f.g)))
  | 0xAA => zf (f.d.extractLsb' 5 1 == 0 && f.ga == 0 && f.dt == 0 && f.func == 0 && f.imm.extractLsb' 6 10 == 0) (.ok (.vsarImmediate m (f.d.extractLsb' 0 5) f.va (f.imm.extractLsb' 0 6) (Guard.ofCode f.g)))
  | 0xAB => zf (f.d.extractLsb' 5 1 == 0) (match f.func.toNat with
    | 0 => zf (f.va == 0 && f.imm == 0) (.ok (.vbc m (DType.ofCode f.dt) (f.d.extractLsb' 0 5) f.ga (Guard.ofCode f.g)))
    | 1 => zf (f.ga == 0) (.ok (.vbcElement m (DType.ofCode f.dt) (f.d.extractLsb' 0 5) f.va f.imm (Guard.ofCode f.g)))
    | _ => .error .selector)
  | 0xAC => zf (f.ga == 0 && f.func.extractLsb' 1 10 == 0) (.ok (.vext m (f.func.getLsbD 0) (DType.ofCode f.dt) f.d f.va f.imm (Guard.ofCode f.g)))
  | 0xAD => zf (f.d.extractLsb' 5 1 == 0 && f.va == 0 && f.func == 0) (.ok (.vins m (DType.ofCode f.dt) (f.d.extractLsb' 0 5) f.ga f.imm (Guard.ofCode f.g)))
  | 0xAE => zf (f.d.extractLsb' 5 1 == 0 && f.dt == 0) (match f.func.toNat with
    | 0 => .ok (.vslideDn m (f.d.extractLsb' 0 5) f.va f.ga f.imm (Guard.ofCode f.g))
    | 1 => .ok (.vslideUp m (f.d.extractLsb' 0 5) f.va f.ga f.imm (Guard.ofCode f.g))
    | _ => .error .selector)
  | 0xAF => zf (f.d.extractLsb' 5 1 == 0 && f.va == 0 && f.dt == 0) (match f.func.toNat with
    | 0 => .ok (.viota m (f.d.extractLsb' 0 5) f.ga f.imm (Guard.ofCode f.g))
    | 1 => .ok (.viotaPc m (f.d.extractLsb' 0 5) f.ga f.imm (Guard.ofCode f.g))
    | _ => .error .selector)
  | 0xB0 => zf (f.d.extractLsb' 5 1 == 0 && f.va == 0 && f.dt == 0 && f.func == 0 && f.imm.extractLsb' 6 10 == 0) (.ok (.vrand m (f.d.extractLsb' 0 5) f.ga (f.imm.extractLsb' 0 6) (Guard.ofCode f.g)))
  | _ => .error .opcode

/-- The two words of a safe (R236): the second must be an extension word with the same ROLE. -/
def decodeSafe (w : Word) (w2 : Option Word) : D :=
  match w2 with
  | none => .error .extension
  | some x =>
    if opOf x == 0xFE && x.extractLsb' 62 2 == w.extractLsb' 62 2 then
      zf ((FSafe.parse w).zf == 0 && x.extractLsb' 60 2 == 0 && (FExt.parse x).zf == 0)
        (.ok (.safe (Mark.ofWord w) (FSafe.parse w).gmask (FExt.parse x).vmask))
    else .error .extension

/-- The format that an opcode of the map R238 selects. -/
inductive Fmt where
  | FA | FB | FM | FJ | FQ | FV | FVI | FS | safe
  deriving DecidableEq, Repr

/-- The map R238; none for a reserved cell, for 0x00, and for 0xC0 to 0xFF. -/
def fmtOf (op : Nat) : Option Fmt :=
  if op == 0x0C then some .FM
  else if op == 0x0E || op == 0x0F then some .FB
  else if 0x01 ≤ op ∧ op ≤ 0x12 then some .FA
  else if op ≤ 0x19 ∧ 0x13 ≤ op then some .FB
  else if op == 0x1A then some .FA
  else if op == 0x2A then some .safe
  else if 0x20 ≤ op ∧ op ≤ 0x2B then some .FJ
  else if 0x30 ≤ op ∧ op ≤ 0x3D then some .FQ
  else if 0x40 ≤ op ∧ op ≤ 0x49 then some .FM
  else if op == 0x4A || op == 0x4B then some .FA
  else if 0x4C ≤ op ∧ op ≤ 0x4F then some .FS
  else if 0x60 ≤ op ∧ op ≤ 0x63 then some .FA
  else if 0x64 ≤ op ∧ op ≤ 0x6C then some .FS
  else if 0x70 ≤ op ∧ op ≤ 0x73 then some .FS
  else if 0x78 ≤ op ∧ op ≤ 0x7F then some .FS
  else if 0x80 ≤ op ∧ op ≤ 0xA3 then some .FV
  else if 0xA8 ≤ op ∧ op ≤ 0xB0 then some .FVI
  else none

/-- A word, and for a safe the word after it, before the checks of operand values. -/
def rawDecode (w : Word) (w2 : Option Word) : D :=
  match fmtOf (opOf w).toNat with
  | none => .error .opcode
  | some .FA => decodeFA (Mark.ofWord w) (opOf w).toNat (FA.parse w)
  | some .FB => decodeFB (Mark.ofWord w) (opOf w).toNat (FB.parse w)
  | some .FM => decodeFM (Mark.ofWord w) (opOf w).toNat (FM.parse w)
  | some .FJ => decodeFJ (Mark.ofWord w) (opOf w).toNat (FJ.parse w)
  | some .FQ => decodeFQ (Mark.ofWord w) (opOf w).toNat (FQ.parse w)
  | some .FV => decodeFV (Mark.ofWord w) (opOf w).toNat (FV.parse w)
  | some .FVI => decodeFVI (Mark.ofWord w) (opOf w).toNat (FVI.parse w)
  | some .FS => decodeFS (Mark.ofWord w) (opOf w).toNat (FS.parse w)
  | some .safe => decodeSafe w w2

/-- The instruction at a word (with the next word, for a safe), or the name of the ILLEGAL cause (R240). -/
def decodeWords (w : Word) (w2 : Option Word) : D :=
  match rawDecode w w2 with
  | .error e => .error e
  | .ok i =>
    match i.check with
    | none => .ok i
    | some e => .error e

/-- Eight bytes, the least significant first (R2). -/
def wordOfBytes : List Byte → Option (Word × List Byte)
  | b0 :: b1 :: b2 :: b3 :: b4 :: b5 :: b6 :: b7 :: r => some (b7 ++ b6 ++ b5 ++ b4 ++ b3 ++ b2 ++ b1 ++ b0, r)
  | _ => none

/-- The bytes of a word, the least significant first (R2). -/
def bytesOfWord (w : Word) : List Byte :=
  [w.extractLsb' 0 8, w.extractLsb' 8 8, w.extractLsb' 16 8, w.extractLsb' 24 8,
   w.extractLsb' 32 8, w.extractLsb' 40 8, w.extractLsb' 48 8, w.extractLsb' 56 8]

/-- The instruction that a list of bytes begins with, and the bytes after it. -/
def decodeBytes (bs : List Byte) : Except Ill (Instr × List Byte) :=
  match wordOfBytes bs with
  | none => .error .short
  | some (w, r) =>
    match wordOfBytes r with
    | none =>
      match decodeWords w none with
      | .error e => .error e
      | .ok i => .ok (i, r)
    | some (x, r2) =>
      match decodeWords w (some x) with
      | .error e => .error e
      | .ok (.safe m g v) => .ok (.safe m g v, r2)
      | .ok i => .ok (i, r)

/-! ## The encoder -/

/-- The words of an instruction, from the tables of R228 to R238 and the entries; none for commands and events. -/
def encode : Instr → List Word
  | .add m d a b g => [FA.pack m 0x02 { rd := d, ra := a, rb := b, func := 0, g := g.code }]
  | .sub m d a b g => [FA.pack m 0x02 { rd := d, ra := a, rb := b, func := 1, g := g.code }]
  | .mul m d a b g => [FA.pack m 0x03 { rd := d, ra := a, rb := b, func := 0, g := g.code }]
  | .mulh m d a b g => [FA.pack m 0x03 { rd := d, ra := a, rb := b, func := 1, g := g.code }]
  | .mulhu m d a b g => [FA.pack m 0x03 { rd := d, ra := a, rb := b, func := 2, g := g.code }]
  | .div m d a b g => [FA.pack m 0x04 { rd := d, ra := a, rb := b, func := 0, g := g.code }]
  | .divu m d a b g => [FA.pack m 0x04 { rd := d, ra := a, rb := b, func := 1, g := g.code }]
  | .rem m d a b g => [FA.pack m 0x04 { rd := d, ra := a, rb := b, func := 2, g := g.code }]
  | .remu m d a b g => [FA.pack m 0x04 { rd := d, ra := a, rb := b, func := 3, g := g.code }]
  | .and m d a b g => [FA.pack m 0x05 { rd := d, ra := a, rb := b, func := 0, g := g.code }]
  | .or m d a b g => [FA.pack m 0x05 { rd := d, ra := a, rb := b, func := 1, g := g.code }]
  | .xor m d a b g => [FA.pack m 0x05 { rd := d, ra := a, rb := b, func := 2, g := g.code }]
  | .andn m d a b g => [FA.pack m 0x05 { rd := d, ra := a, rb := b, func := 3, g := g.code }]
  | .shl m d a b g => [FA.pack m 0x06 { rd := d, ra := a, rb := b, func := 0, g := g.code }]
  | .shr m d a b g => [FA.pack m 0x06 { rd := d, ra := a, rb := b, func := 1, g := g.code }]
  | .sar m d a b g => [FA.pack m 0x06 { rd := d, ra := a, rb := b, func := 2, g := g.code }]
  | .rotr m d a b g => [FA.pack m 0x06 { rd := d, ra := a, rb := b, func := 3, g := g.code }]
  | .min m d a b g => [FA.pack m 0x07 { rd := d, ra := a, rb := b, func := 0, g := g.code }]
  | .max m d a b g => [FA.pack m 0x07 { rd := d, ra := a, rb := b, func := 1, g := g.code }]
  | .minu m d a b g => [FA.pack m 0x07 { rd := d, ra := a, rb := b, func := 2, g := g.code }]
  | .maxu m d a b g => [FA.pack m 0x07 { rd := d, ra := a, rb := b, func := 3, g := g.code }]
  | .nop m g => [FA.pack m 0x01 { g := g.code }]
  | .clz m d a g => [FA.pack m 0x08 { rd := d, ra := a, func := 0, g := g.code }]
  | .ctz m d a g => [FA.pack m 0x08 { rd := d, ra := a, func := 1, g := g.code }]
  | .popc m d a g => [FA.pack m 0x08 { rd := d, ra := a, func := 2, g := g.code }]
  | .sext m d a n g => [FA.pack m 0x09 { rd := d, ra := a, func := 0, aux := 0#6 ++ n, g := g.code }]
  | .zext m d a n g => [FA.pack m 0x09 { rd := d, ra := a, func := 1, aux := 0#6 ++ n, g := g.code }]
  | .bfx m d a p n g => [FA.pack m 0x0A { rd := d, ra := a, aux := n ++ p, g := g.code }]
  | .bfi m d a b p n g => [FA.pack m 0x0B { rd := d, ra := a, rb := b, aux := n ++ p, g := g.code }]
  | .sel m d a b p g => [FA.pack m 0x0D { rd := d, ra := a, rb := b, rc := 0#3 ++ p, g := g.code }]
  | .mov m d a g => [FA.pack m 0x10 { rd := d, ra := a, g := g.code }]
  | .cmp m c d a b g => [FA.pack m 0x11 { rd := 0#3 ++ d, ra := a, rb := b, func := 0#8 ++ c.code, g := g.code }]
  | .cset m c d a b g => [FA.pack m 0x12 { rd := d, ra := a, rb := b, func := 0#8 ++ c.code, g := g.code }]
  | .pand m d a b g => [FA.pack m 0x1A { rd := 0#3 ++ d, ra := 0#3 ++ a, rb := 0#3 ++ b, func := 0, g := g.code }]
  | .por m d a b g => [FA.pack m 0x1A { rd := 0#3 ++ d, ra := 0#3 ++ a, rb := 0#3 ++ b, func := 1, g := g.code }]
  | .pxor m d a b g => [FA.pack m 0x1A { rd := 0#3 ++ d, ra := 0#3 ++ a, rb := 0#3 ++ b, func := 2, g := g.code }]
  | .pnot m d a g => [FA.pack m 0x1A { rd := 0#3 ++ d, ra := 0#3 ++ a, func := 3, g := g.code }]
  | .pmov m d a g => [FA.pack m 0x1A { rd := 0#3 ++ d, ra := 0#3 ++ a, func := 4, g := g.code }]
  | .pmovFromGeneral m d a g => [FA.pack m 0x1A { rd := 0#3 ++ d, ra := a, func := 12, g := g.code }]
  | .pmovToGeneral m d a g => [FA.pack m 0x1A { rd := d, ra := 0#3 ++ a, func := 20, g := g.code }]
  | .probe m k d a b g => [FA.pack m 0x4A { rd := d, ra := a, rb := b, func := 0#10 ++ k.code, g := g.code }]
  | .unpin m d a b g => [FA.pack m 0x4B { rd := d, ra := a, rb := b, g := g.code }]
  | .amo m p z d a s => [FA.pack m 0x60 { rd := d, ra := a, rb := s, func := 0#7 ++ BitVec.ofBool z ++ p.code }]
  | .cas m d a e n => [FA.pack m 0x61 { rd := d, ra := a, rb := e, rc := n }]
  | .casc m d a e n c => [FA.pack m 0x62 { rd := d, ra := a, rb := e, rc := n, aux := c }]
  | .vamo m p d b i c s g =>
      [FA.pack m 0x63 { rd := 0#1 ++ d, ra := b, rb := 0#1 ++ i, rc := 0#1 ++ s, func := 0#8 ++ p.code,
                        aux := 0#10 ++ c, g := g.code }]
  | .li m d x g => [FB.pack m 0x0E { rd := d, imm := x, g := g.code }]
  | .lih m d a x g => [FB.pack m 0x0F { rd := d, ra := a, imm := x, g := g.code }]
  | .addi m d a x g => [FB.pack m 0x13 { rd := d, ra := a, imm := x, g := g.code }]
  | .andi m d a x g => [FB.pack m 0x14 { rd := d, ra := a, imm := x, g := g.code }]
  | .ori m d a x g => [FB.pack m 0x15 { rd := d, ra := a, imm := x, g := g.code }]
  | .xori m d a x g => [FB.pack m 0x16 { rd := d, ra := a, imm := x, g := g.code }]
  | .shli m d a x g => [FB.pack m 0x17 { rd := d, ra := a, imm := 0#26 ++ x, g := g.code }]
  | .shri m d a x g => [FB.pack m 0x18 { rd := d, ra := a, imm := 0#26 ++ x, g := g.code }]
  | .sari m d a x g => [FB.pack m 0x19 { rd := d, ra := a, imm := 0#26 ++ x, g := g.code }]
  | .lea m d e g => [FM.pack m 0x0C { rd := d, rb := e.rb, ri := e.ri, sc := e.sc, off := e.off, g := g.code }]
  | .ld m z x d e g =>
      [FM.pack m 0x40 { rd := d, rb := e.rb, ri := e.ri, sc := e.sc, off := e.off, sz := z.code,
                        func := 0#2 ++ BitVec.ofBool x, g := g.code }]
  | .st m z d e g =>
      [FM.pack m 0x41 { rd := d, rb := e.rb, ri := e.ri, sc := e.sc, off := e.off, sz := z.code, g := g.code }]
  | .ldc m z x s d e g =>
      [FM.pack m 0x42 { rd := d, rb := e.rb, ri := e.ri, sc := e.sc, off := e.off, sz := z.code, ord := s.code,
                        func := 0#2 ++ BitVec.ofBool x, g := g.code }]
  | .lda m z x s d e g =>
      [FM.pack m 0x43 { rd := d, rb := e.rb, ri := e.ri, sc := e.sc, off := e.off, sz := z.code, ord := s.code,
                        func := 0#2 ++ BitVec.ofBool x, g := g.code }]
  | .stl m z s d e g =>
      [FM.pack m 0x44 { rd := d, rb := e.rb, ri := e.ri, sc := e.sc, off := e.off, sz := z.code, ord := s.code,
                        g := g.code }]
  | .vld m n d e g =>
      [FM.pack m 0x45 { rd := 0#1 ++ d, rb := e.rb, ri := e.ri, sc := e.sc, off := e.off, sz := n, g := g.code }]
  | .vst m n d e g =>
      [FM.pack m 0x46 { rd := 0#1 ++ d, rb := e.rb, ri := e.ri, sc := e.sc, off := e.off, sz := n, g := g.code }]
  | .vldx m z x d e g =>
      [FM.pack m 0x47 { rd := 0#1 ++ d, rb := e.rb, ri := 0#1 ++ e.vi, sc := e.sc, off := e.off, sz := z.code,
                        func := 0#2 ++ BitVec.ofBool x, g := g.code }]
  | .vstx m z d e g =>
      [FM.pack m 0x48 { rd := 0#1 ++ d, rb := e.rb, ri := 0#1 ++ e.vi, sc := e.sc, off := e.off, sz := z.code,
                        g := g.code }]
  | .pref m k n e g =>
      [FM.pack m 0x49 { rb := e.rb, ri := e.ri, sc := e.sc, off := e.off, sz := n,
                        func := 0#2 ++ BitVec.ofBool k, g := g.code }]
  | .bra m x => [FJ.pack m 0x20 { disp := x }]
  | .br m a => [FJ.pack m 0x21 { ra := a }]
  | .brc m c a b x => [FJ.pack m 0x22 { ra := a, rb := b, cond := c.code, disp := x }]
  | .brq m n q x => [FJ.pack m 0x23 { ra := 6#3 ++ q, cond := 0#3 ++ BitVec.ofBool n, disp := x }]
  | .call m d x => [FJ.pack m 0x24 { ra := d, disp := x }]
  | .ret m a => [FJ.pack m 0x25 { ra := a }]
  | .jmp m d a => [FJ.pack m 0x26 { ra := d, rb := a }]
  | .loop m c x => [FJ.pack m 0x27 { lc := c, disp := x }]
  | .lrec m c a x => [FJ.pack m 0x28 { ra := a, lc := c, disp := x }]
  | .fin m => [FJ.pack m 0x29 {}]
  | .wait m a x => [FJ.pack m 0x2B { ra := a, disp := x }]
  | .safe m g v => [FSafe.pack m 0x2A { gmask := g }, FExt.pack ⟨m.tag, false, false⟩ 0xFE { vmask := v }]
  | .qcfg m q p c => [FQ.pack m 0x30 { idx := 0#1 ++ q, imm := 0#12 ++ p.code ++ c.code }]
  | .tokPush m n => [FQ.pack m 0x31 { sub := 0, imm := 0#11 ++ n }]
  | .tokPop m n => [FQ.pack m 0x31 { sub := 1, imm := 0#11 ++ n }]
  | .tokQ m d => [FQ.pack m 0x31 { ra := d, sub := 2 }]
  | .cbinit m h a b => [FQ.pack m 0x32 { ra := a, rb := b, idx := 0#1 ++ h }]
  | .cbwait m h d a x => [FQ.pack m 0x33 { ra := a, rb := d, idx := 0#1 ++ h, imm := x }]
  | .cbres m h d a x => [FQ.pack m 0x34 { ra := a, rb := d, idx := 0#1 ++ h, imm := x }]
  | .cbpush m h a x => [FQ.pack m 0x35 { ra := a, idx := 0#1 ++ h, imm := x }]
  | .cbpop m h a x => [FQ.pack m 0x36 { ra := a, idx := 0#1 ++ h, imm := x }]
  | .semwDec m s d a x => [FQ.pack m 0x37 { ra := a, rb := d, idx := s, sub := 0, imm := x }]
  | .semwGe m s d a x => [FQ.pack m 0x37 { ra := a, rb := d, idx := s, sub := 1, imm := x }]
  | .semwEq m s d a x => [FQ.pack m 0x37 { ra := a, rb := d, idx := s, sub := 2, imm := x }]
  | .semsAdd m s d a x => [FQ.pack m 0x38 { ra := a, rb := d, idx := s, sub := 0, imm := x }]
  | .semsSub m s d a x => [FQ.pack m 0x38 { ra := a, rb := d, idx := s, sub := 1, imm := x }]
  | .semset m s d a x => [FQ.pack m 0x39 { ra := a, rb := d, idx := s, sub := 0, imm := x }]
  | .bari m a b x => [FQ.pack m 0x3A { ra := a, rb := b, imm := x }]
  | .barx m a b x => [FQ.pack m 0x3C { ra := a, rb := b, imm := x }]
  | .barw m a b x => [FQ.pack m 0x3D { ra := a, rb := b, imm := x }]
  | .bara m d a => [FQ.pack m 0x3B { ra := a, rb := d }]
  | .phase m x => [FS.pack m 0x4C { sel := 0#9 ++ x.code }]
  | .acq m x => [FS.pack m 0x4D { sel := 0#9 ++ x.code }]
  | .rel m x => [FS.pack m 0x4E { sel := 0#9 ++ x.code }]
  | .drain m s k => [FS.pack m 0x4F { sel := if s then 4 else 3, imm := 0#14 ++ k }]
  | .snopen m d a b c => [FS.pack m 0x64 { rd := d, ra := a, rb := b, rc := c }]
  | .snacc m a => [FS.pack m 0x65 { ra := a }]
  | .snrej m a => [FS.pack m 0x66 { ra := a }]
  | .snq m d a => [FS.pack m 0x67 { rd := d, ra := a }]
  | .vote m a => [FS.pack m 0x68 { ra := a }]
  | .vwait m d => [FS.pack m 0x69 { rd := d }]
  | .vflag m l s => [FS.pack m 0x6A { imm := 0#8 ++ BitVec.ofBool s ++ 0#5 ++ BitVec.ofBool l ++ 0#1 }]
  | .rand m d a s => [FS.pack m 0x6B { rd := d, ra := a, imm := 0#10 ++ s }]
  | .gen m d s => [FS.pack m 0x6C { rd := d, imm := 0#14 ++ s }]
  | .pushM m n a b c d => [FS.pack m 0x70 { rd := d, ra := a, rb := b, rc := c, sel := 0#9 ++ n ++ 0#1 }]
  | .pushC m n a b c d => [FS.pack m 0x70 { rd := d, ra := a, rb := b, rc := c, sel := 0#9 ++ n ++ 1#1 }]
  | .spawn m d a b => [FS.pack m 0x71 { rd := d, ra := a, rb := b }]
  | .spawnW m d a b => [FS.pack m 0x71 { rd := d, ra := a, rb := b, sel := 1 }]
  | .tsig m a => [FS.pack m 0x72 { ra := a }]
  | .coll m d a s =>
      [FS.pack m 0x73 { rd := d, ra := a, sel := match s with | none => 0 | some n => 0#6 ++ 1#1 ++ n }]
  | .mfsr m d n => [FS.pack m 0x78 { rd := d, sel := n }]
  | .mtsr m n a => [FS.pack m 0x79 { ra := a, sel := n }]
  | .trap t x => [FS.pack ⟨t, false, false⟩ 0x7A { imm := x }]
  | .brk t x => [FS.pack ⟨t, false, false⟩ 0x7C { imm := x }]
  | .eret m => [FS.pack m 0x7B {}]
  | .xinvAll m => [FS.pack m 0x7D {}]
  | .xinvX m a => [FS.pack m 0x7D { ra := a, sel := 1 }]
  | .xinvVa m a b => [FS.pack m 0x7D { ra := a, rb := b, sel := 2 }]
  | .xinvG m b => [FS.pack m 0x7D { rb := b, sel := 3 }]
  | .ptmc m a b => [FS.pack m 0x7E { ra := a, rb := b }]
  | .ptmcSync m => [FS.pack m 0x7E { sel := 1 }]
  | .cfgd m d a => [FS.pack m 0x7F { rd := d, ra := a }]
  | .isync m => [FS.pack m 0x7F { sel := 1 }]
  | .halt m => [FS.pack m 0x7F { sel := 2 }]
  | .vadd m t r s d a b g =>
      [FV.pack m 0x80 { vd := d, va := a, vb := b, dt := t.code, rm := r.code, sat := BitVec.ofBool s, g := g.code }]
  | .vsub m t r s d a b g =>
      [FV.pack m 0x81 { vd := d, va := a, vb := b, dt := t.code, rm := r.code, sat := BitVec.ofBool s, g := g.code }]
  | .vmul m t r s d a b g =>
      [FV.pack m 0x82 { vd := d, va := a, vb := b, dt := t.code, rm := r.code, sat := BitVec.ofBool s, g := g.code }]
  | .vdiv m t r s d a b g =>
      [FV.pack m 0x8D { vd := d, va := a, vb := b, dt := t.code, rm := r.code, sat := BitVec.ofBool s, g := g.code }]
  | .vfma m t r s d a b c g =>
      [FV.pack m 0x83 { vd := d, va := a, vb := b, vc := c, dt := t.code, rm := r.code, sat := BitVec.ofBool s,
                        g := g.code }]
  | .vfms m t r s d a b c g =>
      [FV.pack m 0x84 { vd := d, va := a, vb := b, vc := c, dt := t.code, rm := r.code, sat := BitVec.ofBool s,
                        g := g.code }]
  | .vfnma m t r s d a b c g =>
      [FV.pack m 0x85 { vd := d, va := a, vb := b, vc := c, dt := t.code, rm := r.code, sat := BitVec.ofBool s,
                        g := g.code }]
  | .vneg m t s d a g => [FV.pack m 0x86 { vd := d, va := a, dt := t.code, sat := BitVec.ofBool s, g := g.code }]
  | .vabs m t s d a g => [FV.pack m 0x87 { vd := d, va := a, dt := t.code, sat := BitVec.ofBool s, g := g.code }]
  | .vexp2 m t s d a g => [FV.pack m 0x8E { vd := d, va := a, dt := t.code, sat := BitVec.ofBool s, g := g.code }]
  | .vmin m t d a b g => [FV.pack m 0x88 { vd := d, va := a, vb := b, dt := t.code, g := g.code }]
  | .vmax m t d a b g => [FV.pack m 0x89 { vd := d, va := a, vb := b, dt := t.code, g := g.code }]
  | .vrcp m t r s d a g =>
      [FV.pack m 0x8A { vd := d, va := a, dt := t.code, rm := r.code, sat := BitVec.ofBool s, g := g.code }]
  | .vrsq m t r s d a g =>
      [FV.pack m 0x8B { vd := d, va := a, dt := t.code, rm := r.code, sat := BitVec.ofBool s, g := g.code }]
  | .vsqrt m t r s d a g =>
      [FV.pack m 0x8C { vd := d, va := a, dt := t.code, rm := r.code, sat := BitVec.ofBool s, g := g.code }]
  | .vlog2 m t d a g => [FV.pack m 0x8F { vd := d, va := a, dt := t.code, g := g.code }]
  | .vtanh m t d a g => [FV.pack m 0x90 { vd := d, va := a, dt := t.code, g := g.code }]
  | .vcmp m c h t d a b g =>
      [FV.pack m 0x91 { vd := 0#2 ++ d, va := a, vb := b, dt := t.code,
                        func := 0#10 ++ BitVec.ofBool h ++ c.code, g := g.code }]
  | .vsel m d a b p g => [FV.pack m 0x92 { vd := d, va := a, vb := b, vc := 0#2 ++ p, g := g.code }]
  | .vand m d a b g => [FV.pack m 0x93 { vd := d, va := a, vb := b, g := g.code }]
  | .vor m d a b g => [FV.pack m 0x94 { vd := d, va := a, vb := b, g := g.code }]
  | .vxor m d a b g => [FV.pack m 0x95 { vd := d, va := a, vb := b, g := g.code }]
  | .vshl m d a b g => [FV.pack m 0x96 { vd := d, va := a, vb := b, g := g.code }]
  | .vshr m d a b g => [FV.pack m 0x97 { vd := d, va := a, vb := b, g := g.code }]
  | .vsar m d a b g => [FV.pack m 0x98 { vd := d, va := a, vb := b, g := g.code }]
  | .vcvt m h t u r s d a g =>
      [FV.pack m 0x99 { vd := d, va := a, dt := t.code, dt2 := u.code, rm := r.code, sat := BitVec.ofBool s,
                        func := 0#14 ++ BitVec.ofBool h, g := g.code }]
  | .vpack m t u r s d a b q g =>
      [FV.pack m 0x9A { vd := d, va := a, vb := b, dt := t.code, dt2 := u.code, rm := r.code,
                        sat := BitVec.ofBool s, func := 0#12 ++ q, g := g.code }]
  | .vunpk m t u r s d a b q g =>
      [FV.pack m 0x9B { vd := d, va := a, vb := b, dt := t.code, dt2 := u.code, rm := r.code,
                        sat := BitVec.ofBool s, func := 0#12 ++ q, g := g.code }]
  | .vscl m t u d a q g =>
      [FV.pack m 0x9C { vd := d, va := a, dt := t.code, dt2 := u.code, func := 0#12 ++ q, g := g.code }]
  | .vred m p t u r s d a g =>
      [FV.pack m 0x9D { vd := d, va := a, dt := t.code, dt2 := u.code, rm := r.code, sat := BitVec.ofBool s,
                        func := 0#13 ++ p.code, g := g.code }]
  | .vdot m t u d a b c g =>
      [FV.pack m 0x9E { vd := d, va := a, vb := b, vc := c, dt := t.code, dt2 := u.code, g := g.code }]
  | .vmov m d a g => [FV.pack m 0x9F { vd := d, va := a, g := g.code }]
  | .vperm m d a b c g => [FV.pack m 0xA0 { vd := d, va := a, vb := b, vc := c, g := g.code }]
  | .vzip m h t d a b g =>
      [FV.pack m 0xA1 { vd := d, va := a, vb := b, dt := t.code, func := 0#14 ++ BitVec.ofBool h, g := g.code }]
  | .vuzp m h t d a b g =>
      [FV.pack m 0xA2 { vd := d, va := a, vb := b, dt := t.code, func := 0#14 ++ BitVec.ofBool h, g := g.code }]
  | .vclamp m t d a b c g => [FV.pack m 0xA3 { vd := d, va := a, vb := b, vc := c, dt := t.code, g := g.code }]
  | .vshlImmediate m d a n g => [FVI.pack m 0xA8 { d := 0#1 ++ d, va := a, imm := 0#10 ++ n, g := g.code }]
  | .vshrImmediate m d a n g => [FVI.pack m 0xA9 { d := 0#1 ++ d, va := a, imm := 0#10 ++ n, g := g.code }]
  | .vsarImmediate m d a n g => [FVI.pack m 0xAA { d := 0#1 ++ d, va := a, imm := 0#10 ++ n, g := g.code }]
  | .vbc m t d a g => [FVI.pack m 0xAB { d := 0#1 ++ d, ga := a, dt := t.code, g := g.code }]
  | .vbcElement m t d a i g =>
      [FVI.pack m 0xAB { d := 0#1 ++ d, va := a, dt := t.code, func := 1, imm := i, g := g.code }]
  | .vext m x t d a i g =>
      [FVI.pack m 0xAC { d := d, va := a, dt := t.code, func := 0#10 ++ BitVec.ofBool x, imm := i, g := g.code }]
  | .vins m t d a i g => [FVI.pack m 0xAD { d := 0#1 ++ d, ga := a, dt := t.code, imm := i, g := g.code }]
  | .vslideDn m d a b n g => [FVI.pack m 0xAE { d := 0#1 ++ d, va := a, ga := b, func := 0, imm := n, g := g.code }]
  | .vslideUp m d a b n g => [FVI.pack m 0xAE { d := 0#1 ++ d, va := a, ga := b, func := 1, imm := n, g := g.code }]
  | .viota m d a n g => [FVI.pack m 0xAF { d := 0#1 ++ d, ga := a, func := 0, imm := n, g := g.code }]
  | .viotaPc m d a n g => [FVI.pack m 0xAF { d := 0#1 ++ d, ga := a, func := 1, imm := n, g := g.code }]
  | .vrand m d a s g => [FVI.pack m 0xB0 { d := 0#1 ++ d, ga := a, imm := 0#10 ++ s, g := g.code }]
  | _ => []

/-! ## Engine command words -/

/-- First word of a command (R243). -/
structure FCmd where
  wen : BitVec 1 := 0
  wsem : BitVec 5 := 0
  wcond : BitVec 2 := 0
  sen : BitVec 1 := 0
  ssem : BitVec 5 := 0
  sop : BitVec 2 := 0
  cmd : BitVec 6 := 0
  body : BitVec 42 := 0
  deriving DecidableEq, Repr

def FCmd.parse (w : BitVec 64) : FCmd := ⟨w.extractLsb' 63 1, w.extractLsb' 58 5, w.extractLsb' 56 2, w.extractLsb' 55 1, w.extractLsb' 50 5, w.extractLsb' 48 2, w.extractLsb' 42 6, w.extractLsb' 0 42⟩

def FCmd.bits (f : FCmd) : BitVec 64 := f.wen ++ f.wsem ++ f.wcond ++ f.sen ++ f.ssem ++ f.sop ++ f.cmd ++ f.body

/-- mma (R365), bits [41:0]. -/
structure FMma where
  lp : BitVec 1 := 0
  fidx : BitVec 4 := 0
  ha : BitVec 4 := 0
  hb : BitVec 4 := 0
  acc : BitVec 3 := 0
  reuse : BitVec 1 := 0
  popa : BitVec 1 := 0
  popb : BitVec 1 := 0
  zf : BitVec 23 := 0
  deriving DecidableEq, Repr

def FMma.parse (w : BitVec 42) : FMma := ⟨w.extractLsb' 41 1, w.extractLsb' 37 4, w.extractLsb' 33 4, w.extractLsb' 29 4, w.extractLsb' 26 3, w.extractLsb' 25 1, w.extractLsb' 24 1, w.extractLsb' 23 1, w.extractLsb' 0 23⟩

def FMma.bits (f : FMma) : BitVec 42 := f.lp ++ f.fidx ++ f.ha ++ f.hb ++ f.acc ++ f.reuse ++ f.popa ++ f.popb ++ f.zf

/-- mzr (R367), bits [41:0]. -/
structure FMzr where
  acc : BitVec 3 := 0
  ty : BitVec 1 := 0
  cs : BitVec 1 := 0
  zf : BitVec 37 := 0
  deriving DecidableEq, Repr

def FMzr.parse (w : BitVec 42) : FMzr := ⟨w.extractLsb' 39 3, w.extractLsb' 38 1, w.extractLsb' 37 1, w.extractLsb' 0 37⟩

def FMzr.bits (f : FMzr) : BitVec 42 := f.acc ++ f.ty ++ f.cs ++ f.zf

/-- mld (R368), bits [41:0]. -/
structure FMld where
  acc : BitVec 3 := 0
  ty : BitVec 1 := 0
  cs : BitVec 1 := 0
  h : BitVec 4 := 0
  pop : BitVec 1 := 0
  zf : BitVec 32 := 0
  deriving DecidableEq, Repr

def FMld.parse (w : BitVec 42) : FMld := ⟨w.extractLsb' 39 3, w.extractLsb' 38 1, w.extractLsb' 37 1, w.extractLsb' 33 4, w.extractLsb' 32 1, w.extractLsb' 0 32⟩

def FMld.bits (f : FMld) : BitVec 42 := f.acc ++ f.ty ++ f.cs ++ f.h ++ f.pop ++ f.zf

/-- mdr (R369), bits [41:0]. -/
structure FMdr where
  acc : BitVec 3 := 0
  dt : BitVec 4 := 0
  rm : BitVec 3 := 0
  sat : BitVec 1 := 0
  h : BitVec 4 := 0
  clr : BitVec 1 := 0
  free : BitVec 1 := 0
  zf : BitVec 25 := 0
  deriving DecidableEq, Repr

def FMdr.parse (w : BitVec 42) : FMdr := ⟨w.extractLsb' 39 3, w.extractLsb' 35 4, w.extractLsb' 32 3, w.extractLsb' 31 1, w.extractLsb' 27 4, w.extractLsb' 26 1, w.extractLsb' 25 1, w.extractLsb' 0 25⟩

def FMdr.bits (f : FMdr) : BitVec 42 := f.acc ++ f.dt ++ f.rm ++ f.sat ++ f.h ++ f.clr ++ f.free ++ f.zf

/-- mcfg (R370), bits [41:0]. -/
structure FMcfg where
  sub : BitVec 2 := 0
  x : BitVec 5 := 0
  zf : BitVec 35 := 0
  deriving DecidableEq, Repr

def FMcfg.parse (w : BitVec 42) : FMcfg := ⟨w.extractLsb' 40 2, w.extractLsb' 35 5, w.extractLsb' 0 35⟩

def FMcfg.bits (f : FMcfg) : BitVec 42 := f.sub ++ f.x ++ f.zf

/-- Copy commands (R382), bits [41:0]. -/
structure FCpy where
  dims : BitVec 2 := 0
  sh : BitVec 1 := 0
  dh : BitVec 1 := 0
  shnd : BitVec 4 := 0
  dhnd : BitVec 4 := 0
  spop : BitVec 1 := 0
  strm : BitVec 1 := 0
  ben : BitVec 1 := 0
  bcore : BitVec 6 := 0
  boff : BitVec 17 := 0
  sa56 : BitVec 1 := 0
  da56 : BitVec 1 := 0
  zf : BitVec 2 := 0
  deriving DecidableEq, Repr

def FCpy.parse (w : BitVec 42) : FCpy := ⟨w.extractLsb' 40 2, w.extractLsb' 39 1, w.extractLsb' 38 1, w.extractLsb' 34 4, w.extractLsb' 30 4, w.extractLsb' 29 1, w.extractLsb' 28 1, w.extractLsb' 27 1, w.extractLsb' 21 6, w.extractLsb' 4 17, w.extractLsb' 3 1, w.extractLsb' 2 1, w.extractLsb' 0 2⟩

def FCpy.bits (f : FCpy) : BitVec 42 := f.dims ++ f.sh ++ f.dh ++ f.shnd ++ f.dhnd ++ f.spop ++ f.strm ++ f.ben ++ f.bcore ++ f.boff ++ f.sa56 ++ f.da56 ++ f.zf

/-- A continuation word (R243). -/
structure FCont where
  mark : BitVec 8 := 0
  lo : BitVec 56 := 0
  deriving DecidableEq, Repr

def FCont.parse (w : BitVec 64) : FCont := ⟨w.extractLsb' 56 8, w.extractLsb' 0 56⟩

def FCont.bits (f : FCont) : BitVec 64 := f.mark ++ f.lo

/-- Word 3 of cpy, below MARK (R385). -/
structure FLen where
  len : BitVec 24 := 0
  zf1 : BitVec 11 := 0
  shp : BitVec 18 := 0
  zf2 : BitVec 3 := 0
  deriving DecidableEq, Repr

def FLen.parse (w : BitVec 56) : FLen := ⟨w.extractLsb' 32 24, w.extractLsb' 21 11, w.extractLsb' 3 18, w.extractLsb' 0 3⟩

def FLen.bits (f : FLen) : BitVec 56 := f.len ++ f.zf1 ++ f.shp ++ f.zf2

/-- Word 3 of gath and scat, below MARK (R387). -/
structure FGath where
  nm1 : BitVec 16 := 0
  esz : BitVec 4 := 0
  idx : BitVec 19 := 0
  zf : BitVec 17 := 0
  deriving DecidableEq, Repr

def FGath.parse (w : BitVec 56) : FGath := ⟨w.extractLsb' 40 16, w.extractLsb' 36 4, w.extractLsb' 17 19, w.extractLsb' 0 17⟩

def FGath.bits (f : FGath) : BitVec 56 := f.nm1 ++ f.esz ++ f.idx ++ f.zf

/-- A word of fill or cpyd, below MARK: 24 bits and 32 bits (R386, R388). -/
structure FHalf where
  len : BitVec 24 := 0
  lo : BitVec 32 := 0
  deriving DecidableEq, Repr

def FHalf.parse (w : BitVec 56) : FHalf := ⟨w.extractLsb' 32 24, w.extractLsb' 0 32⟩

def FHalf.bits (f : FHalf) : BitVec 56 := f.len ++ f.lo

/-- Word 3 of redc, below MARK (R389). -/
structure FRedc where
  len : BitVec 24 := 0
  op : BitVec 4 := 0
  sz : BitVec 1 := 0
  group : BitVec 8 := 0
  srcid : BitVec 16 := 0
  zf : BitVec 3 := 0
  deriving DecidableEq, Repr

def FRedc.parse (w : BitVec 56) : FRedc := ⟨w.extractLsb' 32 24, w.extractLsb' 28 4, w.extractLsb' 27 1, w.extractLsb' 19 8, w.extractLsb' 3 16, w.extractLsb' 0 3⟩

def FRedc.bits (f : FRedc) : BitVec 56 := f.len ++ f.op ++ f.sz ++ f.group ++ f.srcid ++ f.zf

/-- Word 1 of bartx, below MARK (R390). -/
structure FBytes where
  zf : BitVec 8 := 0
  bytes : BitVec 48 := 0
  deriving DecidableEq, Repr

def FBytes.parse (w : BitVec 56) : FBytes := ⟨w.extractLsb' 48 8, w.extractLsb' 0 48⟩

def FBytes.bits (f : FBytes) : BitVec 56 := f.zf ++ f.bytes

/-- The wait and signal bytes of a first word (R243). -/
def FCmd.ws (f : FCmd) : WaitSig := ⟨f.wen == 1, f.wsem, f.wcond, f.sen == 1, f.ssem, f.sop⟩

/-- A first word from its wait and signal bytes, command code and body. -/
def packCmd (s : WaitSig) (cmd : BitVec 6) (body : BitVec 42) : Word :=
  FCmd.bits ⟨BitVec.ofBool s.wen, s.wsem, s.wcond, BitVec.ofBool s.sen, s.ssem, s.sop, cmd, body⟩

/-- A continuation word. -/
def packCont (x : BitVec 56) : Word := FCont.bits ⟨0xFF, x⟩

/-- The number of words a copy command takes (R383). -/
def copyWords (cmd : BitVec 6) : Nat :=
  match cmd.toNat with
  | 0 => 1
  | 7 => 2
  | _ => 4

/-- A word is a continuation word (R243). -/
def isCont (w : Word) : Bool := w.extractLsb' 56 8 == 0xFF

/-- The low 56 bits of a continuation word. -/
def contLow (w : Word) : BitVec 56 := w.extractLsb' 0 56

/-- A matrix command word (R245, R365 to R371). -/
def rawMatrix (w : Word) : D :=
  let f := FCmd.parse w
  if isCont w then .error .marker
  else match f.cmd.toNat with
  | 0 => zf (f.body == 0) (.ok (.mnop f.ws))
  | 1 =>
    let x := FMma.parse f.body
    zf (x.zf == 0) (.ok (.mma f.ws (x.lp == 1) x.fidx x.ha x.hb x.acc (x.reuse == 1) (x.popa == 1) (x.popb == 1)))
  | 2 =>
    let x := FMzr.parse f.body
    zf (x.zf == 0) (.ok (.mzr f.ws x.acc (x.ty == 1) (x.cs == 1)))
  | 3 =>
    let x := FMld.parse f.body
    zf (x.zf == 0) (.ok (.mld f.ws x.acc (x.ty == 1) (x.cs == 1) x.h (x.pop == 1)))
  | 4 =>
    let x := FMdr.parse f.body
    zf (x.zf == 0) (need .rm (RM.ofCode (0#1 ++ x.rm)) fun rm =>
      .ok (.mdr f.ws x.acc x.dt rm (x.sat == 1) x.h (x.clr == 1) (x.free == 1)))
  | 5 =>
    let x := FMcfg.parse f.body
    match x.sub.toNat with
    | 0 => zf (x.zf == 0 && x.x.extractLsb' 0 4 == 0) (.ok (.mcfgRedundant f.ws (x.x.getLsbD 4)))
    | 1 => zf (x.zf == 0) (.ok (.mcfgLoadFormat f.ws (x.x.extractLsb' 1 4) (x.x.getLsbD 0)))
    | _ => .error .command
  | _ => .error .command

/-- A side of a copy command from its flag, handle, pop bit and address (R382). -/
def sideOf (h : BitVec 1) (hnd : BitVec 4) (pop : Bool) (a : BitVec 57) : CopySide :=
  if h == 1 then .handle hnd pop else .addr a

/-- The zero fields of a side (R382): an address side has no handle and no pop, a handle side no address. -/
def sideZ (h : BitVec 1) (hnd : BitVec 4) (pop : BitVec 1) (a : BitVec 57) : Bool :=
  if h == 1 then a == 0 else hnd == 0 && pop == 0

/-- The streaming and barrier fields (R382). -/
def FCpy.opts (x : FCpy) : CopyOpts := ⟨x.strm == 1, x.ben == 1, x.bcore, x.boff⟩

def FCpy.srcZ (x : FCpy) (a : BitVec 57) : Bool := sideZ x.sh x.shnd x.spop a

def FCpy.dstZ (x : FCpy) (a : BitVec 57) : Bool := sideZ x.dh x.dhnd 0 a

/-- A copy command that uses no source handle and no source pop. -/
def FCpy.noSrc (x : FCpy) : Bool := x.sh == 0 && x.shnd == 0 && x.spop == 0

def FCpy.noDst (x : FCpy) : Bool := x.dh == 0 && x.dhnd == 0

/-- The commands of one word (R383). -/
def rawCopy1 (f : FCmd) : D :=
  match f.cmd.toNat with
  | 0 => zf (f.body == 0) (.ok (.cnop f.ws))
  | _ => .error .command

/-- The command of two words (R390). -/
def rawCopy2 (f : FCmd) (x : FCpy) (lo1 : BitVec 56) : D :=
  match f.cmd.toNat with
  | 7 =>
    let b := FBytes.parse lo1
    zf (x.dims == 0 && x.noSrc && x.noDst && x.strm == 0 && x.ben == 0 && x.sa56 == 0 && x.da56 == 0 && x.zf == 0
        && b.zf == 0)
      (.ok (.bartx f.ws x.bcore x.boff b.bytes))
  | _ => .error .command

/-- The commands of four words (R385 to R389), from the low 56 bits of their continuation words. -/
def rawCopy4 (f : FCmd) (x : FCpy) (lo1 lo2 lo : BitVec 56) : D :=
  let sa : BitVec 57 := x.sa56 ++ lo1
  let da : BitVec 57 := x.da56 ++ lo2
  zf (x.zf == 0) (match f.cmd.toNat with
  | 1 =>
    let l := FLen.parse lo
    zf (x.srcZ sa && x.dstZ da && l.zf1 == 0 && l.zf2 == 0)
      (.ok (.cpy f.ws x.dims (sideOf x.sh x.shnd (x.spop == 1) sa) (sideOf x.dh x.dhnd false da) x.opts l.len l.shp))
  | 2 =>
    let l := FHalf.parse lo
    zf (x.dims == 0 && x.noSrc && x.dstZ da && l.lo == 0)
      (.ok (.cpyd f.ws sa (sideOf x.dh x.dhnd false da) x.opts l.len))
  | 3 =>
    let l := FGath.parse lo
    zf (x.dims == 0 && x.noSrc && x.dstZ da && l.zf == 0)
      (.ok (.gath f.ws sa (sideOf x.dh x.dhnd false da) x.opts l.nm1 l.esz l.idx))
  | 4 =>
    let l := FGath.parse lo
    zf (x.dims == 0 && x.srcZ sa && x.noDst && l.zf == 0)
      (.ok (.scat f.ws (sideOf x.sh x.shnd (x.spop == 1) sa) da x.opts l.nm1 l.esz l.idx))
  | 5 =>
    let l := FHalf.parse lo
    let p := FHalf.parse lo1
    zf (x.dims == 0 && x.noSrc && x.sa56 == 0 && x.dstZ da && p.len == 0)
      (.ok (.fill f.ws (sideOf x.dh x.dhnd false da) x.opts l.len (l.lo ++ p.lo)))
  | 6 =>
    let l := FRedc.parse lo
    zf (x.dims == 0 && x.srcZ sa && x.noDst && l.zf == 0)
      (.ok (.redc f.ws (sideOf x.sh x.shnd (x.spop == 1) sa) da x.opts l.len l.op (l.sz == 1) l.group l.srcid))
  | _ => .error .command)

/-- A copy command's words (R245, R382 to R390). -/
def rawCopy (ws : List Word) : D :=
  match ws with
  | [w0] => if isCont w0 then .error .marker else rawCopy1 (FCmd.parse w0)
  | [w0, w1] =>
    if isCont w0 || !isCont w1 then .error .marker
    else rawCopy2 (FCmd.parse w0) (FCpy.parse (FCmd.parse w0).body) (contLow w1)
  | [w0, w1, w2, w3] =>
    if isCont w0 || !(isCont w1 && isCont w2 && isCont w3) then .error .marker
    else rawCopy4 (FCmd.parse w0) (FCpy.parse (FCmd.parse w0).body) (contLow w1) (contLow w2) (contLow w3)
  | _ => .error .short

/-- A command with the checks of WellFormed. -/
def checked (d : D) : D :=
  match d with
  | .error e => .error e
  | .ok i =>
    match i.check with
    | none => .ok i
    | some e => .error e

/-- The matrix command at a ring word, or why the word is malformed (R245). -/
def decodeMatrix (w : Word) : D := checked (rawMatrix w)

/-- The copy command of a list of ring words, or why they are malformed (R245). -/
def decodeCopy (ws : List Word) : D := checked (rawCopy ws)

/-- The address and handle fields of a side: handle flag, handle, pop, address. -/
def CopySide.fields : CopySide → BitVec 1 × BitVec 4 × BitVec 1 × BitVec 57
  | .addr a => (0, 0, 0, a)
  | .handle h p => (1, h, BitVec.ofBool p, 0)

/-- The first word's body of a copy command from its sides and options (R382). -/
def copyBody (dims : BitVec 2) (src dst : CopySide) (x : CopyOpts) : BitVec 42 :=
  FCpy.bits ⟨dims, src.fields.1, dst.fields.1, src.fields.2.1, dst.fields.2.1, src.fields.2.2.1, BitVec.ofBool x.strm,
    BitVec.ofBool x.ben, x.bcore, x.boff, src.fields.2.2.2.extractLsb' 56 1, dst.fields.2.2.2.extractLsb' 56 1, 0⟩

/-- The words of a copy command with two address words and a third word. -/
def copyPack (s : WaitSig) (cmd : BitVec 6) (dims : BitVec 2) (src dst : CopySide) (x : CopyOpts) (lo : BitVec 56) :
    List Word :=
  [packCmd s cmd (copyBody dims src dst x), packCont (src.fields.2.2.2.extractLsb' 0 56),
    packCont (dst.fields.2.2.2.extractLsb' 0 56), packCont lo]

/-- The ring words of an engine command; none for anything else. -/
def encodeCommand : Instr → List Word
  | .mnop s => [packCmd s 0 0]
  | .mma s lp fi ha hb ac re pa pb =>
    [packCmd s 1 (FMma.bits ⟨BitVec.ofBool lp, fi, ha, hb, ac, BitVec.ofBool re, BitVec.ofBool pa, BitVec.ofBool pb, 0⟩)]
  | .mzr s ac ty cs => [packCmd s 2 (FMzr.bits ⟨ac, BitVec.ofBool ty, BitVec.ofBool cs, 0⟩)]
  | .mld s ac ty cs h p => [packCmd s 3 (FMld.bits ⟨ac, BitVec.ofBool ty, BitVec.ofBool cs, h, BitVec.ofBool p, 0⟩)]
  | .mdr s ac dt rm sat h clr fr =>
    [packCmd s 4 (FMdr.bits ⟨ac, dt, rm.code.extractLsb' 0 3, BitVec.ofBool sat, h, BitVec.ofBool clr, BitVec.ofBool fr, 0⟩)]
  | .mcfgRedundant s r => [packCmd s 5 (FMcfg.bits ⟨0, BitVec.ofBool r ++ 0#4, 0⟩)]
  | .mcfgLoadFormat s h p => [packCmd s 5 (FMcfg.bits ⟨1, h ++ BitVec.ofBool p, 0⟩)]
  | .cnop s => [packCmd s 0 0]
  | .cpy s d a b x l sp => copyPack s 1 d a b x (FLen.bits ⟨l, 0, sp, 0⟩)
  | .cpyd s a b x l => copyPack s 2 0 (.addr a) b x (FHalf.bits ⟨l, 0⟩)
  | .gath s a b x n e i => copyPack s 3 0 (.addr a) b x (FGath.bits ⟨n, e, i, 0⟩)
  | .scat s a b x n e i => copyPack s 4 0 a (.addr b) x (FGath.bits ⟨n, e, i, 0⟩)
  | .fill s b x l p =>
    [packCmd s 5 (copyBody 0 (.addr 0) b x), packCont (FHalf.bits ⟨0, p.extractLsb' 0 32⟩),
      packCont (b.fields.2.2.2.extractLsb' 0 56), packCont (FHalf.bits ⟨l, p.extractLsb' 32 32⟩)]
  | .redc s a b x l op z g i => copyPack s 6 0 a (.addr b) x (FRedc.bits ⟨l, op, BitVec.ofBool z, g, i, 0⟩)
  | .bartx s c b n =>
    [packCmd s 7 (FCpy.bits ⟨0, 0, 0, 0, 0, 0, 0, 0, c, b, 0, 0, 0⟩), packCont (FBytes.bits ⟨0, n⟩)]
  | _ => []

/-- The command ring an instruction is a command of (R245). -/
inductive Ring where
  | matrix | copy
  deriving DecidableEq, Repr

/-- The ring of an engine command; none for words and events. -/
def Instr.ring : Instr → Option Ring
  | .mnop _ | .mma _ _ _ _ _ _ _ _ _ | .mzr _ _ _ _ | .mld _ _ _ _ _ _ | .mdr _ _ _ _ _ _ _ _ | .mcfgRedundant _ _
  | .mcfgLoadFormat _ _ _ => some .matrix
  | .cnop _ | .cpy _ _ _ _ _ _ _ | .cpyd _ _ _ _ _ | .gath _ _ _ _ _ _ _ | .scat _ _ _ _ _ _ _ | .fill _ _ _ _ _
  | .redc _ _ _ _ _ _ _ _ _ | .bartx _ _ _ _ => some .copy
  | _ => none

/-! ## The host's question -/

/-- The instruction that this decoder reads from the bits `w`, 64-bit words least significant first, laid out in memory
as R2 and R225 store them. Bits above `nbits` are 0. -/
def decodeTableWord (nbits w : Nat) : Option Instr :=
  let v := w % 2 ^ nbits
  match decodeBytes (bytesOfWord (BitVec.ofNat 64 v) ++ bytesOfWord (BitVec.ofNat 64 (v / 2 ^ 64))) with
  | .ok (i, _) => some i
  | .error _ => none

end Sys2Proof
end

