-- ==== Sys2Proof/Config.lean ====
section
/-! DEFINITION. Sys2Proof/Config.lean: the free values, each a constant with no body. Nothing can evaluate one, so
a statement proved of the model holds whatever it is. The log entry that declares each is named beside it. -/

namespace Sys2Proof.Config

/-- The value a unit's cycle count shows at model step `tick` (R280 cyc, R76, R452, R454): the model counts no
clocks (log 6). Units: core c is c, controller n is 1000 + n, the Collie of die d is 1010 + d. -/
opaque clockAt : (unit tick : Nat) → BitVec 64

/-- Which of the eight ways an L1 allocation evicts when its set is full (R54, R55), at choice `tick` (log 9). -/
opaque l1Victim : Nat → Nat

/-- The L1's set of a line (R54, "physically indexed"), before reduction modulo the number of sets (log 9). -/
opaque l1Index : Nat → Nat

/-- Which line of a full slice the Deck evicts (R61), at choice `tick` (log 9). -/
opaque deckVictim : Nat → Nat

/-- The three hashes of the second-touch filter (R63): hash `k` of line or block address `a` (log 9). -/
opaque filterHash : (k a : Nat) → Nat

/-- Which cached metadata word a full metadata cache writes back (R69), at choice `tick` (log 9). -/
opaque metaVictim : Nat → Nat

/-- The number of sectors minus 1 that the lossless encoding of a block's 2 KiB takes (R67), 0 to 7 (log 10). -/
opaque sectors : List Byte → BitVec 3

/-- Whether a fetch of a word that the instruction cache holds with an older value takes the older value (R199), at
choice `tick` (log 11). -/
opaque fetchOld : Nat → Bool

/-- The count that counter i of a core, number 16 c + i, shows at step `tick` when it selects an event of time (R451)
(log 5). -/
opaque pmcAt : (counter tick : Nat) → BitVec 64

/-- Whether a copy of a CTAB entry under update has already taken the new value (R135), at choice `tick` (log 28). -/
opaque ctabNew : Nat → Bool

/-- Whether vpack to K4 under .sr escapes an even element whose magnitude m × 2^e lies between 7 and 8 (R348)
(log 29). -/
opaque k4Escape : (m : Nat) → (e : Int) → Bool

/-- What an active lane of a vld or vldx takes when VSTART has it passed over, so that its bytes are not read (R298,
R299), or the old value that such a lane of a vamo gives to a queue (R128), at step `tick` (log 41). -/
opaque skippedLane : (tick lane : Nat) → BitVec 32

/-- SLH-DSA-SHAKE-256s verification of a signature over a message with a public key (R458, R463) (log 13). -/
opaque slhVerify : (key msg sig : List Byte) → Bool

/-- The identity key's signature over a message (R459) (log 13). -/
opaque slhSign : (msg : List Byte) → List Byte

/-- The 64-byte public part of the identity key pair (R458, R459) (log 13). -/
opaque identityKey : List Byte

/-- The vendor's 64-byte public key whose hash the boot ROM holds (R458) (log 13). -/
opaque vendorKey : List Byte

/-- SHAKE-256 to 64 bytes (R458, R463) (log 13). -/
opaque shake256 : List Byte → List Byte

/-- Whether training of the HBM PHYs succeeds at boot `n` (R458 step 4) (log 13). -/
opaque trainOk : Nat → Bool

/-- Whether the PUF yields the identity seed with the image's helper data (R458 step 5) (log 13). -/
opaque pufOk : List Byte → Bool

end Sys2Proof.Config
end

