-- ==== Sys2Proof/Machine/State.lean ====
section
/-! DEFINITION. Sys2Proof/Machine/State.lean: the state of the SK1, plain data, and its reset value. A `Tab` is a
sparse table with strictly rising keys; what an unlisted key reads as is said at each use. -/

namespace Sys2Proof.Machine

/-- A table by number. -/
abbrev Tab (α : Type) := List (Nat × α)

/-! ## Registers, queues and accesses in progress -/

/-- A general register's or queue entry's value and taint bit (R90). -/
structure Reg where
  val   : Word
  taint : Bool
  deriving DecidableEq, Repr

/-- A queue entry (R206): filled, or promised to an outstanding load whose place in the queue is fixed (R292). -/
inductive QSlot where
  | full (r : Reg)
  | due (load : Nat)
  deriving DecidableEq, Repr

/-- An entry of a vector queue (R206). -/
inductive VSlot where
  | full (v : VReg)
  | due (load : Nat)
  deriving DecidableEq, Repr

/-- A destination: a general register, a queue, a vector register, a vector queue, or nothing (g0). -/
inductive Dest where
  | none
  | g (n : Nat)
  | q (n : Nat)
  | v (n : Nat)
  | vq (n : Nat)
  deriving DecidableEq, Repr

/-- Where a translated access lands (R294): a DPA of this device or of a peer, and the leaf's attributes (R36). -/
structure Target where
  peer  : Option Nat
  dpa   : Nat
  nc    : Bool
  cv    : Bool
  ver   : Bool
  cmp   : Bool
  alloc : BitVec 2
  deriving DecidableEq, Repr

/-- What a fault record needs of the word that made an access (R443). -/
structure Site where
  pc   : VA
  word : Word
  va   : VA
  deriving DecidableEq, Repr

/-- A part of a load: `n` bytes at a target, whose virtual address is `va`, for place `off` of the result. `fill`: the line
goes to the L1 (R55). `tag`: the peer request that asks for it. `got`: the bytes, once the home slice has answered. -/
structure LoadPart where
  tgt  : Target
  va   : VA
  n    : Nat
  off  : Nat
  fill : Bool
  tag  : Option Nat
  got  : Option (List Byte)
  deriving DecidableEq, Repr

/-- A load that has left the core and whose destination is not yet written (R66, R296, R298, R299). `lanes`: the
active lanes of a vector load; `esz`: bytes per element; `acq`: the lda scope whose acquire follows (R296). -/
structure Load where
  id    : Nat
  dest  : Dest
  esz   : Nat
  sx    : Bool
  taint : Bool
  lanes : Option (BitVec 64)
  acq   : Option Scope
  parts : List LoadPart
  site  : Site
  deriving DecidableEq, Repr

/-- A masked write to one line (R55, R120). -/
structure LineWrite where
  tgt  : Target
  mask : BitVec 128
  data : Line
  deriving DecidableEq, Repr

/-- Where a held store is performed (R294, R297): at the home slice, in the L1, or at a pool's bank. -/
inductive Place where
  | slice | l1 | bank
  deriving DecidableEq, Repr

/-- A write that the core has issued and that is not yet acknowledged (R293). `roles`: whose stores it carries (bit 0
L, 1 C, 2 S). `after`: an stl, held until every write of its role with a smaller number that a release at scope `rel` waits
for has been acknowledged (R86, R297). `thru`: an stl that writes through the L1. `precise`: its role waits for it (R163).
`performed`: its slice has performed it. `refused`: its slice answered SHADOWFULL, with this TVAL (R162). -/
structure Write where
  id        : Nat
  roles     : BitVec 3
  w         : LineWrite
  place     : Place
  after     : Nat
  rel       : Scope
  thru      : Bool
  precise   : Bool
  lane      : Nat
  performed : Bool
  refused   : Option Word
  tag       : Option Nat
  site      : Site
  deriving DecidableEq, Repr

/-- The operation of an atomic (R124, R125, R136). -/
inductive AtomOp where
  | amo (op : SliceOp) (dbl : Bool) (x : Word)
  | cas (e n : Word)
  | casc (e n : Word) (cidx : BitVec 12) (x2 x3 : Word)
  deriving DecidableEq, Repr

/-- The slice's reply to an atomic (R125, R136). -/
inductive AtomReply where
  | old (v : Word) (fl : BitVec 5)
  | busy
  | invalid (k : BitVec 4)
  | shadowFull (tval : Word)
  deriving DecidableEq, Repr

/-- An atomic in flight (R123, R140). `leaf`: where its leaf entry lies and its page size, for the D bit of a cas
that succeeds (R125). `backoff`: clocks until a busy casc resends. -/
structure Atom where
  id    : Nat
  op    : AtomOp
  dest  : Dest
  tgt   : Target
  leaf  : Option Nat
  tag   : Option Nat
  backoff : Nat
  reply : Option AtomReply
  site  : Site
  deriving DecidableEq, Repr

/-- A vamo in flight (R127): lanes still to be performed with their addresses and operands, and results so far. -/
structure VAtom where
  id    : Nat
  op    : SliceOp
  dest  : Dest
  todo  : List (Nat × VA × BitVec 32)
  done  : List (Nat × BitVec 32)
  fl    : BitVec 5
  full  : Option (Nat × Word)
  tag   : Option Nat
  site  : Site
  deriving DecidableEq, Repr

/-- Why a role, standing at its current word, issues nothing until an event of another unit. `stores`: the precise write
it waits for (R163) and the lane to go on from. -/
inductive Block where
  | atomic (a : Atom)
  | vamo (a : VAtom)
  | drain (sys : Bool) (mMark cMark : Option Nat) (wMark : Option Nat)
  | waiting (n : BitVec 17)
  | probe (tag : Nat)
  | stores (cur next : Nat)
  | spawn (tag : Nat)
  | lda (load : Nat)
  deriving DecidableEq, Repr

/-- An access to queue n (0 to 7, 8 and 9 for vq0 and vq1). -/
inductive QKind where
  | pop | peek | push
  deriving DecidableEq, Repr

/-- What a role standing at a word waits for (R221, R224). `other`: an operand on its way, a memory operation, or an
engine. -/
inductive Wait where
  | other
  | queue (l : List (Nat × QKind))
  | tokPop (n : Nat)
  | tokPush (n : Nat)
  | filled (h n : Nat)
  | free (h n : Nat)
  | semGe (i n : Nat)
  | semEq (i n : Nat)
  | slip (n : Nat)
  | barw
  /-- vwait, and the generation it waits for (R191). -/
  | vwait (g : BitVec 48)
  deriving DecidableEq, Repr

/-- One role of a core. `why`: what it waited for at its last turn, if it then waited. `mid`: the stage its current word has
reached (0: none). `relBound`: releases begun by the role have completed once every store numbered below it is performed;
`relDev`, `relSys`: so for releases at device and system scope, which wait for write-backs, and for writes to peers, as well
(R86). `pushDue`: its push-after is still to act (R89). `popDone`: the current word, which still waits, has taken the token of
its pop-before (R89). `atSafe`: it stands just after a safe (R221). `bpPass`: it passes the
breakpoint that it stopped at (R450). `returning`: an eret has ended and the word at TPC has not issued yet (R449). -/
structure Role where
  pc       : VA
  fin      : Bool
  walk     : Word
  safecnt  : BitVec 13
  g        : Tab Reg
  v        : Tab VReg
  p        : Tab Word
  lc       : Tab (BitVec 32)
  flags    : BitVec 5
  vgen     : BitVec 48
  tvec     : Word
  tpc      : VA
  tcause   : BitVec 9
  tval     : Word
  vstart   : BitVec 6
  tstat    : BitVec 16
  loads    : List Load
  block    : Option Block
  mid      : Nat
  relBound : Nat
  relDev   : Nat
  relSys   : Nat
  pushDue  : Bool
  popDone  : Bool
  atSafe   : Bool
  bpPass   : Bool
  returning : Bool
  why      : Option Wait
  deriving DecidableEq, Repr

/-- The slot of a bound register (R52, R215): register `num` of a role, a vector register when `vec`, and the frame of the
register region that holds it; none when it lies in the spill reserve. -/
structure RSlot where
  role  : RoleId
  vec   : Bool
  num   : Nat
  frame : Option Nat
  deriving DecidableEq, Repr

/-! ## The L1, translation caches and engines of a core -/

/-- An L1 line (R55). -/
structure L1Line where
  tgt    : Target
  data   : Line
  valid  : BitVec 128
  dirty  : BitVec 128
  writer : BitVec 3
  deriving DecidableEq, Repr

/-- A cached translation (R35): the leaf found for a page of `psz` bytes under an XID. -/
structure TlbEntry where
  xid  : BitVec 16
  page : Nat
  psz  : Nat
  leaf : Word
  lptr : Nat
  deriving DecidableEq, Repr

/-- An accumulator (R356): tile (element 64 i + j at index 64 i + j; a missing element reads 0), second copy, and
the state word's low 10 bits. -/
structure Acc where
  tile   : List (BitVec 32)
  second : List (BitVec 32)
  word   : BitVec 10
  deriving DecidableEq, Repr

/-- The A buffer (R366). -/
structure ABuf where
  bytes : List Byte
  ty    : BitVec 4
  nosc  : Bool
  deriving DecidableEq, Repr

/-- A matrix command that has left the ring (R362): its word, its placing role (R357), whether its wait byte is
satisfied (R375), its place in ring order, and the A slot that it has read (R362 step 5). -/
structure MCmd where
  word   : Word
  role   : RoleId
  waited : Bool
  sq     : Nat
  loaded : Option (List Byte)
  deriving DecidableEq, Repr

/-- A matrix command whose work is done and that waits to complete in order (R362 step 7). -/
structure MDone where
  word     : Word
  role     : RoleId
  sq       : Nat
  orFlags  : BitVec 5
  mismatch : Option (BitVec 9)
  deriving DecidableEq, Repr

/-- The command of the array stage, with the number of its blocks that are done (R362, R365). -/
structure MRun where
  cmd : MCmd
  blk : Nat
  deriving DecidableEq, Repr

/-- The matrix engine of a core. `array`, `drain`: the commands of these stages. `pend`: a MISMATCH still to be delivered, with the mdr's word (R373). `taken`: ring
words read so far. `owners`: the placing role by ring word number. -/
structure Matrix where
  accs   : Tab Acc
  fmt    : Tab Word
  abuf   : Option ABuf
  red    : Bool
  mdrcnt : BitVec 30
  pend   : Option (BitVec 10 × Word)
  prep   : Option MCmd
  array  : Option MRun
  drain  : Option MCmd
  done   : List MDone
  taken  : Nat
  owners : Tab RoleId
  deriving DecidableEq, Repr

/-- A masked write, or contribution, of a copy job that its row's reads have made ready and that is not yet sent
(R380, R392). `off`: its job-order offset. `blk`: a line of a 2 KiB block that its row covers wholly (R378). -/
structure JobLine where
  w   : LineWrite
  op  : Option Contribution
  off : Nat
  blk : Bool
  deriving DecidableEq, Repr

/-- What a fatal record carries (R443). -/
structure Fatal where
  code   : Nat
  detail : Nat
  va     : Nat
  dpa    : Nat
  pc     : Nat
  unit   : Nat
  cmd    : List Word
  prog   : Word
  aux    : Word
  deriving DecidableEq, Repr

/-- A copy job in flight (R377, R379). `shape`: the words of its shape record. `src`, `dst`: handle slots claimed or read
(handle, slot index, claimed). `row`: rows whose reads are done; `prog`: the job-order offset of the next; `left`: writes
of those rows still to send. `fetched`: bytes that peers have answered for the next row (device, DPA, bytes). `refused`:
the TVAL of a write refused for lack of a shadow, whose stop is still to come (R392). `failed`: a fatal fault that waits for the answers to what the job has
sent, and its PROG so far (R391, R444). `readDone`: its reads are done (R379). `accessed`: every access has been sent. -/
structure CJob where
  id       : Nat
  sq       : Nat
  words    : List Word
  role     : RoleId
  shape    : List Word
  src      : Option (Nat × Nat × Bool)
  dst      : Option (Nat × Nat)
  row      : Nat
  prog     : Nat
  left     : List JobLine
  fetched  : List (Nat × Nat × List Byte)
  refused  : Option Word
  failed   : Option (Fatal × Nat)
  readDone : Bool
  accessed : Bool
  freed    : Bool
  pubd     : Bool
  stopped  : Bool
  flags    : BitVec 5
  deriving DecidableEq, Repr

/-- A copy command in admission (R377, R393). -/
structure CAdm where
  words  : List Word
  role   : RoleId
  waited : Bool
  sq     : Nat
  deriving DecidableEq, Repr

/-- The copy engine of a core. `stopTval`: by role number, the TVAL of a SHADOW_FULL still to be delivered (R392). -/
structure Copy where
  adm      : Option CAdm
  jobs     : List CJob
  taken    : Nat
  owners   : Tab RoleId
  stopTval : Tab Word
  deriving DecidableEq, Repr

/-- The debug window of a core (R448). `step`: roles that issue one word and then halt. -/
structure Dbg where
  brken : Bool
  halt  : BitVec 3
  step  : BitVec 3
  unb   : Bool
  err   : Bool
  why   : BitVec 12
  bp0   : Word
  bp1   : Word
  sel   : BitVec 18
  deriving DecidableEq, Repr

/-- One core: worker core 0 to 959, or system core 960 + die. `slots`: the slots of its bound registers, least recently used
first (R215). `prefs`: lines that a pref asked of a peer, by request (R300). `image`: words of a peer's image that a cfgd has
read so far (R287). -/
structure Core where
  xid      : BitVec 16
  root     : Word
  specdrop : Word
  cretry   : Word
  bnd0     : BitVec 7
  bnd1     : BitVec 7
  bnd2     : BitVec 7
  win      : BitVec 16
  rect     : BitVec 16
  qctl     : BitVec 40
  queues   : Tab (List QSlot)
  vqueues  : Tab (List VSlot)
  tokLC    : Nat
  tokCS    : Nat
  tokSL    : Nat
  hdesc    : Tab Word
  sems     : Tab (BitVec 32)
  roleL    : Role
  roleC    : Role
  roleS    : Role
  task     : Option Nat
  slots    : List RSlot
  l1       : Tab L1Line
  icache   : Tab Word
  image    : Tab Word
  tlb      : List TlbEntry
  writes   : List Write
  prefs    : List (Nat × Target)
  matrix   : Matrix
  copy     : Copy
  pmc      : Tab Word
  pmsel    : Tab Word
  dbg      : Dbg
  halted   : Bool
  wake     : Bool
  ptmcSeq  : Nat
  deriving DecidableEq, Repr

/-! ## Memory side -/

/-- A Deck line (R61): its bytes, whether it is dirty, its generation tag (R176), which of its two codewords are
uncorrectable (R73), and whether it belongs to a compressed block, which is held as a whole (R62). -/
structure DeckLine where
  data  : Line
  dirty : Bool
  tag   : BitVec 8
  ver   : Bool
  bad   : BitVec 2
  cmp   : Bool
  deriving DecidableEq, Repr

/-- A shadow (R150): line, context, level, image, generation tag (R159), the mark number it is newer than, and
which of its two codewords is uncorrectable (R158). -/
structure Shadow where
  line  : Nat
  ctx   : Nat
  lvl   : Nat
  image : Line
  tag   : Option (BitVec 8)
  stamp : Nat
  bad   : BitVec 2
  deriving DecidableEq, Repr

/-- A level marked accepting or rejecting (R156), in issue order. -/
structure SnMark where
  num : Nat
  ctx : Nat
  lvl : Nat
  rej : Bool
  deriving DecidableEq, Repr

/-- An open level (R146). -/
structure SnLevel where
  base : Nat
  len  : Nat
  dpa  : Nat
  ver  : Bool
  deriving DecidableEq, Repr

/-- A snapshot context (R146): its levels, level 1 first; depth is their number. -/
structure SnCtx where
  owner  : BitVec 16
  levels : List SnLevel
  deriving DecidableEq, Repr

/-- What a snapshot instruction that has been checked is still to do: open a level, or end the innermost one (R164, R165). -/
inductive SnAct where
  | opening (ctx : Nat) (level : SnLevel)
  | ending (ctx : Nat) (rej : Bool)
  deriving DecidableEq, Repr

/-- A snapshot instruction whose release has begun (R164, R165): its role, the XID that would own the context, and the number
below which its role's writes are to be acknowledged. `orphan`: its context has been torn down, and it completes alone
(R168, R444). -/
structure SnFlight where
  core   : Nat
  role   : RoleId
  xid    : BitVec 16
  bound  : Nat
  act    : SnAct
  orphan : Bool
  deriving DecidableEq, Repr

/-- A pin-table entry (R40, R301). `owner`: the pool entry of the context; none for the system core. -/
structure Pin where
  die   : Nat
  owner : Option Nat
  base  : VA
  len   : Nat
  mode  : BitVec 2
  deriving DecidableEq, Repr

/-- Who waits for a probe (R40, R42). -/
inductive Prober where
  | role (c : Nat) (r : RoleId)
  | collie (d id : Nat)
  deriving DecidableEq, Repr

/-- An outstanding probe request (R41). `answer`: the kernel's status, once given. -/
structure Probe where
  die    : Nat
  tag    : Nat
  who    : Prober
  answer : Option (BitVec 8)
  deriving DecidableEq, Repr

/-- A continuation launched at a slice (R141, R143): its record `words`, and what a launch-fault record tells. -/
structure Launch where
  cidx  : BitVec 12
  core  : BitVec 10
  role  : BitVec 2
  xid   : BitVec 16
  words : List Word
  old  : Word
  va   : VA
  x2   : Word
  x3   : Word
  dpa  : Nat
  deriving DecidableEq, Repr

/-- A launch entry (R138): reserved for a requester, with the table's entry as its slice read it (R136), then filled. -/
structure LaunchEntry where
  req  : Nat
  tab  : Word × Word
  fill : Option Launch
  deriving DecidableEq, Repr

/-- A home slice's own state: launch queue (R138), admission ring and overflow (R139), filter (R63). -/
structure Slice where
  queue     : List LaunchEntry
  ring      : List Nat
  lastAdm   : Nat
  ovf       : List Nat
  lastMoved : Nat
  fbits     : List Nat
  misses    : Nat
  deriving DecidableEq, Repr

/-- An open round of an ordered group at a line (R131). -/
structure Round where
  group  : Nat
  line   : Nat
  cursor : Nat
  deriving DecidableEq, Repr

/-- How far a reduction contribution has come (R131, R132). -/
inductive ContribSt where
  /-- On its way to its slice. -/
  | sent
  /-- In the slice's early-arrival buffer. -/
  | held
  /-- Refused with a retry status. -/
  | retry
  /-- Answered SHADOWFULL, with the TVAL of R162. -/
  | refused (tval : Word)
  /-- Discarded by DROP: never acknowledged. -/
  | dropped
  deriving DecidableEq, Repr

/-- A contribution not yet acknowledged. `no`: its number among the requests of the part. `off`: its offset in its job's order.
`gn`: the generation a peer's carries (R179). -/
structure Contrib where
  no  : Nat
  x   : Contribution
  off : Nat
  st  : ContribSt
  tgt : Target
  gn  : BitVec 48
  deriving DecidableEq, Repr

/-! ## Keystone, Collie, ports, host -/

/-- A tree message sent, waiting at its port (R187, R436). -/
inductive TreeMsg where
  | vote (port : Nat) (gn : BitVec 48) (flags : BitVec 8) (devid : BitVec 12)
  | decide (port : Nat) (out : TreeOut) (gn next : BitVec 48) (flags : BitVec 8)
  | dack (port : Nat) (next : BitVec 48) (devid : BitVec 12)
  | opened (port : Nat) (next : BitVec 48)
  deriving DecidableEq, Repr

/-- Keystone's state (R182), 00b IDLE, 01b OPEN, 10b VOTED, 11b HELD. -/
inductive KsState where
  | idle | open_ | voted | held
  deriving DecidableEq, Repr

/-- Keystone (R173, R181 to R187). `abw`: the valid entries of the abort window. `repaired`: for each entry, the
controllers whose pass held it (R178). `voteFlags`: the flags of the vote the device formed (R182, R185). `next`: the
NEXT of the last decision. `out`: the tree messages the device has sent, oldest first; `held`: those that wait at a port that
is DOWN (R436). `left`: the step was abandoned by LOCALABORT (R182). -/
structure Keystone where
  cfg        : Word
  state      : KsState
  err        : Bool
  proto      : Bool
  stopreq    : Bool
  miss       : BitVec 4
  dackw      : BitVec 4
  lflags     : BitVec 8
  voteFlags  : BitVec 8
  nflags     : BitVec 8
  votes      : BitVec 12
  late       : BitVec 12
  lastdec    : Word
  geno       : BitVec 48
  genc       : BitVec 48
  abw        : Tab (BitVec 48)
  repaired   : Tab (List Nat)
  timer      : Bool
  childVotes : Tab (BitVec 8)
  owed       : Bool
  next       : BitVec 48
  out        : List TreeMsg
  held       : List TreeMsg
  left       : Bool
  deriving DecidableEq, Repr

/-- Where a task came from (R401, R405). -/
inductive Origin where
  | spawn | host | cont | succ
  deriving DecidableEq, Repr

/-- A task's progress at its Collie. `body`: a LOOPNODE waiting for its pass (R411). `acting`: a retiring task or
node whose remaining list entries wait for room (R404). -/
inductive TaskSt where
  | waiting | ready | held | running | body | acting
  deriving DecidableEq, Repr

/-- A task: record, origin, edges, progress (R396 to R416). `words`: the 16 record words. `expl`: explicit part of
its count; `edges`: predecessors whose footprint edge is unreleased (R409). `parent`: the LOOPNODE pass it belongs
to (R411). `acted`: list entries acted on. `todo`: entries, with their words, still to be acted on. `saved`:
the cores saved at pre-emption (R421). `probes`: footprint regions probed so far. `trips`: TRIPS of a LOOP task. `decided`:
a node that completes once its entries are acted on; in the Kennel, a slot whose record has been cancelled. -/
structure Task where
  id      : Nat
  words   : List Word
  xid     : BitVec 16
  origin  : Origin
  core    : BitVec 10
  role    : BitVec 2
  cw      : VA
  recVa   : VA
  slice   : Nat
  launch  : Option Launch
  gi      : BitVec 16
  pos     : Nat
  expl    : Nat
  edges   : List Nat
  parent  : Option Nat
  st      : TaskSt
  level   : Nat
  readyNo : Nat
  place   : Option (Nat × Nat × Nat)
  seg     : Nat
  trips   : Nat
  acted   : BitVec 64
  todo    : List (Nat × Word)
  decided : Bool
  probes  : Nat
  saved   : Option (Nat × List Core)
  deriving DecidableEq, Repr

/-- A graph instance (R403). -/
structure GraphInst where
  xid     : BitVec 16
  gi      : BitVec 16
  next    : Nat
  failed  : Bool
  credits : Tab Nat
  deriving DecidableEq, Repr

/-- A submission waiting to be taken (R401). -/
structure Submission where
  words  : List Word
  xid    : BitVec 16
  origin : Origin
  core   : BitVec 10
  role   : BitVec 2
  cw     : VA
  recVa  : VA
  wait   : Bool
  from_  : Option (Nat × RoleId)
  deriving DecidableEq, Repr

/-- A pre-emption request in progress (R419, R420). -/
structure PreReq where
  id   : Nat
  save : Nat
  deriving DecidableEq, Repr

/-- A read that Collie makes of a peer's memory for a task (R38): its request, and its answer, if it has come; the answer holds
no bytes where the read failed. -/
structure Remote where
  tag : Nat
  id  : Nat
  dev : Nat
  dpa : Nat
  n   : Nat
  ans : Option (Option (List Byte))
  deriving DecidableEq, Repr

/-- A Collie (R401 to R422). `kennel`: the records of the Kennel ring, oldest first; `knRd`: ring index of the
oldest. `late`: completion words of ended tasks, with their outcomes, that wait at a held line. `orphans`: ended tasks whose
successor list, at a peer, is still to be read for the successors it holds (R417). `reserve`: reservations (task, cluster, X0,
Y0). -/
structure Collie where
  pool    : List Task
  nextId  : Nat
  insts   : List GraphInst
  kennel  : List Task
  knRd    : Nat
  readyNo : Nat
  subs    : List Submission
  late    : List (Task × Nat)
  remote  : List Remote
  orphans : List Task
  reserve : List (Nat × Nat × Nat × Nat)
  pre     : Option PreReq
  deriving DecidableEq, Repr

/-- A part received for a posted record (R432). -/
structure Got where
  tuple : List Nat
  off   : Nat
  bytes : List Byte
  deriving DecidableEq, Repr

/-- A span record posted at a port's walkers (R430). `rank`: its index in its member table. `closed`: inner runs closed.
`walked`: tuples sent. `task`: the context that issued it. `root`: the root entry that the walkers hold for it (R33). `out`: tags
of parts not yet answered. -/
structure Posted where
  k      : Nat
  words  : List Word
  core   : Nat
  task   : Option Nat
  xid    : BitVec 16
  root   : Word
  sem    : Option (BitVec 5)
  rank   : Nat
  member : List Nat
  got    : List Got
  walked : Nat
  closed : Nat
  out    : List Nat
  deriving DecidableEq, Repr

/-- A collective part sent and not yet answered (R432, R433). -/
structure SentPart where
  tag  : Nat
  home : Nat
  k    : Nat
  port : Nat
  dev  : Nat
  part : CollPart
  deriving DecidableEq, Repr

/-- A port's posted records and parked parts (R430, R434), and the translations that its walkers cache (R35). `answers`: parts
it has answered, oldest first. -/
structure Port where
  tlb    : List TlbEntry
  posted : List Posted
  parked : List CollPart
  nextK  : Nat
  answers : List (CollPart × PartStatus)
  deriving DecidableEq, Repr

/-- What a request sent to a peer was for (R427). -/
inductive PeerFor where
  | fetch (c : Nat) (r : RoleId) (key : Nat)
  | load (c : Nat) (r : RoleId) (id part : Nat)
  | write (c id : Nat)
  | atomic (c : Nat) (r : RoleId)
  | job (c id off : Nat)
  | record (sub : Submission)
  /-- A read of a Collie. -/
  | collie (d : Nat)
  /-- A task's completion word. -/
  | word (d : Nat) (t : Task)
  /-- A word of an image that a cfgd reads, and the image's address (R287). -/
  | image (c : Nat) (r : RoleId) (key : Nat) (va : VA)
  /-- A line that a pref brings near. -/
  | pref (c : Nat)
  deriving DecidableEq, Repr

/-- A request to a peer, not yet answered (R38, R424, R427). -/
structure PeerOut where
  tag  : Nat
  port : Nat
  dev  : Nat
  op   : PeerOp
  gn   : BitVec 48
  who  : PeerFor
  deriving DecidableEq, Repr

/-- A page-table write sent (R428). `ports`: those it was sent over, or, at its origin, those it is still to be
acknowledged from (log 35). -/
structure PtmcOut where
  origin : Nat
  sq     : Nat
  dpa    : DPA
  val    : Word
  ports  : List Nat
  deriving DecidableEq, Repr

/-- How the last host request completed (R453, R454). -/
inductive HostDone where
  | none
  | data (bytes : List Byte)
  | written
  | completerAbort
  | unsupported
  | poisoned
  deriving DecidableEq, Repr

/-- A configuration unit (R461, R463): number, kind, instance, register block, active and shadow plane. -/
structure UnitPlane where
  unit    : Nat
  kind    : Nat
  inst    : Nat
  regbase : Nat
  regcnt  : Nat
  active  : List Byte
  shadow  : List Byte
  waiting : Bool
  deriving DecidableEq, Repr

/-- Where a matrix command is (R362). -/
inductive MStage where
  | prepare | array | drain
  deriving DecidableEq, Repr

/-- Which agent moves at a step: a role of a core, the unit an event names, a matrix command, or a copy job (log 3). `alt`: the
other way that the step may go (`State.alt`). -/
inductive Choice where
  | role (c : Nat) (r : RoleId)
  | roleAlt (c : Nat) (r : RoleId)
  | event (i : Instr)
  | matrix (c : Nat) (st : MStage) (alt : Bool)
  | job (c id : Nat)
  /-- A core makes a speculative access at an address (R44). -/
  | speculate (c va : Nat)
  /-- A read of a line meets an error in one of its codewords (R73). -/
  | memError (cv : Bool) (line : Nat) (e : MemErr)
  /-- The host reads 8 bytes of BAR0 (R3, R453). -/
  | bar0Read (off : Nat)
  deriving DecidableEq, Repr

/-! ## The state -/

/-- The state of the part. Fields from `sched` on are the model's own (log 3). `poison`: the uncorrectable codewords of HBM and
of the carve-outs, by DPA ÷ 64 (R73). `mdCache`: the words of the controllers' metadata caches, by `mdKey`, and whether each is
still to be written back (R69). `routes`: V in bit 4, PORT below it (R426). `alt`: the step goes the other of two ways that the
spec allows: a role's stores reach scratch late, and an L1 line may leave between two elements of a store (R79, R299, R363); a
matrix command makes one act alone, and not all it can (R362). -/
structure State where
  cores    : Tab Core
  mem      : List Host.Cell
  poison   : List Nat
  deck     : Tab DeckLine
  mdCache  : Tab (Word × Bool)
  slices   : Tab Slice
  shadows  : List Shadow
  marks    : List SnMark
  markNo   : Nat
  snap     : Tab SnCtx
  snFlight : Option SnFlight
  pins     : List Pin
  probes   : List Probe
  slotTabs : Tab (List (BitVec 16))
  rounds   : List Round
  contribs : List Contrib
  ctab     : Tab (Word × Word)
  ctabBusy : Option (Nat × Word × Word)
  ctabTook : List Nat
  carveOld : Tab (Nat × Nat)
  ks       : Keystone
  regs     : Tab Word
  hostRoot : Word
  hostTlb  : List TlbEntry
  fqBuf    : Tab (List (List Word))
  collies  : Tab Collie
  ports    : Tab Port
  sent     : List SentPart
  routes   : Tab (BitVec 5)
  peerOut  : List PeerOut
  peerIn   : List (Nat × PeerStatus × List Byte)
  ptmcOut  : List PtmcOut
  ptmcFwd  : List PtmcOut
  ptmcLast : Tab Nat
  ptmcAck  : List (Nat × Nat × Nat)
  herr     : Word
  tstamp   : Word
  tscap    : Tab Word
  flashA   : Option (List Byte)
  flashB   : Option (List Byte)
  svnMin   : BitVec 32
  units    : List UnitPlane
  cfgKey   : List Byte
  absent   : List Nat
  identity : Bool
  hostOut  : HostDone
  sched    : List Choice
  cur      : Nat × RoleId
  alt      : Bool
  tick     : Nat
  nextId   : Nat
  deriving DecidableEq, Repr

/-! ## Faults and refusals -/

/-- The faults of a step of the model: not faults of the part, whose traps and fatal errors are next states. No meaning of an
instruction or event raises one: an event that names a unit the part does not have (R7) happens nowhere and changes nothing
(log 18). -/
inductive Fault where
  /-- The list of choices gives the turn to a role that no core has (R7, R17). Raised by step alone. Safe: no role of the part
  issues then. -/
  | noSuchUnit
  deriving DecidableEq, Repr

/-- The refusals of a step of the model. -/
inductive Refusal where
  /-- An instruction that has no meaning in the model yet. Raised by Dispatch's refused arms. Safe. -/
  | notModelled (mnemonic : String)
  deriving DecidableEq, Repr

/-! ## Reset -/

/-- A role after reset: every count and flag 0, nothing bound (R203, R213, R220, R438). -/
def Role.reset : Role where
  pc := 0
  fin := false
  walk := 0
  safecnt := 0
  g := []
  v := []
  p := []
  lc := []
  flags := 0
  vgen := 0
  tvec := 0
  tpc := 0
  tcause := 0
  tval := 0
  vstart := 0
  tstat := 0
  loads := []
  block := none
  mid := 0
  relBound := 0
  relDev := 0
  relSys := 0
  pushDue := false
  popDone := false
  atSafe := false
  bpPass := false
  returning := false
  why := none

/-- The matrix engine after reset (R356, R375). -/
def Matrix.reset : Matrix where
  accs := []
  fmt := []
  abuf := none
  red := false
  mdrcnt := 0
  pend := none
  prep := none
  array := none
  drain := none
  done := []
  taken := 0
  owners := []

/-- The copy engine after reset. -/
def Copy.reset : Copy where
  adm := none
  jobs := []
  taken := 0
  owners := []
  stopTval := []

/-- The debug window after reset (R448). -/
def Dbg.reset : Dbg where
  brken := false
  halt := 0
  step := 0
  unb := false
  err := false
  why := 0
  bp0 := 0
  bp1 := 0
  sel := 0

/-- QCTL's reset value (R206): q0, q1 L to C; q2, q3 C to S; q4 S to L; q5, q6, q7 same-role L, C, S; vq0 L to C;
vq1 same-role S. -/
def qctlReset : BitVec 40 := 0xA4A0592244#40

/-- A core after reset (R27, R44, R50, R138, R203, R205, R206, R209, R212). -/
def Core.reset : Core where
  xid := 0
  root := 0
  specdrop := 0
  cretry := 0
  bnd0 := 0x08
  bnd1 := 0x40
  bnd2 := 0x50
  win := 0x0400
  rect := 0
  qctl := qctlReset
  queues := []
  vqueues := []
  tokLC := 0
  tokCS := 0
  tokSL := 0
  hdesc := []
  sems := []
  roleL := Role.reset
  roleC := Role.reset
  roleS := Role.reset
  task := none
  slots := []
  l1 := []
  icache := []
  image := []
  tlb := []
  writes := []
  prefs := []
  matrix := Matrix.reset
  copy := Copy.reset
  pmc := []
  pmsel := []
  dbg := Dbg.reset
  halted := false
  wake := false
  ptmcSeq := 0

/-- A slice after reset (R63, R138, R139). -/
def Slice.reset : Slice where
  queue := []
  ring := []
  lastAdm := 0
  ovf := []
  lastMoved := 0
  fbits := []
  misses := 0

/-- Keystone after reset (R173, R181 to R183). -/
def Keystone.reset : Keystone where
  cfg := 0
  state := .idle
  err := false
  proto := false
  stopreq := false
  miss := 0
  dackw := 0
  lflags := 0
  voteFlags := 0
  nflags := 0
  votes := 0
  late := 0
  lastdec := 0
  geno := 0
  genc := 0
  abw := []
  repaired := []
  timer := false
  childVotes := []
  owed := false
  next := 0
  out := []
  held := []
  left := false

/-- A Collie after reset. -/
def Collie.reset : Collie where
  pool := []
  nextId := 0
  insts := []
  kennel := []
  knRd := 0
  readyNo := 0
  subs := []
  late := []
  remote := []
  orphans := []
  reserve := []
  pre := none

/-- A port after reset. -/
def Port.reset : Port where
  tlb := []
  posted := []
  parked := []
  nextK := 0
  answers := []

/-- The part right after a cold reset: every field at the value its rule states, or the value of a log entry. -/
def State.reset : State where
  cores := []
  mem := []
  poison := []
  deck := []
  mdCache := []
  slices := []
  shadows := []
  marks := []
  markNo := 0
  snap := []
  snFlight := none
  pins := []
  probes := []
  slotTabs := []
  rounds := []
  contribs := []
  ctab := []
  ctabBusy := none
  ctabTook := []
  carveOld := []
  ks := Keystone.reset
  regs := []
  hostRoot := 0
  hostTlb := []
  fqBuf := []
  collies := []
  ports := []
  sent := []
  routes := []
  peerOut := []
  peerIn := []
  ptmcOut := []
  ptmcFwd := []
  ptmcLast := []
  ptmcAck := []
  herr := 0
  tstamp := 0
  tscap := []
  flashA := none
  flashB := none
  svnMin := 0
  units := []
  cfgKey := []
  absent := []
  identity := false
  hostOut := .none
  sched := []
  cur := (960, .C)
  alt := false
  tick := 0
  nextId := 1

end Sys2Proof.Machine
end

