-- ==== Sys2Proof/Machine/Bits.lean ====
section
/-! DEFINITION. Sys2Proof/Machine/Bits.lean: tables by number, bit fields, and little-endian byte strings (R2). -/

namespace Sys2Proof.Machine

/-! ## Tables -/

/-- The entry of a table under a key. -/
def tabGet {α : Type} : Tab α → Nat → Option α
  | [], _ => none
  | (k, a) :: t, n => if k = n then some a else if n < k then none else tabGet t n

/-- Set an entry; keys stay strictly rising. -/
def tabSet {α : Type} : Tab α → Nat → α → Tab α
  | [], n, a => [(n, a)]
  | (k, b) :: t, n, a =>
    if n < k then (n, a) :: (k, b) :: t
    else if k = n then (n, a) :: t
    else (k, b) :: tabSet t n a

/-- Remove an entry. -/
def tabDel {α : Type} (t : Tab α) (n : Nat) : Tab α := t.filter fun e => e.1 != n

/-- An entry, or the value an unlisted key reads as. -/
def tabD {α : Type} (t : Tab α) (n : Nat) (d : α) : α := (tabGet t n).getD d

/-- Keys strictly rising. -/
def tabSorted {α : Type} : Tab α → Bool
  | [] => true
  | [_] => true
  | (k, _) :: (l, b) :: t => decide (k < l) && tabSorted ((l, b) :: t)

/-! ## Bit fields -/

/-- Bits [hi:lo] of a vector, as a number. -/
def bits {n : Nat} (w : BitVec n) (hi lo : Nat) : Nat := (w.toNat >>> lo) % 2 ^ (hi + 1 - lo)

/-- Bit i of a vector. -/
def bit {n : Nat} (w : BitVec n) (i : Nat) : Bool := w.getLsbD i

/-- A word with bits [hi:lo] replaced. -/
def putBits (w : Word) (hi lo v : Nat) : Word :=
  let m : Word := BitVec.ofNat 64 ((2 ^ (hi + 1 - lo) - 1) <<< lo)
  (w &&& ~~~m) ||| (BitVec.ofNat 64 (v <<< lo) &&& m)

/-- A word with bit i set as given. -/
def putBit (w : Word) (i : Nat) (b : Bool) : Word := putBits w i i b.toNat

/-- A word built of (low bit position, value) fields, which the caller keeps within their widths. -/
def ofFields : List (Nat × Nat) → Word
  | [] => 0
  | (lo, v) :: r => BitVec.ofNat 64 (v <<< lo) ||| ofFields r

/-- Add to a counter that stops at its greatest value. -/
def satAdd (top n k : Nat) : Nat := min top (n + k)

/-! ## Bytes -/

/-- The number that bytes spell, the first least significant (R2). -/
def leNat : List Byte → Nat
  | [] => 0
  | b :: r => b.toNat + 256 * leNat r

/-- The n bytes of a number, least significant first. -/
def leBytes : (n v : Nat) → List Byte
  | 0, _ => []
  | n + 1, v => BitVec.ofNat 8 v :: leBytes n (v / 256)

/-- The 8 bytes of a word. -/
def wordBytes (w : Word) : List Byte := leBytes 8 w.toNat

/-- The words that a byte string spells, 8 bytes each. -/
def wordsOf : (n : Nat) → List Byte → List Word
  | 0, _ => []
  | n + 1, bs => BitVec.ofNat 64 (leNat (bs.take 8)) :: wordsOf n (bs.drop 8)

/-- The bytes of words, in order. -/
def wordsBytes : List Word → List Byte
  | [] => []
  | w :: r => wordBytes w ++ wordsBytes r

/-- Byte i of a line. -/
def lineByte (l : Line) (i : Nat) : Byte := l.extractLsb' (8 * i) 8

/-- The 128 bytes of a line. -/
def lineBytes (l : Line) : List Byte := leBytes 128 l.toNat

/-- The line that 128 bytes spell. -/
def bytesLine (bs : List Byte) : Line := BitVec.ofNat 1024 (leNat bs)

/-- The bytes of `new` where the mask is set, else those of `old`, from byte number `i` on. -/
def mergeBytes (mask : BitVec 128) : Nat → List Byte → List Byte → List Byte
  | i, o :: os, n :: ns => (if mask.getLsbD i then n else o) :: mergeBytes mask (i + 1) os ns
  | _, _, _ => []

/-- A line with the masked bytes replaced. -/
def mergeLine (mask : BitVec 128) (old new : Line) : Line :=
  bytesLine (mergeBytes mask 0 (lineBytes old) (lineBytes new))

/-- The mask of n bytes from byte `off` on. -/
def byteMask (off n : Nat) : BitVec 128 := BitVec.ofNat 128 ((2 ^ n - 1) <<< off)

/-- A line that holds the given bytes from byte `off` on, and 0 elsewhere. -/
def bytesAt (off : Nat) (bs : List Byte) : Line := BitVec.ofNat 1024 (leNat bs <<< (8 * off))

/-- n bytes of a line from byte `off` on. -/
def bytesFrom (l : Line) (off n : Nat) : List Byte := (lineBytes l).drop off |>.take n

/-- A run of n bytes at address a, cut at line boundaries: (address, length) pairs in rising order. `fuel` bounds the
number of pieces. -/
def cutLines : (fuel a n : Nat) → List (Nat × Nat)
  | 0, _, _ => []
  | fuel + 1, a, n =>
    if n = 0 then []
    else
      let k := min n (128 - a % 128)
      (a, k) :: cutLines fuel (a + k) (n - k)

/-- A run of n bytes at address a, cut at lines. -/
def linesOf (a n : Nat) : List (Nat × Nat) := cutLines (n / 128 + 2) a n

/-- Replace the element of a list at a position. -/
def setAt {α : Type} : List α → Nat → α → List α
  | [], _, _ => []
  | _ :: t, 0, a => a :: t
  | b :: t, n + 1, a => b :: setAt t n a

end Sys2Proof.Machine
end

