-- ==== Sys2Proof/Machine/Memory.lean ====
section
/-! DEFINITION. Sys2Proof/Machine/Memory.lean: memory as a list of cells in one canonical form. Keys below 2^44 are
device physical addresses (R31); pool byte b of core c (R49) has the key `poolBase c + b`. -/

namespace Sys2Proof.Machine

/-- What a byte that nothing has written reads as (log 1). -/
def unlisted : Byte := 0

/-- The key of pool byte 0 of a core. -/
def poolBase (c : Nat) : Nat := 2 ^ 44 + c * 2 ^ 21

/-- Read one byte. -/
def memRead : List Host.Cell → Nat → Byte
  | [], _ => unlisted
  | (k, b) :: t, a => if k = a then b else if a < k then unlisted else memRead t a

/-- Write one byte. -/
def memWrite : List Host.Cell → Nat → Byte → List Host.Cell
  | [], a, b => if b = unlisted then [] else [(a, b)]
  | (k, c) :: t, a, b =>
    if a < k then (if b = unlisted then (k, c) :: t else (a, b) :: (k, c) :: t)
    else if k = a then (if b = unlisted then t else (a, b) :: t)
    else (k, c) :: memWrite t a b

/-- The canonical form: addresses strictly rising, no entry equal to what an unlisted address reads as. -/
def Memory.wf : List Host.Cell → Bool
  | [] => true
  | [(_, b)] => b != unlisted
  | (k, b) :: (l, c) :: t => b != unlisted && decide (k < l) && Memory.wf ((l, c) :: t)

/-- Read n bytes. -/
def readBytes (m : List Host.Cell) : (a n : Nat) → List Byte
  | _, 0 => []
  | a, n + 1 => memRead m a :: readBytes m (a + 1) n

/-- Write a byte string. -/
def writeBytes : List Host.Cell → Nat → List Byte → List Host.Cell
  | m, _, [] => m
  | m, a, b :: r => writeBytes (memWrite m a b) (a + 1) r

/-- Write the bytes whose mask bit is set, from mask bit `i` on. -/
def writeMasked (mask : BitVec 128) : List Host.Cell → Nat → Nat → List Byte → List Host.Cell
  | m, _, _, [] => m
  | m, a, i, b :: r => writeMasked mask (if mask.getLsbD i then memWrite m a b else m) (a + 1) (i + 1) r

end Sys2Proof.Machine
end

