-- ==== Sys2Proof/Machine/Regs.lean ====
section
/-! DEFINITION. Sys2Proof/Machine/Regs.lean: the device system registers by number (R280): the access code and place of
every field, the reset values, and reads and writes by access code (R3, R4). Keystone's registers 0x104 to 0x113 live
in State.ks. -/

namespace Sys2Proof.Machine

/-- The access codes of R3. -/
inductive Access where
  | ro | rw | w1c | wo | rs
  deriving DecidableEq, Repr

/-- A field: high bit, low bit, access. -/
abbrev Field := Nat × Nat × Access

/-! Register numbers (R280 and the tables that number the rest). -/

abbrev rDevid : Nat := 0x100
abbrev rXroot : Nat := 0x101
abbrev rHxid : Nat := 0x102
abbrev rSspbase : Nat := 0x103
abbrev rCtabd0 : Nat := 0x118
abbrev rCtabd1 : Nat := 0x119
abbrev rCtabcmd : Nat := 0x11A
abbrev rCarve (d : Nat) : Nat := 0x120 + d
abbrev rShlim (d : Nat) : Nat := 0x124 + d
abbrev rShstat (d : Nat) : Nat := 0x128 + d
abbrev rMdbase (n : Nat) : Nat := 0x130 + n
abbrev rMdreg (n : Nat) : Nat := 0x138 + n
abbrev rScrubctl (n : Nat) : Nat := 0x140 + n
abbrev rEhbase (n : Nat) : Nat := 0x148 + n
abbrev rEhptr (n : Nat) : Nat := 0x150 + n
abbrev rProbeack (d : Nat) : Nat := 0x158 + d
abbrev rRgrp (n : Nat) : Nat := 0x200 + n
abbrev rClcfg (d : Nat) : Nat := 0x400 + d
abbrev rClstat (d : Nat) : Nat := 0x404 + d
abbrev rKnbase (d : Nat) : Nat := 0x408 + d
abbrev rKnstat (d : Nat) : Nat := 0x40C + d
abbrev rClpre (d : Nat) : Nat := 0x410 + d
abbrev rLstat (d : Nat) : Nat := 0x414 + d
abbrev rPortcfg (p : Nat) : Nat := 0x420 + p
abbrev rPortstat (p : Nat) : Nat := 0x430 + p
abbrev rRtcmd : Nat := 0x440
abbrev rMcastcfg : Nat := 0x441
abbrev rFqbase (d : Nat) : Nat := 0x450 + d
abbrev rFqptr (d : Nat) : Nat := 0x454 + d
abbrev rTvdef (d : Nat) : Nat := 0x458 + d
abbrev rTrbase (d : Nat) : Nat := 0x460 + d
abbrev rTrptr (d : Nat) : Nat := 0x464 + d
abbrev rAttctl : Nat := 0x46A
abbrev rRstctl : Nat := 0x470
abbrev rBootstat : Nat := 0x471
abbrev rCfgsw : Nat := 0x472
abbrev rBgcfg : Nat := 0x473
abbrev rDoorbell (d : Nat) : Nat := 0x474 + d
abbrev rMeas (k : Nat) : Nat := 0x478 + k
abbrev rPwrctl (i : Nat) : Nat := 0x480 + i
abbrev rTele (i : Nat) : Nat := 0x490 + i
abbrev rThermctl : Nat := 0x4A0

/-- n lies in the k numbers from lo on. -/
def inBlock (n lo k : Nat) : Bool := decide (lo ≤ n ∧ n < lo + k)

/-- The fields of a device register (chapters 03 to 20), none for a number that names no device register. Fields whose
value is composed at the read are RO here. -/
def regFields (n : Nat) : Option (List Field) :=
  if n = rDevid then some [(11, 0, .rw)]
  else if n = rXroot then some [(43, 19, .rw)]
  else if n = rHxid then some [(15, 0, .rw)]
  else if n = rSspbase then some [(43, 12, .rw), (0, 0, .rw)]
  else if n = rCtabd0 ∨ n = rCtabd1 then some [(63, 0, .rw)]
  else if n = rCtabcmd then some [(63, 62, .wo), (61, 60, .ro), (11, 0, .rw)]
  else if inBlock n 0x120 4 then some [(63, 62, .ro), (13, 8, .rw), (5, 0, .rw)]
  else if inBlock n 0x124 4 then some [(15, 0, .rw)]
  else if inBlock n 0x128 4 then some [(63, 63, .w1c), (47, 32, .rs), (31, 16, .ro)]
  else if inBlock n 0x130 8 then some [(43, 29, .rw), (0, 0, .rw)]
  else if inBlock n 0x138 8 then some [(63, 62, .wo), (61, 60, .ro), (59, 58, .wo), (36, 16, .wo)]
  else if inBlock n 0x140 8 then some [(63, 63, .rw), (47, 32, .ro), (7, 0, .rw)]
  else if inBlock n 0x148 8 then some [(43, 15, .rw), (0, 0, .rw)]
  else if inBlock n 0x150 8 then some [(63, 48, .rs), (41, 32, .ro), (9, 0, .rw)]
  else if inBlock n 0x158 4 then some [(63, 56, .wo), (15, 0, .wo)]
  else if inBlock n 0x201 255 then
    some [(63, 63, .rw), (62, 61, .ro), (60, 60, .wo), (59, 54, .rw), (53, 50, .w1c), (43, 7, .rw)]
  else if inBlock n 0x400 4 then some [(31, 16, .rw), (9, 0, .rw)]
  else if inBlock n 0x404 4 then some [(63, 63, .w1c), (47, 32, .rs), (28, 20, .ro), (10, 0, .ro)]
  else if inBlock n 0x408 4 then some [(63, 63, .rw), (43, 12, .rw), (4, 0, .rw)]
  else if inBlock n 0x40C 4 then some [(52, 32, .ro), (20, 0, .rs)]
  else if inBlock n 0x410 4 then some [(63, 62, .wo), (61, 58, .ro), (57, 49, .wo), (43, 21, .wo)]
  else if inBlock n 0x414 4 then some [(63, 48, .rs), (7, 0, .ro)]
  else if inBlock n 0x420 12 then some [(63, 63, .rw), (57, 56, .rw)]
  else if inBlock n 0x430 12 then
    some [(63, 62, .ro), (61, 54, .ro), (53, 48, .rs), (47, 32, .rs), (31, 24, .ro), (23, 16, .rs), (15, 0, .ro)]
  else if n = rRtcmd then some [(63, 62, .wo), (61, 61, .ro), (27, 16, .rw), (4, 0, .rw)]
  else if n = rMcastcfg then some [(11, 0, .rw)]
  else if inBlock n 0x450 4 then some [(63, 63, .rw), (43, 12, .rw), (4, 0, .rw)]
  else if inBlock n 0x454 4 then some [(63, 48, .rs), (47, 32, .rs), (31, 16, .ro), (15, 0, .rw)]
  else if inBlock n 0x458 4 then some [(56, 3, .rw), (0, 0, .rw)]
  else if inBlock n 0x460 4 then some [(63, 63, .rw), (43, 12, .rw), (4, 0, .rw)]
  else if inBlock n 0x464 4 then some [(63, 48, .rs), (31, 16, .ro), (15, 0, .rw)]
  else if n = rAttctl then some [(63, 63, .wo), (62, 62, .ro), (43, 15, .rw)]
  else if n = rRstctl then some [(63, 61, .wo), (60, 60, .ro), (59, 59, .w1c), (13, 3, .wo)]
  else if n = rBootstat then some [(63, 46, .ro)]
  else if n = rCfgsw then some [(63, 63, .wo), (62, 62, .ro)]
  else if n = rBgcfg then some [(47, 0, .rw)]
  else if inBlock n 0x474 4 then some [(63, 0, .rs)]
  else if inBlock n 0x478 8 then some [(63, 0, .ro)]
  else if inBlock n 0x480 16 then some [(63, 63, .ro), (62, 62, .w1c), (3, 0, .rw)]
  else if inBlock n 0x490 16 then some [(63, 32, .ro), (15, 0, .ro)]
  else if n = rThermctl then some [(63, 63, .ro), (62, 62, .w1c), (61, 58, .ro), (23, 16, .rw), (15, 8, .ro)]
  else none

/-- Keystone's registers (R173, R181 to R183). -/
def isKsReg (n : Nat) : Bool :=
  n == 0x104 || n == 0x105 || inBlock n 0x108 8 || inBlock n 0x110 4

/-- A number that names a device register (R280). -/
def isDeviceReg (n : Nat) : Bool := isKsReg n || (regFields n).isSome

/-- A number that names a register (R280); every other raises ILLEGAL. -/
def isRegister (n : Nat) : Bool :=
  inBlock n 0 9 || inBlock n 0x20 6 || inBlock n 0x40 8 || inBlock n 0x60 0x40 || isDeviceReg n

/-- Registers that user mode reads (R280). -/
def userReadable (n : Nat) : Bool :=
  inBlock n 0 9 || inBlock n 0x40 8 || inBlock n 0x60 0x40 || n == rDevid

/-- Registers that user mode writes (R280): flags and lc0 to lc3. -/
def userWritable (n : Nat) : Bool := n == 0 || inBlock n 4 4

/-- The reset value of a device register: 0 but where its table says otherwise; the "—" fields read 0 (log 2). -/
def regReset (n : Nat) : Word :=
  if inBlock n 0x140 8 then ofFields [(63, 1), (0, 24)]
  else if inBlock n 0x400 4 then ofFields [(0, 960)]
  else if inBlock n 0x420 12 then ofFields [(56, 3)]
  else if n = rBgcfg then ofFields [(40, 4), (32, 8), (24, 16), (16, 2), (8, 2), (0, 1)]
  else if inBlock n 0x480 16 then ofFields [(0, 8)]
  else if n = rThermctl then ofFields [(16, 100), (8, 115)]
  else 0

/-- The stored value of a device register. -/
def reg (s : State) (n : Nat) : Word := tabD s.regs n (regReset n)

/-- Set the stored value of a device register. -/
def setReg (s : State) (n : Nat) (w : Word) : State := { s with regs := tabSet s.regs n w }

/-- Advance the counter of free values (log 6). -/
def nextTick (s : State) : State := { s with tick := s.tick + 1 }

/-- Replace bits [hi:lo] of a device register. -/
def putReg (s : State) (n hi lo v : Nat) : State := setReg s n (putBits (reg s n) hi lo v)

/-- The bits of a register that some field of the given access covers. -/
def accessMask (fs : List Field) (a : Access) : Word :=
  fs.foldl (fun m f => if f.2.2 = a then putBits m f.1 f.2.1 (2 ^ (f.1 + 1 - f.2.1) - 1) else m) 0

/-- A write by access code (R3): RW fields take the bits, W1C fields lose the written 1s, every other bit stays. -/
def writeFields (fs : List Field) (old x : Word) : Word :=
  let rw := accessMask fs .rw
  let w1c := accessMask fs .w1c
  (((old &&& ~~~rw) ||| (x &&& rw)) &&& ~~~(x &&& w1c))

/-- A write to a device register that has no behaviour beyond its access codes. -/
def writeReg (s : State) (n : Nat) (x : Word) : State :=
  match regFields n with
  | none => s
  | some fs => setReg s n (writeFields fs (reg s n) x)

/-- Add to a counter field of a register that stops at all ones. -/
def countReg (s : State) (n hi lo k : Nat) : State :=
  putReg s n hi lo (satAdd (2 ^ (hi + 1 - lo) - 1) (bits (reg s n) hi lo) k)

end Sys2Proof.Machine
end

