-- ==== Sys2Proof/Machine/Slice.lean ====
section
/-! DEFINITION. Sys2Proof/Machine/Slice.lean: home slices as the serial point of memory (R120, R121): placement (R59,
R60), the Deck (R61 to R63), metadata words (R68, R69), the fault and error records (R75, R76, R445), snapshots
(R149 to R156), VER blocks (R171 to R176), and the read and the write of one line. -/

namespace Sys2Proof.Machine

/-! ## Placement -/

/-- The home die of a DPA (R59). -/
def homeDie (dpa : Nat) : Nat := if dpa < 2 ^ 40 then (dpa >>> 37) % 4 else (dpa - 2 ^ 40) / 2 ^ 30 % 4

/-- The controller of an HBM address (R59). -/
def ctrlOf (dpa : Nat) : Nat := (dpa >>> 36) % 8

/-- The device slice number of a DPA's home slice (R8, R59). -/
def homeSlice (dpa : Nat) : Nat :=
  let h := fun (lo : Nat) => (dpa >>> lo) % 64
  if dpa < 2 ^ 40 then 64 * homeDie dpa + (h 11 ^^^ h 17 ^^^ h 23 ^^^ h 29)
  else
    let b := (dpa - 2 ^ 40) % 2 ^ 30
    let g := fun (lo : Nat) => (b >>> lo) % 64
    64 * homeDie dpa + (g 11 ^^^ g 17 ^^^ (b >>> 23) % 64)

/-- Directly addressed carve-out bytes of Deck d: 8 MiB × SIZE, and while BUSY the smaller of old and new (R64, R65). -/
def carveLimit (s : State) (d : Nat) : Nat :=
  let new := bits (reg s (rCarve d)) 5 0
  let old := if bit (reg s (rCarve d)) 63 then (tabD s.carveOld d (new, 0)).1 else new
  2 ^ 23 * min old new

/-- A DPA with memory behind it: the HBM that R10 counts, and the granules carved out of the Decks (R31). -/
def hasMem (s : State) (dpa : Nat) : Bool :=
  decide (dpa < 2 ^ 40) ||
    (decide (2 ^ 40 ≤ dpa ∧ dpa < 2 ^ 40 + 4 * 2 ^ 30) &&
      decide ((dpa - 2 ^ 40) % 2 ^ 30 < carveLimit s (homeDie dpa)))

/-! ## Generations and flags -/

/-- Keystone is IDLE. -/
def ksIdle (s : State) : Bool := s.ks.state == .idle

/-- The generation a peer access carries, and the one expected of it (R175, R179). -/
def curGen (s : State) : BitVec 48 := if ksIdle s then 0 else s.ks.geno

/-- A valid abort-window entry holds generation t (R173). -/
def abwHas (s : State) (t : Nat) : Bool := s.ks.abw.any fun e => e.2.toNat == t

/-- A valid abort-window entry has these low 8 bits (R159, R176). -/
def abwLow (s : State) (t : BitVec 8) : Bool := s.ks.abw.any fun e => e.2.toNat % 256 == t.toNat

/-- Raise step flags (R186): into LFLAGS in OPEN and HELD, into NFLAGS in VOTED, dropped in IDLE. -/
def raiseFlags (s : State) (f : BitVec 8) : State :=
  match s.ks.state with
  | .idle => s
  | .voted => { s with ks := { s.ks with nflags := s.ks.nflags ||| f } }
  | _ => { s with ks := { s.ks with lflags := s.ks.lflags ||| f } }

/-! ## The Deck (R61 to R63) -/

/-- The allocation choices of R62. -/
inductive Policy where
  | second | always | never
  deriving DecidableEq, Repr

/-- A leaf's ALLOC as a policy. -/
def policyOf (t : Target) : Policy :=
  match t.alloc.toNat with
  | 1 => .always
  | 2 => .never
  | _ => .second

/-- A slice's own state. -/
def slice (s : State) (n : Nat) : Slice := tabD s.slices n Slice.reset

def setSlice (s : State) (n : Nat) (x : Slice) : State := { s with slices := tabSet s.slices n x }

/-- The bytes of an HBM or carve-out line as memory holds them, without the Deck. -/
def hbmLine (s : State) (line : Nat) : Line := bytesLine (readBytes s.mem (128 * line) 128)

/-- Write a whole line to memory. -/
def putHbm (s : State) (line : Nat) (l : Line) : State :=
  { s with mem := writeBytes s.mem (128 * line) (lineBytes l) }

/-- The current bytes of a physical line: the Deck's when it holds the line. Carve-out bytes are Deck storage. -/
def rawLine (s : State) (line : Nat) : Line :=
  match tabGet s.deck line with
  | some d => d.data
  | none => hbmLine s line

/-- Lines a slice can cache: 12 MiB (R10) less 128 KiB per carved granule (R64). -/
def deckCap (s : State) (sl : Nat) : Nat :=
  let r := reg s (rCarve (sl / 64))
  98304 - 1024 * (bits r 13 8 + bits r 5 0)

/-- Cached lines of a slice. -/
def deckUse (s : State) (sl : Nat) : List Nat := (s.deck.filter fun e => homeSlice (128 * e.1) == sl).map (·.1)

/-- The 2 KiB of the block that holds a physical line. -/
def physBlock (s : State) (line : Nat) : List Byte :=
  (List.range 16).flatMap fun i => lineBytes (rawLine s (line / 16 * 16 + i))

/-- Lines of a slice's cache in use: a compressed block takes two for each of its sectors (R62). -/
def deckFill (s : State) (sl : Nat) : Nat :=
  let mine := s.deck.filter fun e => homeSlice (128 * e.1) == sl
  let blocks := (mine.filter fun e => e.2.cmp).foldl (fun l e => if l.contains (e.1 / 16) then l else e.1 / 16 :: l) []
  blocks.foldl (fun n b => n + 2 * ((Config.sectors (physBlock s (16 * b))).toNat + 1)) (mine.filter fun e => !e.2.cmp).length

/-- The two codewords of a line, as flags. -/
def twoFlags (a b : Bool) : BitVec 2 := BitVec.ofNat 2 (a.toNat + 2 * b.toNat)

/-- The uncorrectable codewords of a line (R73): of its Deck line, or of memory when the Deck does not hold it. -/
def lineBad (s : State) (line : Nat) : BitVec 2 :=
  match tabGet s.deck line with
  | some d => d.bad
  | none => twoFlags (s.poison.contains (2 * line)) (s.poison.contains (2 * line + 1))

/-- Set which codewords of a line of memory are uncorrectable. -/
def setPoison (s : State) (line : Nat) (bad : BitVec 2) : State :=
  { s with poison := (s.poison.filter fun w => w / 2 != line) ++
      ((if bit bad 0 then [2 * line] else []) ++ (if bit bad 1 then [2 * line + 1] else [])) }

/-- Set which codewords of a line are uncorrectable, where it is held. -/
def setBad (s : State) (line : Nat) (bad : BitVec 2) : State :=
  match tabGet s.deck line with
  | some d => { s with deck := tabSet s.deck line { d with bad := bad } }
  | none => setPoison s line bad

/-- The codewords that a masked write covers whole. -/
def wholeWords (mask : BitVec 128) : BitVec 2 :=
  twoFlags (bits mask 63 0 == 2 ^ 64 - 1) (bits mask 127 64 == 2 ^ 64 - 1)

/-- Drop one line from the Deck without write-back. -/
def deckDropLine (s : State) (line : Nat) : State := { s with deck := tabDel s.deck line }

/-- The bit a hash sets in a slice's filter (R63). -/
def filterBit (k a : Nat) : Nat := Config.filterHash k a % 65536

/-- A second-touch miss on line or block address a (R63): true when all three bits were set. -/
def touch (s : State) (sl a : Nat) : State × Bool :=
  let x := slice s sl
  let bs := [filterBit 0 a, filterBit 1 a, filterBit 2 a]
  let hit := bs.all fun b => x.fbits.contains b
  let fb := if hit then x.fbits else bs.foldl (fun l b => if l.contains b then l else b :: l) x.fbits
  if x.misses + 1 = 2 ^ 20 then (setSlice s sl { x with fbits := [], misses := 0 }, hit)
  else (setSlice s sl { x with fbits := fb, misses := x.misses + 1 }, hit)

/-- Whether a miss on a line allocates (R62, R63). Carve-out lines are no cache lines. `key` is the line, or the block
of a CMP page. -/
def allocates (s : State) (p : Policy) (line key : Nat) : State × Bool :=
  if 2 ^ 40 ≤ 128 * line then (s, false)
  else match p with
    | .always => (s, true)
    | .never => (s, false)
    | .second => touch s (homeSlice (128 * line)) key

/-! ## Metadata words (R60, R68, R69) -/

/-- Controller-local block index of an HBM address (R60). -/
def blockIndex (dpa : Nat) : Nat := (if 2 ^ 39 ≤ dpa then 2 ^ 25 else 0) + (dpa >>> 11) % 2 ^ 25

/-- Where a block's word is stored; none for a carve-out, or with EN = 0. -/
def metaAddr (s : State) (dpa : Nat) : Option Nat :=
  let b := reg s (rMdbase (ctrlOf dpa))
  if dpa < 2 ^ 40 ∧ bit b 0 then some (bits b 43 29 * 2 ^ 29 + 8 * blockIndex dpa) else none

/-- 8 bytes at a DPA through the slice, in the raw view. -/
def rawWord (s : State) (dpa : Nat) : Word :=
  BitVec.ofNat 64 (leNat (bytesFrom (rawLine s (dpa / 128)) (dpa % 128) 8))

/-- Overwrite masked bytes of a physical line, in the Deck when it is there, else in memory; whole codewords written
lose their poison (R73). -/
def rawPut (s : State) (line : Nat) (mask : BitVec 128) (l : Line) : State :=
  let bad := lineBad s line &&& ~~~wholeWords mask
  match tabGet s.deck line with
  | some d => { s with deck := tabSet s.deck line { d with data := mergeLine mask d.data l, dirty := true, bad := bad } }
  | none => { setPoison s line bad with mem := writeMasked mask s.mem (128 * line) 0 (lineBytes l) }

/-- Write bytes at a DPA in the raw view. -/
def rawWrite (s : State) (dpa : Nat) (bs : List Byte) : State :=
  (linesOf dpa bs.length).foldl (fun s p =>
    rawPut s (p.1 / 128) (byteMask (p.1 % 128) p.2) (bytesAt (p.1 % 128) ((bs.drop (p.1 - dpa)).take p.2))) s

/-- Read bytes at a DPA in the raw view. -/
def rawRead (s : State) (dpa n : Nat) : List Byte :=
  (linesOf dpa n).flatMap fun p => bytesFrom (rawLine s (p.1 / 128)) (p.1 % 128) p.2

/-- The key of a metadata word in its controller's cache. -/
def mdKey (dpa a : Nat) : Nat := ctrlOf dpa * 2 ^ 44 + a

/-- A block's metadata word; 0 for an unregistered block (R68, R69). -/
def metaOf (s : State) (dpa : Nat) : Word :=
  match metaAddr s dpa with
  | none => 0
  | some a =>
    match tabGet s.mdCache (mdKey dpa a) with
    | some e => e.1
    | none => rawWord s a

/-- Write back a word of a metadata cache, if it is dirty. -/
def metaBack (s : State) (e : Nat × Word × Bool) : State :=
  if e.2.2 then rawWrite s (e.1 % 2 ^ 44) (wordBytes e.2.1) else s

/-- Write back every word of the metadata caches and empty them. -/
def metaFlush (s : State) : State := s.mdCache.foldl metaBack { s with mdCache := [] }

/-- Put a word into its controller's cache of 2^18 words (R69); the victim of a full one is free (log 9). -/
def metaPut (s : State) (key : Nat) (w : Word) (dirty : Bool) : State :=
  let mine := s.mdCache.filter fun e => e.1 / 2 ^ 44 == key / 2 ^ 44
  let s :=
    if (tabGet s.mdCache key).isSome ∨ mine.length < 2 ^ 18 then s
    else
      match mine[Config.metaVictim s.tick % mine.length]? with
      | none => s
      | some e => metaBack { s with mdCache := tabDel s.mdCache e.1 } e
  { s with mdCache := tabSet s.mdCache key (w, dirty) }

/-- Set a block's metadata word, through the write-back cache of its controller (R69). -/
def setMeta (s : State) (dpa : Nat) (w : Word) : State :=
  match metaAddr s dpa with
  | none => s
  | some a => metaPut s (mdKey dpa a) w true

/-- A block's metadata word lies in a poisoned codeword (R73; log 15). -/
def metaBad (s : State) (dpa : Nat) : Bool :=
  match metaAddr s dpa with
  | none => false
  | some a => (tabGet s.mdCache (mdKey dpa a)).isNone && bit (lineBad s (a / 128)) (a % 128 / 64)

/-- A slice that serves a block has its word in the controller's cache: software that overwrites the stored word is not seen
until the word is fetched again (R69). -/
def fetchMeta (s : State) (dpa : Nat) : State :=
  match metaAddr s dpa with
  | none => s
  | some a =>
    if (tabGet s.mdCache (mdKey dpa a)).isSome ∨ metaBad s dpa then s else metaPut s (mdKey dpa a) (rawWord s a) false

def metaVer (w : Word) : Bool := bit w 0

def metaCmp (w : Word) : Bool := bit w 1

def metaT (w : Word) : Nat := bits w 63 16

def metaS (w : Word) : Nat := bits w 15 15

/-! ## Records -/

/-- Wake a die's system core (R289, R445). -/
def wakeSystem (s : State) (d : Nat) : State :=
  { s with cores := tabSet s.cores (960 + d) { tabD s.cores (960 + d) Core.reset with wake := true } }

/-- A fault record fits the ring of die d now (R445). -/
def fqRoom (s : State) (d : Nat) : Bool :=
  let b := reg s (rFqbase d)
  let p := reg s (rFqptr d)
  bit b 63 && decide ((bits p 31 16 + 1) % 2 ^ bits b 4 0 ≠ bits p 15 0 % 2 ^ bits b 4 0)

/-- Write one record into the ring: a 128-byte slot padded with zeros; then HEAD advances and the system core wakes. -/
def fqPut (s : State) (d : Nat) (ws : List Word) : State :=
  let b := reg s (rFqbase d)
  let h := bits (reg s (rFqptr d)) 31 16
  let s := rawWrite s (bits b 43 12 * 4096 + 128 * h) (wordsBytes (ws ++ List.replicate (16 - ws.length) 0))
  wakeSystem (putReg s (rFqptr d) 31 16 ((h + 1) % 2 ^ bits b 4 0)) d

/-- Move waiting records into the ring while it has room, oldest first. -/
def fqDrain : (fuel : Nat) → State → Nat → State
  | 0, s, _ => s
  | fuel + 1, s, d =>
    match tabD s.fqBuf d [] with
    | [] => s
    | r :: rs => if fqRoom s d then fqDrain fuel (fqPut { s with fqBuf := tabSet s.fqBuf d rs } d r) d else s

/-- Queue a record (R445): into the ring, else into the 32-entry buffer, else dropped and counted in LOST. -/
def fqPush (s : State) (d : Nat) (ws : List Word) : State :=
  let buf := tabD s.fqBuf d []
  if buf.isEmpty ∧ fqRoom s d then fqPut s d ws
  else if buf.length < 32 then { s with fqBuf := tabSet s.fqBuf d (buf ++ [ws]) }
  else countReg s (rFqptr d) 63 48 1

/-- A probe request would find room (R445): it holds its role where another record would be dropped. -/
def fqCanHold (s : State) (d : Nat) : Bool := fqRoom s d || decide ((tabD s.fqBuf d []).length < 32)

/-- NSYM of a record (R76): 1 for a correctable event, 2 or more for an uncorrectable one, or 0xFF, not known. -/
def nsymOf (kind nsym : Nat) : Nat := if kind % 2 = 1 then 1 else if nsym < 2 then 0xFF else nsym

/-- Log an event in controller n's error history (R75, R76), and raise CORR for an uncorrectable event at a VER block
(R186). -/
def ehLog (s : State) (n kind dpa pc bank row nsym : Nat) : State :=
  let b := reg s (rEhbase n)
  let p := reg s (rEhptr n)
  let h := bits p 41 32
  let far := if 2 ^ 39 ≤ dpa ∧ dpa < 2 ^ 40 then 1 else 0
  let ver := metaVer (metaOf s dpa) || (decide (dpa < 2 ^ 40) && metaVer (metaOf s (dpa ^^^ 2 ^ 39)))
  let s := if kind % 2 = 0 ∧ ver then raiseFlags s 4 else s
  if bit b 0 then
    let ws := [ofFields [(56, kind), (55, far), (49, pc), (43, bank), (25, row)], BitVec.ofNat 64 (dpa / 64 * 64),
      Config.clockAt (1000 + n) s.tick, BitVec.ofNat 64 (nsymOf kind nsym)]
    let s := rawWrite s (bits b 43 15 * 2 ^ 15 + 32 * h) (wordsBytes ws)
    let h' := (h + 1) % 1024
    let s := putReg s (rEhptr n) 41 32 h'
    if h' = bits p 9 0 then countReg (putReg s (rEhptr n) 9 0 ((bits p 9 0 + 1) % 1024)) (rEhptr n) 63 48 1 else s
  else countReg s (rEhptr n) 63 48 1

/-! ## VER blocks (R171 to R176) -/

/-- The committed slot of a block (R174). -/
def committedSlot (s : State) (w : Word) : Nat :=
  if abwHas s (metaT w) then 1 - metaS w
  else if !ksIdle s && metaT w == s.ks.geno.toNat then 1 - metaS w
  else metaS w

/-- The slot an ordinary read sees (R174). -/
def openSlot (s : State) (w : Word) : Nat := if abwHas s (metaT w) then 1 - metaS w else metaS w

/-- The physical line of slot k of a VER line (R171). -/
def slotLine (line k : Nat) : Nat := if k = 0 then line else line ^^^ 2 ^ 32

/-- A frame is the partner of a registered VER granule (R171). -/
def isPartner (s : State) (dpa : Nat) : Bool := decide (dpa < 2 ^ 40) && metaVer (metaOf s (dpa ^^^ 2 ^ 39))

/-- The attribute check of R37, R38, R68 and R171. -/
def attrOk (s : State) (dpa : Nat) (cmp ver : Bool) : Bool :=
  let w := metaOf s dpa
  (metaVer w == ver) && (metaCmp w == cmp) && !isPartner s dpa

/-- The line by which a physical line's block is registered: itself, or the line in front of it whose slot 1 it is (R171). -/
def verHome (s : State) (line : Nat) : Nat := if metaVer (metaOf s (128 * line)) then line else line ^^^ 2 ^ 32

/-- The generation tag of R176: at a lookup or an eviction, a Deck line of an aborted generation that lies in slot S of its
block is dropped without write-back. -/
def tagCheck (s : State) (line : Nat) : State :=
  match tabGet s.deck line with
  | none => s
  | some d =>
    let h := verHome s line
    let w := metaOf s (128 * h)
    if d.ver ∧ abwLow s d.tag ∧ abwHas s (metaT w) ∧ slotLine h (metaS w) = line then deckDropLine s line else s

/-! ## Lines leave and enter the Deck -/

/-- The lines that leave the Deck with a line: its whole block when it is compressed (R62). -/
def deckMates (s : State) (line : Nat) : List Nat :=
  match tabGet s.deck line with
  | some d => if d.cmp then (List.range 16).map fun i => line / 16 * 16 + i else [line]
  | none => []

/-- Drop a line, and what is held with it, without write-back. -/
def deckDrop (s : State) (line : Nat) : State := (deckMates s line).foldl deckDropLine s

/-- Drop one line from the Deck, writing a dirty one back (R61), its uncorrectable codewords with it; a line of an aborted
generation is dropped without write-back (R176). -/
def deckEvictLine (s : State) (line : Nat) : State :=
  let s := tagCheck s line
  match tabGet s.deck line with
  | none => s
  | some d =>
    let s := deckDropLine s line
    if d.dirty then setPoison (putHbm s line d.data) line d.bad else s

/-- Evict a line from the Deck, and what is held with it. -/
def deckEvict (s : State) (line : Nat) : State := (deckMates s line).foldl deckEvictLine s

/-- Make room for n lines in a slice; the victims are free (log 9). -/
def deckRoom (sl n : Nat) : (fuel : Nat) → State → State
  | 0, s => s
  | fuel + 1, s =>
    let used := deckUse s sl
    if deckFill s sl + n ≤ deckCap s sl ∨ used.isEmpty then s
    else deckRoom sl n fuel (nextTick (deckEvict s (used.getD (Config.deckVictim s.tick % used.length) 0)))

/-- Put a line into the Deck, evicting lines of the slice when it is full. -/
def deckInsert (s : State) (line : Nat) (d : DeckLine) : State :=
  match tabGet s.deck line with
  | some _ => { s with deck := tabSet s.deck line d }
  | none =>
    let s := deckRoom (homeSlice (128 * line)) 1 1 s
    { s with deck := tabSet s.deck line d }

/-- A line of memory as the Deck takes it: clean, with a tag. -/
def cleanLine (s : State) (line : Nat) (tag : BitVec 8) (ver cmp : Bool) : DeckLine :=
  { data := rawLine s line, dirty := false, tag := tag, ver := ver, bad := lineBad s line, cmp := cmp }

/-- Allocate a line: a line of a compressed block brings the whole block (R62). -/
def deckAlloc (s : State) (line : Nat) (tag : BitVec 8) (ver cmp : Bool) : State :=
  if cmp then
    let n := 2 * ((Config.sectors (physBlock s line)).toNat + 1)
    (List.range 16).foldl (fun s i =>
        let l := line / 16 * 16 + i
        { s with deck := tabSet s.deck l (cleanLine s l tag ver true) })
      (deckRoom (homeSlice (128 * line)) n 16 s)
  else deckInsert s line (cleanLine s line tag ver false)

/-! ## Snapshots (R149 to R159) -/

/-- The deepest level of a context whose range holds a DPA, counted from level 1; 0 for none. -/
def deepest : Nat → List SnLevel → Nat → Nat
  | _, [], _ => 0
  | l, x :: r, a =>
    let d := deepest (l + 1) r a
    if d ≠ 0 then d else if x.dpa ≤ a ∧ a < x.dpa + x.len then l else 0

/-- The context and level that a line belongs to (R149). -/
def lineLevel (s : State) (line : Nat) : Option (Nat × Nat) :=
  (s.snap.findSome? fun e =>
    let d := deepest 1 e.2.levels (128 * line)
    if d ≠ 0 then some (e.1, d) else none)

/-- A shadow's tag names an aborted generation, so it counts as absent (R159). -/
def deadShadow (s : State) (x : Shadow) : Bool :=
  match x.tag with
  | none => false
  | some t => abwLow s t

/-- A mark applies to a shadow (R156). -/
def marked (m : SnMark) (x : Shadow) : Bool := x.ctx == m.ctx && x.lvl == m.lvl && decide (x.stamp < m.num)

/-- A line has a pending entry that is not dead. -/
def hasPending (s : State) (line : Nat) : Bool :=
  s.shadows.any fun x => x.line == line && !deadShadow s x && s.marks.any fun m => marked m x

/-- The shadow of a line at a context and level. -/
def shadowAt (s : State) (line c l : Nat) : Option Shadow :=
  s.shadows.find? fun x => x.line == line && x.ctx == c && x.lvl == l && !deadShadow s x

/-- The frame block of a line is registered VER. -/
def lineVer (s : State) (line : Nat) : Bool := metaVer (metaOf s (128 * line))

/-- What one mark makes of the shadows, line by line (the table of R156), restores apart. -/
def settleMark (l : List Shadow) (m : SnMark) : List Shadow :=
  l.filterMap fun x =>
    if !marked m x then some x
    else if m.rej || m.lvl == 1 || l.any fun y => y.line == x.line && y.ctx == x.ctx && y.lvl + 1 == m.lvl then none
    else some { x with lvl := m.lvl - 1, stamp := m.num }

/-- The shadows of open levels as if every mark had been applied where it was given (R152, R156). -/
def openShadows (s : State) : List Shadow :=
  (s.marks.foldl settleMark (s.shadows.filter fun x => !deadShadow s x)).filter fun x =>
    decide (x.lvl ≤ (tabD s.snap x.ctx ⟨0, []⟩).levels.length)

/-- Shadows of open levels held by a slice (R152). -/
def shadowCount (s : State) (sl : Nat) : Nat :=
  ((openShadows s).filter fun x => homeSlice (128 * x.line) == sl).length

/-- Shadows a slice may hold (R152, R155). -/
def shadowCap (s : State) (sl : Nat) : Nat :=
  let d := sl / 64
  let r := reg s (rCarve d)
  let new := bits r 13 8
  let sh := if bit r 63 then min new (tabD s.carveOld d (0, new)).2 else new
  let lim := bits (reg s (rShlim d)) 15 0
  if lim = 0 then 1024 * sh else min (1024 * sh) lim

/-- TVAL of SHADOW_FULL (R162). -/
def shadowTval (sl c l lane : Nat) : Word := ofFields [(16, sl), (10, 4 * c + (l - 1)), (0, lane)]

/-! ## The write of one line -/

/-- Where a slice write comes from, as R175 and R151 ask. -/
inductive WriteSrc where
  | loc | peer (g : BitVec 48) | restore
  deriving DecidableEq, Repr

/-- How a slice answers a write. -/
inductive WriteRes where
  | done (s : State)
  | full (s : State) (tval : Word)
  | genMismatch
  | voted

/-- Set the generation tag of a line that the Deck holds (R176). -/
def setTag (s : State) (line : Nat) (tag : BitVec 8) (ver : Bool) : State :=
  match tabGet s.deck line with
  | some d => { s with deck := tabSet s.deck line { d with tag := tag, ver := ver } }
  | none => s

/-- Copy every line of slot c of a block over slot n (R175, copy-forward), tagged as a write (R176); poison goes with the
data. -/
def copyForward (s : State) (blk c n : Nat) (tag : BitVec 8) (ver : Bool) : State :=
  (List.range 16).foldl (fun s i =>
    let l := blk / 128 + i
    let src := slotLine l c
    let dst := slotLine l n
    setTag (setBad (rawPut s dst (BitVec.allOnes 128) (rawLine s src)) dst (lineBad s src)) dst tag ver) s

/-- Merge masked bytes into a line that the Deck holds; a compressed block is rewritten as a whole (R72). -/
def deckMerge (s : State) (line : Nat) (ver : Bool) (tag : BitVec 8) (mask : BitVec 128) (l : Line) (bad : BitVec 2) :
    State :=
  let touchLine (s : State) (m : Nat) : State :=
    match tabGet s.deck m with
    | some d =>
      let e : DeckLine := { d with dirty := true, tag := tag, ver := ver }
      let e := if m = line then { e with data := mergeLine mask d.data l, bad := bad } else e
      { s with deck := tabSet s.deck m e }
    | none => s
  (deckMates s line).foldl touchLine s

/-- Put masked bytes into a physical line under the allocation rules (R62, R176). A write that covers a whole
codeword clears its poison; on a CMP page only a write of the whole block (R73). -/
def placeLine (s : State) (pol : Policy) (cmp full ver : Bool) (tag : BitVec 8) (blk line : Nat) (mask : BitVec 128)
    (l : Line) : State :=
  let s := tagCheck s line
  let bad := if cmp ∧ !full then lineBad s line else lineBad s line &&& ~~~wholeWords mask
  match tabGet s.deck line with
  | some _ => deckMerge s line ver tag mask l bad
  | none =>
    let (s, a) := allocates s pol line (if cmp then blk / 2048 else line)
    if a then deckMerge (deckAlloc s line tag ver cmp) line ver tag mask l bad
    else setBad (rawPut s line mask l) line bad

/-- The bytes of a block of 2 KiB whose slot-k lines are physical. -/
def blockBytes (s : State) (blk k : Nat) : List Byte :=
  (List.range 16).flatMap fun i => lineBytes (rawLine s (slotLine (blk / 128 + i) k))

/-- The sector count of a CMP block follows its new data (R67, R72); it is free (log 10). -/
def recount (s : State) (blk k : Nat) : State :=
  let w := metaOf s blk
  if metaCmp w then
    let n := (Config.sectors (blockBytes s blk k)).toNat
    setMeta s blk (if k = 0 then putBits w 11 9 n else putBits w 14 12 n)
  else s

/-- The write itself, once it may be performed: VerWrite (R175) on a VER block, else in place. -/
def performWrite (s : State) (pol : Policy) (full : Bool) (frame : Nat) (mask : BitVec 128) (l : Line) : State :=
  let blk := 128 * frame / 2048 * 2048
  let w := metaOf s (128 * frame)
  if metaVer w then
    let c := committedSlot s w
    let tag := if ksIdle s then BitVec.ofNat 8 (metaT w) else BitVec.ofNat 8 s.ks.geno.toNat
    if ksIdle s then recount (placeLine s pol (metaCmp w) full true tag blk (slotLine frame c) mask l) blk c
    else if metaT w = s.ks.geno.toNat then
      recount (placeLine s pol (metaCmp w) full true tag blk (slotLine frame (metaS w)) mask l) blk (metaS w)
    else
      let n := 1 - c
      let s := if full then s else copyForward s blk c n tag true
      let sc := if c = 0 then bits w 11 9 else bits w 14 12
      let w := if full then w else if n = 0 then putBits w 11 9 sc else putBits w 14 12 sc
      let s := setMeta s blk (putBits (putBits w 63 16 s.ks.geno.toNat) 15 15 n)
      recount (placeLine s pol (metaCmp w) full true tag blk (slotLine frame n) mask l) blk n
  else recount (placeLine s pol (metaCmp w) full false 0 blk frame mask l) blk 0

/-- The physical line that an ordinary load, or one through a CV leaf, sees (R174). -/
def viewLine (s : State) (cv : Bool) (frame : Nat) : Nat :=
  let w := metaOf s (128 * frame)
  if metaVer w then slotLine frame (if cv then committedSlot s w else openSlot s w) else frame

/-- A restore from a shadow writes its uncorrectable codewords poisoned, and logs each (R158). -/
def restoreBad (s : State) (line : Nat) (bad : BitVec 2) : State :=
  if bad = 0 then s
  else
    let p := viewLine s false line
    let note (s : State) (k : Nat) : State :=
      if bit bad k then ehLog s (2 * homeDie (128 * line)) 6 (128 * line + 64 * k) (homeSlice (128 * line) % 64) 0 0 0xFF else s
    note (note (setBad s p (lineBad s p ||| bad)) 0) 1

/-- Apply one mark to one line (the table of R156). -/
def applyMark (s : State) (line : Nat) (m : SnMark) : State :=
  match s.shadows.find? fun x => x.line == line && marked m x with
  | none => s
  | some x =>
    let rest := s.shadows.filter fun y => !(y.line == line && y.ctx == x.ctx && y.lvl == x.lvl)
    let s' := { s with shadows := rest }
    if deadShadow s x then s'
    else if m.rej then restoreBad (performWrite s' .never false line (BitVec.allOnes 128) x.image) line x.bad
    else if m.lvl = 1 then s'
    else
      match shadowAt s' line m.ctx (m.lvl - 1) with
      | some _ => s'
      | none => { s' with shadows :=
          (rest.filter fun y => !(y.line == line && y.ctx == m.ctx && y.lvl == m.lvl - 1)) ++
            [{ x with lvl := m.lvl - 1, stamp := m.num }] }

/-- ResolvePending (R156): the pending entries of a line, in issue order; dead shadows of the line go (R159). -/
def resolvePending (s : State) (line : Nat) : State :=
  let s := s.marks.foldl (fun s m => applyMark s line m) s
  { s with shadows := s.shadows.filter fun x => !(x.line == line && deadShadow s x) }

/-- A line waits at its slice: a pending restore to a VER line while Keystone is VOTED (R156), or a granule with a
metadata operation running (R70). -/
def lineHeld (s : State) (line : Nat) : Bool :=
  (hasPending s line && lineVer s line && s.ks.state == .voted) ||
    (decide (128 * line < 2 ^ 40) && bit (reg s (rMdreg (ctrlOf (128 * line)))) 61 &&
      bits (reg s (rMdreg (ctrlOf (128 * line)))) 36 16 == blockIndex (128 * line) / 32)

/-- The level at which a write to the line still needs a shadow (R151). -/
def needsShadow (s : State) (line : Nat) : Option (Nat × Nat) :=
  match lineLevel s line with
  | none => none
  | some (c, l) => if (shadowAt s line c l).isSome then none else some (c, l)

/-- Take a shadow of a line (R151, R159). -/
def takeShadow (s : State) (line c l : Nat) : State :=
  let p := viewLine s false line
  let ver := lineVer s line
  let x : Shadow :=
    { line := line, ctx := c, lvl := l, image := rawLine s p,
      tag := if ver ∧ !ksIdle s then some (BitVec.ofNat 8 s.ks.geno.toNat) else none,
      stamp := s.markNo, bad := lineBad s p }
  { s with shadows := s.shadows ++ [x] }

/-- A write to one line at its home slice, as one serial step (R120, R151, R175). `full`: part of a request that
writes the whole block. -/
def sliceWrite (s : State) (src : WriteSrc) (pol : Policy) (full : Bool) (frame : Nat) (mask : BitVec 128) (l : Line) :
    WriteRes :=
  let ver := lineVer s frame
  let s := resolvePending (fetchMeta s (128 * frame)) frame
  let gm : Bool := match src with
    | .peer g => ver && g != curGen s
    | _ => false
  let wait : Bool := match src with
    | .peer _ => false
    | _ => ver && s.ks.state == .voted
  if wait then .voted
  else if gm then .genMismatch
  else
    match needsShadow s frame with
    | none => .done (performWrite s pol full frame mask l)
    | some (c, lv) =>
      let sl := homeSlice (128 * frame)
      if shadowCount s sl ≥ shadowCap s sl then
        .full (putReg s (rShstat (sl / 64)) 63 63 1) (shadowTval sl c lv 0)
      else .done (performWrite (takeShadow s frame c lv) pol full frame mask l)

/-! ## The read of one line -/

/-- Poisoned codewords among n bytes from `off` of a physical line; a CMP block reads as poisoned as a whole (R73). -/
def isPoisoned (s : State) (cmp : Bool) (line off n : Nat) : Bool :=
  if cmp then (List.range 16).any fun i => lineBad s (line / 16 * 16 + i) != 0
  else
    let b := lineBad s line
    (bit b 0 && decide (off < 64)) || (bit b 1 && decide (64 < off + n))

/-- A read of a line meets an error in one of its codewords (R73, R75; log 15). The Deck's or memory's copy is corrected, or
the codeword is poisoned in place; a clean Deck line is dropped, to be fetched again, and that is logged as correctable when
the fetch succeeds. A codeword known to be uncorrectable is no new event. -/
def demandError (s : State) (cv : Bool) (frame : Nat) (e : MemErr) : State :=
  let s := resolvePending s frame
  let line := viewLine s cv frame
  let dpa := 128 * line + if e.second then 64 else 0
  let mine : BitVec 2 := twoFlags (!e.second) e.second
  let deckLog (s : State) (kind nsym : Nat) : State :=
    ehLog s (2 * homeDie dpa) kind dpa (homeSlice dpa % 64) 0 0 nsym
  if lineBad s line &&& mine ≠ 0 then s
  else if 2 ^ 40 ≤ dpa then
    if e.correctable then deckLog s 5 e.nsym.toNat else setBad (deckLog s 6 e.nsym.toNat) line (lineBad s line ||| mine)
  else
    match tabGet s.deck line with
    | some d =>
      if e.correctable then deckLog s 5 e.nsym.toNat
      else if d.dirty then setBad (deckLog s 6 e.nsym.toNat) line (d.bad ||| mine)
      else
        let s := deckDrop s line
        if lineBad s line &&& mine = 0 then deckLog s 5 1 else deckLog s 6 e.nsym.toNat
    | none =>
      let s := ehLog s (ctrlOf dpa) (if e.correctable then 3 else 4) dpa e.pc.toNat e.bank.toNat e.row.toNat e.nsym.toNat
      if e.correctable then s else setPoison s line (lineBad s line ||| mine)

/-- The error that a read meets, if any. -/
def meetError (s : State) (cv : Bool) (frame : Nat) (err : Option MemErr) : State :=
  match err with
  | some e => demandError s cv frame e
  | none => s

/-- A read at the home slice: pending entries first, then the line of the view, filled into the Deck by the policy.
Answers the line and whether the n bytes from `off` are poisoned. -/
def sliceRead (s : State) (pol : Policy) (cv : Bool) (frame off n : Nat) : State × Line × Bool :=
  let s := resolvePending (fetchMeta s (128 * frame)) frame
  let w := metaOf s (128 * frame)
  let line := viewLine s cv frame
  let s := tagCheck s line
  let l := rawLine s line
  let bad := isPoisoned s (metaCmp w) line off n || metaBad s (128 * frame)
  match tabGet s.deck line with
  | some _ => (s, l, bad)
  | none =>
    let (s, a) := allocates s pol line (if metaCmp w then 128 * frame / 2048 else line)
    (if a then deckAlloc s line (BitVec.ofNat 8 (metaT w)) (metaVer w) (metaCmp w) else s, l, bad)

/-! ## Read-modify-write -/

/-- How a slice answers a read-modify-write. -/
inductive RmwRes where
  | done (s : State) (old : Nat) (fl : BitVec 5)
  | full (s : State) (tval : Word)
  | genMismatch
  | voted
  | poisoned

/-- A read-modify-write of n bytes at a DPA as one serial step (R120, R125): `f` gives the new value, if it writes,
and the flags. One that writes nothing is not refused for want of a shadow (R161). -/
def sliceRmw (s : State) (src : WriteSrc) (pol : Policy) (dpa n : Nat) (f : Nat → Option Nat × BitVec 5) : RmwRes :=
  let line := dpa / 128
  let off := dpa % 128
  let s := resolvePending (fetchMeta s dpa) line
  let ver := lineVer s line
  let held : Bool := match src with
    | .peer _ => false
    | _ => ver && s.ks.state == .voted
  let gm : Bool := match src with
    | .peer g => ver && g != curGen s
    | _ => false
  if held then .voted
  else if gm then .genMismatch
  else
    let p := viewLine s false line
    let s := tagCheck s p
    if isPoisoned s (metaCmp (metaOf s dpa)) p off n || metaBad s dpa then .poisoned
    else
      let old := leNat (bytesFrom (rawLine s p) off n)
      match f old with
      | (none, fl) => .done (sliceRead s pol false line off n).1 old fl
      | (some v, fl) =>
        match sliceWrite s src pol false line (byteMask off n) (bytesAt off (leBytes n v)) with
        | .done s => .done s old fl
        | .full s t => .full s t
        | .genMismatch => .genMismatch
        | .voted => .voted

/-! ## The open view of a byte string -/

/-- The line that a load performed at the slice now would return (R151, R156): pending entries count as applied. -/
def openLine (s : State) (frame : Nat) : Line :=
  let s := resolvePending s frame
  rawLine s (viewLine s false frame)

/-- A partial read of memory in the open view, without fills. -/
def viewBytes (s : State) (dpa n : Nat) : List Byte :=
  (linesOf dpa n).flatMap fun p => bytesFrom (openLine s (p.1 / 128)) (p.1 % 128) p.2

/-- 8 bytes of a table in memory, read through their home slice (R34). -/
def entryWord (s : State) (dpa : Nat) : Word :=
  BitVec.ofNat 64 (leNat (bytesFrom (openLine s (dpa / 128)) (dpa % 128) 8))

/-- The entry's codeword is poisoned (R73). -/
def entryBad (s : State) (dpa : Nat) : Bool :=
  let t := resolvePending s (dpa / 128)
  isPoisoned t (metaCmp (metaOf t dpa)) (viewLine t false (dpa / 128)) (dpa % 128) 8 || metaBad t dpa

end Sys2Proof.Machine
end

