-- ==== Sys2Proof/Machine/CoreOps.lean ====
section
/-! DEFINITION. Sys2Proof/Machine/CoreOps.lean: cores and roles by number (R7, R8, R17), their modes, and the state that
mfsr composes. -/

namespace Sys2Proof.Machine

/-! ## Units by number -/

/-- A core the part has: worker cores 0 to 959, of R10's 960, in present clusters (R9), and system cores 960 + die. -/
def coreExists (s : State) (c : Nat) : Bool :=
  decide (c < 964) && (decide (960 ≤ c) || !s.absent.contains (c / 48))

/-- A role of a core: L, C and S of a worker core; the single stream of a system core is its C role (log 17). -/
def roleExists (s : State) (c : Nat) (r : RoleId) : Bool := coreExists s c && (decide (c < 960) || r == .C)

def isSystem (c : Nat) : Bool := decide (960 ≤ c)

/-- The die of a core (R8). -/
def dieOf (c : Nat) : Nat := if c < 960 then c / 240 else c - 960

/-- The device cluster number of a worker core. -/
def clusterOf (c : Nat) : Nat := c / 48

/-- The LEVEL of the island of a die's cluster (R13, R465): 0 when its clocks are gated. -/
def clusterLevel (s : State) (d k : Nat) : Nat := bits (reg s (rPwrctl (2 * d + if k < 3 then 0 else 1))) 3 0

/-- The clocks of a worker core's island are gated (R465). -/
def clockGated (s : State) (c : Nat) : Bool := !isSystem c && clusterLevel s (dieOf c) (clusterOf c % 5) == 0

/-- The number of a worker core within its cluster (R8). -/
def localOf (c : Nat) : Nat := c % 48

/-- Role order L, C, S, as R138 and R442 number it. -/
def roleNum : RoleId → Nat
  | .L => 0
  | .C => 1
  | .S => 2

def roleOfNum : Nat → RoleId
  | 0 => .L
  | 1 => .C
  | _ => .S

/-- A role's bit in a writer mask. -/
def roleBit (r : RoleId) : BitVec 3 := BitVec.ofNat 3 (2 ^ roleNum r)

def allRoles : List RoleId := [.L, .C, .S]

/-- A core's state; unlisted: as after reset. -/
def core (s : State) (c : Nat) : Core := tabD s.cores c Core.reset

def setCore (s : State) (c : Nat) (k : Core) : State := { s with cores := tabSet s.cores c k }

def modCore (s : State) (c : Nat) (f : Core → Core) : State := setCore s c (f (core s c))

/-- A role of a core. -/
def Core.role (k : Core) : RoleId → Role
  | .L => k.roleL
  | .C => k.roleC
  | .S => k.roleS

def Core.setRole (k : Core) (r : RoleId) (x : Role) : Core :=
  match r with
  | .L => { k with roleL := x }
  | .C => { k with roleC := x }
  | .S => { k with roleS := x }

def getRole (s : State) (c : Nat) (r : RoleId) : Role := (core s c).role r

def putRole (s : State) (c : Nat) (r : RoleId) (x : Role) : State := modCore s c fun k => k.setRole r x

def modRole (s : State) (c : Nat) (r : RoleId) (f : Role → Role) : State := putRole s c r (f (getRole s c r))

/-- The roles a core has. -/
def coreRoles (c : Nat) : List RoleId := if c < 960 then [.L, .C, .S] else [.C]

/-! ## Modes and contexts -/

/-- A role runs in system mode (R438): always on a system core. -/
def systemMode (s : State) (c : Nat) (r : RoleId) : Bool := isSystem c || bit (getRole s c r).tstat 2

/-- Inside a trap handler (R438). -/
def inHandler (x : Role) : Bool := bit x.tstat 0

/-- A Collie's state. -/
def collie (s : State) (d : Nat) : Collie := tabD s.collies d Collie.reset

def setCollie (s : State) (d : Nat) (x : Collie) : State := { s with collies := tabSet s.collies d x }

def port (s : State) (p : Nat) : Port := tabD s.ports p Port.reset

def setPort (s : State) (p : Nat) (x : Port) : State := { s with ports := tabSet s.ports p x }

/-- A task of a Collie's pool. -/
def findTask (x : Collie) (id : Nat) : Option Task := x.pool.find? fun t => t.id == id

/-- The task a core runs. -/
def coreTask (s : State) (c : Nat) : Option Task :=
  match (core s c).task with
  | none => none
  | some id => findTask (collie s (dieOf c)) id

/-- Task record fields (R396). -/
def taskWord (t : Task) (i : Nat) : Word := t.words.getD i 0

def taskVote (t : Task) : Bool := bit (taskWord t 0) 6

def taskKind (t : Task) : Nat := bits (taskWord t 0) 2 0

/-- The core runs a vote-linked context (R186, R188). -/
def voteLinked (s : State) (c : Nat) : Bool :=
  match coreTask s c with
  | none => false
  | some t => taskVote t

/-- Width and height by code (R218). -/
def widthOf (code : Nat) : Nat := 2 ^ code

def heightOf : Nat → Nat
  | 0 => 1
  | 1 => 2
  | 2 => 3
  | _ => 6

/-- The cores of a placed rectangle, in rank order (R217): cluster number on the device, origin, width, height codes. -/
def rectCores (clu x0 y0 wc hc : Nat) : List Nat :=
  (List.range (heightOf hc)).flatMap fun y =>
    (List.range (widthOf wc)).map fun x => 48 * clu + 8 * (y0 + y) + (x0 + x)

/-- The cores of a task in place. -/
def taskCores (t : Task) : List Nat :=
  match t.place with
  | none => []
  | some (clu, x0, y0) => rectCores clu x0 y0 (bits (taskWord t 0) 8 7) (bits (taskWord t 0) 10 9)

/-- RECT as read (R218). -/
def rectWord (c : Nat) (k : Core) : Word :=
  ofFields [(22, c), (16, if c < 960 then localOf c else 0)] ||| k.rect.zeroExtend 64

/-! ## The whole part -/

/-- Boot is complete (R459). -/
def booted (s : State) : Bool := bit (reg s rBootstat) 46

/-- The thermal trip has been taken (R466). -/
def tripped (s : State) : Bool := bit (reg s rThermctl) 63

/-- The host's request completes with Completer Abort (R29, R161, R454). -/
def hostAbort (s : State) : State :=
  { s with hostOut := .completerAbort, herr := putBits s.herr 63 48 (satAdd 0xFFFF (bits s.herr 63 48) 1) }

/-- A host request: after the trip it is aborted (R466); before boot is complete it is not accepted (R457). -/
def hostGate (s : State) (f : State → State) : State :=
  if tripped s then hostAbort s else if booted s then f s else s

/-! ## Performance counters (R451) -/

/-- Events of R451 that measure time or pairing, which the model does not count (log 5). -/
def isClockEvent (ev : Nat) : Bool := [1, 4, 5, 6, 7, 8, 14].contains ev

/-- A counter's value after n events of a role; `e` is the counter's entry. -/
def countOne (sel : Word) (r : RoleId) (ev n : Nat) (v : Word) : Word :=
  if bit sel 63 ∧ bits sel 7 0 = ev ∧ (ev = 15 ∨ bit sel (8 + roleNum r)) then v + BitVec.ofNat 64 n else v

/-- Count n events of a role in the core's counters that select them. Event 0x0F is no role event. -/
def countEvent (s : State) (c : Nat) (r : RoleId) (ev n : Nat) : State :=
  modCore s c fun k =>
    { k with pmc := k.pmsel.foldl (fun t e => tabSet t e.1 (countOne e.2 r ev n (tabD t e.1 0))) k.pmc }

/-! ## Request numbers -/

/-- A fresh request number. -/
def freshId (s : State) : State × Nat := ({ s with nextId := s.nextId + 1 }, s.nextId)

/-! ## Requests to peers (R38, R424, R426) -/

/-- The port that leads to a device; 12 for none (R426). -/
def routePort (s : State) (dev : Nat) : Nat :=
  let e := tabD s.routes dev (0 : BitVec 5)
  if bit (e.zeroExtend 64) 4 then bits (e.zeroExtend 64) 3 0 else 12

/-- STATE of a port: 0 DOWN, 1 TRAINING, 2 UP (R425). -/
def portState (s : State) (p : Nat) : Nat := bits (reg s (rPortstat p)) 63 62

/-- The port over which a request to a device goes out: none when it has no route, or its port is DOWN (R427). -/
def outPort (s : State) (dev : Nat) : Nat :=
  let p := routePort s dev
  if p < 12 ∧ portState s p = 0 then 12 else p

/-- Send a request to a peer, with the current generation (R179). -/
def peerSend (s : State) (dev : Nat) (op : PeerOp) (who : PeerFor) : State × Nat :=
  let (s, tag) := freshId s
  ({ s with peerOut := s.peerOut ++
      [{ tag := tag, port := outPort s dev, dev := dev, op := op, gn := curGen s, who := who }] }, tag)

end Sys2Proof.Machine
end

