-- ==== Sys2Proof/Machine/Translate.lean ====
section
/-! DEFINITION. Sys2Proof/Machine/Translate.lean: virtual addresses (R25), the near window (R28 to R30), the walk (R34),
leaf checks (R36 to R38), the A and D bits (R39), and held root entries (R33). -/

namespace Sys2Proof.Machine

/-- The first near-window address (R25). -/
def NW : Nat := 0x1FFFFF000000000

/-- What an access asks of its leaf (R36). -/
inductive Want where
  | read | write | both | fetch
  deriving DecidableEq, Repr

/-- Why an access is not translated: XLATE with its detail and the DPA, if a translation was made (R37); WINDOW (R29); a
page-table entry in an uncorrectable codeword (R73); an entry whose line waits at its slice, so that the access waits too
(R121). -/
inductive XErr where
  | xlate (detail dpa : Nat)
  | window
  | data (dpa : Nat)
  | held
  deriving DecidableEq, Repr

/-- Where an access lands: a scratch byte, by memory key; or a target, with the DPA of its leaf entry if it has one. -/
inductive Loc where
  | pool (key : Nat)
  | dev (t : Target) (leaf : Option Nat)
  deriving DecidableEq, Repr

/-! ## The near window -/

/-- Pool boundaries of a core, in bytes (R50). -/
def bnd0 (k : Core) : Nat := k.bnd0.toNat * 2 ^ 14

def bnd1 (k : Core) : Nat := k.bnd1.toNat * 2 ^ 14

def bnd2 (k : Core) : Nat := k.bnd2.toNat * 2 ^ 14

/-- A target in a carve-out slot (R30). -/
def carveTarget (d off : Nat) : Target :=
  { peer := none, dpa := 2 ^ 40 + d * 2 ^ 30 + off, nc := true, cv := false, ver := false, cmp := false, alloc := 2 }

/-- n bytes of core c's pool of 1.5 MiB (R10) from byte b: scratch only (R28, R29). -/
def poolLoc (s : State) (c b n : Nat) : Option Loc :=
  let k := core s c
  if coreExists s c ∧ bnd0 k ≤ b ∧ b + n ≤ bnd1 k then some (.pool (poolBase c + b)) else none

/-- An access of n bytes to the near window at offset `o` from NW, from core c (R28). -/
def nearLoc (s : State) (c o n : Nat) : Option Loc :=
  if o < 0x200000 then poolLoc s c o n
  else if 0x10000000 ≤ o ∧ o < 0x10000000 + 48 * 0x200000 then
    let j := (o - 0x10000000) / 0x200000
    if isSystem c then none else poolLoc s (48 * clusterOf c + j) ((o - 0x10000000) % 0x200000) n
  else if 0x40000000 ≤ o ∧ o < 0x80000000 then
    let b := o - 0x40000000
    if b + n ≤ carveLimit s (dieOf c) then some (.dev (carveTarget (dieOf c) b) none) else none
  else if 0x80000000 ≤ o ∧ o < 0x180000000 then
    let d := (o - 0x80000000) / 0x40000000
    let b := (o - 0x80000000) % 0x40000000
    if b + n ≤ carveLimit s d then some (.dev (carveTarget d b) none) else none
  else none

/-! ## The walk -/

/-- A leaf found by a walk: the entry, its own DPA, the page size, and the translated DPA. -/
structure Found where
  leaf : Word
  lptr : Nat
  psz  : Nat
  dpa  : Nat
  deriving DecidableEq, Repr

/-- The page size of a leaf legal at cursor b (R34). -/
def leafSize (b size : Nat) : Option Nat :=
  if b = 30 ∧ size = 2 then some (2 ^ 30)
  else if b = 21 ∧ size = 1 then some (2 ^ 21)
  else if b = 12 ∧ size = 0 then some (2 ^ 16)
  else none

/-- Walk (R34), from cursor b with entry e that was read at `lptr`. A walk is one step, so its entries are all from before
or all from after a write of another step (R47; log 12). -/
def walk (s : State) (va : Nat) : (fuel b : Nat) → (e : Word) → (lptr : Nat) → Except XErr Found
  | 0, _, _, _ => .error (.xlate 3 0)
  | fuel + 1, b, e, lptr =>
    if !bit e 0 then .error (.xlate 1 0)
    else if !bit e 1 then
      if bits e 63 52 ≠ 0 ∨ bits e 19 4 ≠ 0 then .error (.xlate 3 0)
      else if 1 < bits e 3 2 then .error (.xlate 3 0)
      else
        let w := if bits e 3 2 = 0 then 9 else 18
        if b < w + 12 then .error (.xlate 3 0)
        else
          let base := bits e 51 20 * 4096
          if bits e 3 2 = 1 ∧ base / 4096 % 512 ≠ 0 then .error (.xlate 3 0)
          else if !hasMem s base then .error (.xlate 5 0)
          else
            let a := base + 8 * ((va >>> (b - w)) % 2 ^ w)
            if lineHeld s (a / 128) then .error .held
            else if entryBad s a then .error (.data a)
            else walk s va fuel (b - w) (entryWord s a) a
    else
      match leafSize b (bits e 3 2) with
      | none => .error (.xlate 3 0)
      | some psz =>
        if bits e 15 14 = 3 then .error (.xlate 3 0)
        else .ok ⟨e, lptr, psz, bits e 51 20 * 4096 / psz * psz + va % psz⟩

/-- The root entry of an XID (R33). A root table where the map has no memory reads as its bytes in the list of memory, and a
poisoned entry as its bytes (log 12). -/
def rootEntry (s : State) (xid : Nat) : Word := entryWord s (bits (reg s rXroot) 43 19 * 2 ^ 19 + 8 * xid)

/-- This device's DEVID. -/
def devid (s : State) : Nat := bits (reg s rDevid) 11 0

/-- A leaf read as a target at an address of its page. -/
def leafTarget (s : State) (leaf : Word) (dpa : Nat) : Target :=
  { peer := if bits leaf 63 52 = devid s then none else some (bits leaf 63 52)
    dpa := dpa
    nc := bit leaf 16
    cv := bit leaf 13
    ver := bit leaf 12
    cmp := bit leaf 11
    alloc := BitVec.ofNat 2 (bits leaf 15 14) }

/-- A leaf's checks (R37): malformed attributes, permissions, memory, registered attributes (log 12). -/
def leafCheck (s : State) (leaf : Word) (dpa : Nat) (want : Want) (user : Bool) : Option XErr :=
  let t := leafTarget s leaf dpa
  let w := want == .write || want == .both
  if (t.cv && !t.ver) || (t.peer.isSome && (t.cv || t.ver || t.cmp || t.alloc != 0)) then some (.xlate 3 0)
  else if ((want == .read || want == .both) && !bit leaf 4) || (w && (!bit leaf 5 || t.cv)) ||
      (want == .fetch && !bit leaf 6) || (user && !bit leaf 7) then some (.xlate 2 dpa)
  else if t.peer.isSome then none
  else if !hasMem s dpa then some (.xlate 5 dpa)
  else if !attrOk s dpa t.cmp t.ver then some (.xlate 4 dpa)
  else none

/-- The atomic OR of bits into a leaf entry at its home slice, one serial step (R39, R120). -/
def orAtSlice (s : State) (lptr : Nat) (w : Word) : RmwRes :=
  sliceRmw s .loc .never lptr 8 fun old => (some (old ||| w.toNat), 0)

/-- The atomic OR is performed. -/
def orTakes (s : State) (lptr : Nat) (w : Word) : Bool :=
  match orAtSlice s lptr w with
  | .done _ _ _ => true
  | _ => false

/-- Set bits of a leaf entry (R39). An OR that is refused for want of a shadow is not performed, and the access goes on (R151;
log 12). -/
def orEntry (s : State) (lptr : Nat) (w : Word) : State :=
  match orAtSlice s lptr w with
  | .done t _ _ => t
  | .full t _ => t
  | _ => s

/-- A leaf entry waits at its slice (R121, R175). -/
def entryHeld (s : State) (lptr : Nat) : Bool :=
  lineHeld s (lptr / 128) || (lineVer s (lptr / 128) && s.ks.state == .voted)

def bitA : Word := 0x200

def bitD : Word := 0x400

/-- The stretch a cached leaf serves: a 64 KiB page's 16 entries each serve their own 4 KiB (R34). -/
def granule (psz : Nat) : Nat := if psz = 2 ^ 16 then 4096 else psz

/-- A cached translation for a VA under an XID (R35); G = 1 matches every XID. -/
def tlbFind (t : List TlbEntry) (xid : BitVec 16) (va : Nat) : Option TlbEntry :=
  t.find? fun e => (e.xid == xid || bit e.leaf 8) && e.page == va / granule e.psz * granule e.psz

/-- A unit's translation state: XID, held root entry, cached translations. -/
structure XUnit where
  xid  : BitVec 16
  root : Word
  tlb  : List TlbEntry
  deriving DecidableEq, Repr

/-- Look up or walk (R34, R35), without any effect. -/
def lookup (s : State) (u : XUnit) (va : Nat) : Except XErr Found :=
  match tlbFind u.tlb u.xid va with
  | some e =>
    .ok ⟨e.leaf, e.lptr, e.psz, bits e.leaf 51 20 * 4096 / e.psz * e.psz + va % e.psz⟩
  | none => walk s va 7 57 u.root 0

/-- Translate one address (R34 to R39). `spec`: no A or D bit is set and nothing is cached (R44). `dirty`: set D for a
write. Answers the state, the unit's new cache, and where the address lands. -/
def translate (s : State) (u : XUnit) (want : Want) (user spec dirty : Bool) (va : Nat) :
    Except XErr (State × List TlbEntry × Target × Option Nat) :=
  match lookup s u va with
  | .error e => .error e
  | .ok f =>
    match leafCheck s f.leaf f.dpa want user with
    | some e => .error e
    | none =>
      let t := leafTarget s f.leaf f.dpa
      if spec then .ok (s, u.tlb, t, some f.lptr)
      else
        let cached := (tlbFind u.tlb u.xid va).isSome
        let need : Word := (if cached || bit f.leaf 9 then 0 else bitA) |||
          (if dirty && !bit f.leaf 10 then bitD else 0)
        if need ≠ 0 ∧ entryHeld s f.lptr then .error .held
        else if need ≠ 0 ∧ entryBad s f.lptr then .error (.data f.lptr)
        else
        let leaf := f.leaf ||| (if need ≠ 0 ∧ orTakes s f.lptr need then need else 0)
        let s := if need = 0 then s else orEntry s f.lptr need
        let ent : TlbEntry :=
          { xid := u.xid, page := va / granule f.psz * granule f.psz, psz := f.psz, leaf := leaf, lptr := f.lptr }
        let tlb := if cached ∧ need = 0 then u.tlb
          else ent :: u.tlb.filter fun e => !(e.page == ent.page && e.psz == ent.psz && e.xid == ent.xid)
        .ok (s, tlb, t, some f.lptr)

/-! ## Translation by a core -/

/-- A core's translation state. -/
def coreUnit (k : Core) : XUnit := ⟨k.xid, k.root, k.tlb⟩

/-- A system core's addresses are local DPAs until XROOT has been written (R460). -/
def untranslated (s : State) (c : Nat) : Bool := isSystem c && (tabGet s.regs rXroot).isNone

/-- An untranslated target (R460): it bypasses the L1 and fills no Deck line (log 4). -/
def plainTarget (dpa : Nat) : Target :=
  { peer := none, dpa := dpa, nc := true, cv := false, ver := false, cmp := false, alloc := 2 }

/-- Translate one address below NW for core c. -/
def coreTarget (s : State) (c : Nat) (want : Want) (user spec dirty : Bool) (va : Nat) :
    Except XErr (State × Target × Option Nat) :=
  if untranslated s c then
    let dpa := va % 2 ^ 44
    if hasMem s dpa then .ok (s, plainTarget dpa, none) else .error (.xlate 5 dpa)
  else
    match translate s (coreUnit (core s c)) want user spec dirty va with
    | .error e => .error e
    | .ok (s, tlb, t, l) => .ok (modCore s c fun k => { k with tlb := tlb }, t, l)

/-- Locate the n bytes at va of an access that lies within one line (R28, R29, R46). -/
def coreLoc (s : State) (c : Nat) (want : Want) (user spec dirty : Bool) (va n : Nat) : Except XErr (State × Loc) :=
  if NW < va + n then
    if va < NW ∨ want = .fetch then .error .window
    else
      match nearLoc s c (va - NW) n with
      | none => .error .window
      | some l => .ok (s, l)
  else
    match coreTarget s c want user spec dirty va with
    | .error e => .error e
    | .ok (s, t, l) => .ok (s, .dev t l)

/-- A near-window access of several lines lies in one permitted stretch of one slot (R46). -/
def nearWhole (s : State) (c va n : Nat) : Bool :=
  decide (va + n ≤ NW) || (decide (NW ≤ va) && (nearLoc s c (va - NW) n).isSome)

/-- Locate each line of a run of n bytes at va, all before any byte is performed (R46). -/
def coreRun (c : Nat) (want : Want) (user dirty : Bool) :
    State → List (Nat × Nat) → Except XErr (State × List (Nat × Nat × Loc))
  | s, [] => .ok (s, [])
  | s, (a, n) :: r =>
    match coreLoc s c want user false dirty a n with
    | .error e => .error e
    | .ok (s, l) =>
      match coreRun c want user dirty s r with
      | .error e => .error e
      | .ok (s, ls) => .ok (s, (a, n, l) :: ls)

/-- Load a unit's XID: its root entry is read into the unit (R27, R33). -/
def loadXid (s : State) (c : Nat) (x : BitVec 16) : State :=
  modCore s c fun k => { k with xid := x, root := rootEntry s x.toNat }

/-- The host window's translation state (R26). -/
def hostUnit (s : State) : XUnit := ⟨BitVec.ofNat 16 (bits (reg s rHxid) 15 0), s.hostRoot, s.hostTlb⟩

/-- A unit without a cache of its own that walks under an XID: Collie and the port walkers (R26). -/
def walkUnit (s : State) (xid : BitVec 16) : XUnit := ⟨xid, rootEntry s xid.toNat, []⟩

/-- Read n bytes under an XID as Collie does (R404, R411): an acquire load of the open view at the home slices, in user
mode. None when a page or a permission fails, at the near window, at a peer, or on poison. -/
def readVia (xid : BitVec 16) : State → List (Nat × Nat) → Option (State × List Byte)
  | s, [] => some (s, [])
  | s, (a, n) :: r =>
    if NW < a + n then none
    else
      match translate s (walkUnit s xid) .read true false false a with
      | .error _ => none
      | .ok (s, _, t, _) =>
        if t.peer.isSome then none
        else
          let (s, l, bad) := sliceRead s (policyOf t) t.cv (t.dpa / 128) (t.dpa % 128) n
          if bad then none
          else
            match readVia xid s r with
            | none => none
            | some (s, bs) => some (s, bytesFrom l (t.dpa % 128) n ++ bs)

end Sys2Proof.Machine
end

