-- ==== Sys2Proof/Machine/Cache.lean ====
section
/-! DEFINITION. Sys2Proof/Machine/Cache.lean: the L1 of a core (R54 to R58), the writes a core has in flight (R293), and
releases and acquires (R84 to R88). -/

namespace Sys2Proof.Machine

/-! ## Lines -/

/-- The tag of a line: device identifier and DPA (R54). 0 stands for this device. -/
def l1Key (t : Target) : Nat := (match t.peer with | none => 0 | some d => d + 1) * 2 ^ 37 + t.dpa / 128

/-- Sets of a core's L1 (R54). -/
def l1Sets (k : Core) : Nat := (bnd2 k - bnd1 k) / 1024

/-- Accesses to a target go through the L1 (R54, R294). -/
def usesL1 (k : Core) (t : Target) : Bool := !t.nc && !t.ver && !t.cv && l1Sets k != 0

/-- The target of the line that holds a target. -/
def lineTarget (t : Target) : Target := { t with dpa := t.dpa / 128 * 128 }

/-- Issue a write: it is in flight until its home slice acknowledges it (R293). -/
def postWrite (s : State) (c : Nat) (w : Write) : State :=
  let (s, id) := freshId s
  modCore s c fun k => { k with writes := k.writes ++ [{ w with id := id }] }

/-- A masked write of one line in flight, carrying stores of the given roles. -/
def plainWrite (roles : BitVec 3) (w : LineWrite) (site : Site) : Write :=
  { id := 0, roles := roles, w := w, place := .slice, after := 0, rel := .core, thru := false, precise := false, lane := 0,
    performed := false, refused := none, tag := none, site := site }

/-- The site of a write-back: none (R443 names no word for it). -/
def noSite : Site := ⟨0, 0, 0⟩

/-- Write back the dirty bytes of a line (R55, R56). -/
def writeBackLine (s : State) (c : Nat) (l : L1Line) : State :=
  if l.dirty = 0 then s
  else postWrite s c (plainWrite l.writer ⟨lineTarget l.tgt, l.dirty, l.data⟩ noSite)

/-- A role whose outstanding loads no longer fill a line of the L1: newer bytes of the line have left it. A load of a peer's
line that has been asked for is asked for again (R80). -/
def roleStopFill (key : Nat) (x : Role) : Role :=
  let part (p : LoadPart) : LoadPart := if l1Key p.tgt = key then { p with fill := false } else p
  { x with loads := x.loads.map fun l => { l with parts := l.parts.map part } }

/-- No outstanding load or prefetch of the core fills the line any more. -/
def stopFill (s : State) (c key : Nat) : State :=
  modCore s c fun k =>
    { k with
      prefs := k.prefs.filter fun e => l1Key e.2 != key
      roleL := roleStopFill key k.roleL
      roleC := roleStopFill key k.roleC
      roleS := roleStopFill key k.roleS }

/-- Eviction (R55). -/
def l1Evict (s : State) (c key : Nat) : State :=
  match tabGet (core s c).l1 key with
  | none => s
  | some l => stopFill (modCore (writeBackLine s c l) c fun k => { k with l1 := tabDel k.l1 key }) c key

/-- Make room in the set of a line: with eight lines there, a free choice of victim goes (R54; log 9). -/
def l1Room (s : State) (c key : Nat) : State :=
  let k := core s c
  if k.l1.length < 8 then s
  else
    let n := max 1 (l1Sets k)
    let same := (k.l1.filter fun e => Config.l1Index e.1 % n == Config.l1Index key % n).map (·.1)
    if same.length < 8 then s else nextTick (l1Evict s c (same.getD (Config.l1Victim s.tick % same.length) 0))

/-- Set a line of the L1. -/
def putL1 (s : State) (c key : Nat) (l : L1Line) : State :=
  modCore s c fun k => { k with l1 := tabSet k.l1 key l }

/-- Store masked bytes into the L1 (R55): the line is allocated if absent, without a fetch. -/
def l1Store (s : State) (c : Nat) (r : RoleId) (t : Target) (mask : BitVec 128) (d : Line) : State :=
  let key := l1Key t
  match tabGet (core s c).l1 key with
  | some l =>
    putL1 s c key ⟨l.tgt, mergeLine mask l.data d, l.valid ||| mask, l.dirty ||| mask, l.writer ||| roleBit r⟩
  | none => putL1 (l1Room s c key) c key ⟨lineTarget t, mergeLine mask 0 d, mask, mask, roleBit r⟩

/-- Fill a line from its home slice: only bytes that are not dirty (R55). -/
def l1Fill (s : State) (c : Nat) (t : Target) (d : Line) : State :=
  let key := l1Key t
  match tabGet (core s c).l1 key with
  | some l => putL1 s c key { l with data := mergeLine (~~~l.dirty) l.data d, valid := BitVec.allOnes 128 }
  | none => putL1 (l1Room s c key) c key ⟨lineTarget t, d, BitVec.allOnes 128, 0, 0⟩

/-- An stl that writes through: a line that the L1 holds takes the new value of its bytes, which are clean then (R297; log
7). -/
def l1Through (s : State) (c : Nat) (t : Target) (mask : BitVec 128) (d : Line) : State :=
  match tabGet (core s c).l1 (l1Key t) with
  | none => s
  | some l =>
    putL1 s c (l1Key t) { l with data := mergeLine mask l.data d, valid := l.valid ||| mask, dirty := l.dirty &&& ~~~mask }

/-- Write back and invalidate one line, whichever role wrote it (R57, R163). -/
def l1Purge (s : State) (c : Nat) (t : Target) : State := stopFill (l1Evict s c (l1Key t)) c (l1Key t)

/-- Write-back for a role (R56): its lines' dirty bytes leave; the lines stay valid and have no writer. -/
def writeBack (s : State) (c : Nat) (r : RoleId) : State :=
  let mine (l : L1Line) : Bool := (l.writer &&& roleBit r) != 0
  let s' := (core s c).l1.foldl (fun s e => if mine e.2 then stopFill (writeBackLine s c e.2) c e.1 else s) s
  let clean (e : Nat × L1Line) : Nat × L1Line := if mine e.2 then (e.1, { e.2 with dirty := 0, writer := 0 }) else e
  modCore s' c fun k => { k with l1 := k.l1.map clean }

/-- Loads of a role whose lines are no longer to fill the L1. -/
def noFill (x : Role) : Role :=
  { x with loads := x.loads.map fun l => { l with parts := l.parts.map fun p => { p with fill := false } } }

/-- Invalidation (R56): every clean valid byte becomes not valid; fetches on their way no longer fill (log 7). -/
def invalidate (s : State) (c : Nat) : State :=
  modCore s c fun k =>
    { k with
      prefs := []
      l1 := (k.l1.map fun e => (e.1, { e.2 with valid := e.2.dirty })).filter fun e => e.2.valid != 0
      roleL := noFill k.roleL
      roleC := noFill k.roleC
      roleS := noFill k.roleS }

/-- Write back every dirty byte and empty the L1 (R58). -/
def l1Flush (s : State) (c : Nat) : State :=
  let s' := (core s c).l1.foldl (fun s e => writeBackLine s c e.2) s
  modCore s' c fun k => { k with l1 := [], prefs := [], roleL := noFill k.roleL, roleC := noFill k.roleC, roleS := noFill k.roleS }

/-! ## Writes and their completion -/

/-- A write-back of the L1, whose stores were performed in the L1 (R55, R86). -/
def isBack (w : Write) : Bool := w.site == noSite

/-- A release at a scope waits for a write (R86): at core and cluster scope for a store of this device that is not
cacheable and for an stl, at device scope for write-backs as well (R56), at system scope for plain writes to peers too. -/
def relCounts (x : Scope) (w : Write) : Bool :=
  let here := w.place != .slice || w.w.tgt.peer.isNone || w.after != 0
  match x with
  | .core | .clu => !isBack w && here
  | .dev => isBack w || here
  | .sys => true

/-- A write of role r numbered below `bound`, that a release at a scope waits for, is not yet acknowledged. -/
def unacked (k : Core) (r : RoleId) (x : Scope) (bound : Nat) : Bool :=
  k.writes.any fun w => (w.roles &&& roleBit r) != 0 && decide (w.id < bound) && relCounts x w

/-- Begin a release (R86): at device and system scope the role's lines are written back. -/
def beginRelease (s : State) (c : Nat) (r : RoleId) (x : Scope) : State :=
  match x with
  | .dev | .sys => writeBack s c r
  | _ => s

/-- Acquire (R86): at device and system scope the L1's clean bytes go. -/
def acquire (s : State) (c : Nat) (x : Scope) : State :=
  match x with
  | .dev | .sys => invalidate s c
  | _ => s

/-- A store of the role that is held for the L1 has not landed there yet: an stl at core or cluster scope, which a wider
release counts as a store (R87). -/
def heldForL1 (s : State) (c : Nat) (r : RoleId) : Bool :=
  (core s c).writes.any fun w => (w.roles &&& roleBit r) != 0 && w.place == .l1

/-- A release at a scope may begin: the role's earlier loads are performed, and what its write-back must carry is in the L1. -/
def relReady (s : State) (c : Nat) (r : RoleId) (x : Scope) : Bool :=
  (getRole s c r).loads.isEmpty &&
    match x with
    | .dev | .sys => !heldForL1 s c r
    | _ => true

/-- Scopes from narrow to wide. -/
def scopeRank : Scope → Nat
  | .core => 0
  | .clu => 1
  | .dev => 2
  | .sys => 3

/-- A release store of the role has not completed. -/
def stlPending (s : State) (c : Nat) (r : RoleId) : Bool :=
  (core s c).writes.any fun w => (w.roles &&& roleBit r) != 0 && w.after != 0

/-- A release store of the role at a scope or wider has not completed (R112 note (a)). -/
def stlBefore (s : State) (c : Nat) (r : RoleId) (x : Scope) : Bool :=
  (core s c).writes.any fun w =>
    (w.roles &&& roleBit r) != 0 && w.after != 0 && decide (scopeRank x ≤ scopeRank w.rel)

/-- Every earlier memory operation of the role has been performed at core scope (R86, R89). -/
def coreQuiet (s : State) (c : Nat) (r : RoleId) : Bool :=
  (getRole s c r).loads.isEmpty && !unacked (core s c) r .core s.nextId

/-- The role is drained: its loads are performed and its writes acknowledged, wherever they go (R40, R92). -/
def roleDrained (s : State) (c : Nat) (r : RoleId) : Bool :=
  (getRole s c r).loads.isEmpty && !unacked (core s c) r .sys s.nextId

/-- The bounds of a role's releases, once a release at a scope has begun at number n. -/
def boundAt (x : Scope) (n : Nat) (y : Role) : Role :=
  { y with
    relBound := n
    relDev := if x = .dev ∨ x = .sys then n else y.relDev
    relSys := if x = .sys then n else y.relSys }

/-- Releases that the role began are complete, so what the PH row orders may go on (R86, R302; log 8). -/
def relSettled (s : State) (c : Nat) (r : RoleId) : Bool :=
  let x := getRole s c r
  let k := core s c
  !unacked k r .core x.relBound && !unacked k r .dev x.relDev && !unacked k r .sys x.relSys

/-- An acquire of the role at a scope passes no earlier release of it at that scope or wider (R112 note (a)). -/
def acqReady (s : State) (c : Nat) (r : RoleId) (x : Scope) : Bool := relSettled s c r && !stlBefore s c r x

/-- Some access of the role to the line is still to fix its value or its place: an outstanding load, or a held store
(log 7). -/
def lineBusy (s : State) (c : Nat) (r : RoleId) (t : Target) : Bool :=
  (getRole s c r).loads.any (fun l => l.parts.any fun p => l1Key p.tgt == l1Key t) ||
    (core s c).writes.any fun w => (w.roles &&& roleBit r) != 0 && !w.performed &&
      (w.thru || w.place != .slice) && l1Key w.w.tgt == l1Key t

/-- A line of an open snapshot range, as the core's copy holds it (R163). -/
def inOpenRange (s : State) (t : Target) : Bool := t.peer.isNone && (lineLevel s (t.dpa / 128)).isSome

end Sys2Proof.Machine
end

