-- ==== Sys2Proof/Machine/Tasks.lean ====
section
/-! DEFINITION. Sys2Proof/Machine/Tasks.lean: task records (R396 to R399), Collie's pool, instances and Kennel (R403 to
R405), edges and successor lists (R407 to R409), completion words (R277), failure and cancellation (R417). -/

namespace Sys2Proof.Machine

/-! ## Record checks (R396 to R399) -/

/-- Address of footprint region k and its length in bytes. -/
def region (ws : List Word) (k : Nat) : Nat × Nat :=
  let w := ws.getD (8 + k) 0
  (bits w 44 0 * 4096, (bits w 61 45 + 1) * 4096)

/-- Mode of footprint region k: 0 unused, 1 R, 2 W, 3 RW. -/
def regionMode (ws : List Word) (k : Nat) : Nat := bits (ws.getD (8 + k) 0) 63 62

/-- The three boundaries of R51. -/
def bndOk (b0 b1 b2 : Nat) : Bool :=
  decide (1 ≤ b0 ∧ b0 ≤ b1 ∧ b1 ≤ b2 ∧ b2 ≤ 0x5F) && [0, 1, 2, 4, 8, 16, 32].contains (b2 - b1)

/-- Bits [hi:lo] of word i are nonzero: the byte offset at which they start. -/
def nz (ws : List Word) (i hi lo : Nat) : List Nat :=
  if bits (ws.getD i 0) hi lo ≠ 0 then [8 * i + lo / 8] else []

/-- The boundary field at fault when a record breaks R51; none when it keeps it. DESIGN CHOICE (log 28): R51 and R399 say 'the
boundary field' only; the model names the first of BND0, BND1, BND2 whose own limit or order against the next is broken, and
BND1 when only the size of the L1 is not one of R51's. -/
def bndFault (b0 b1 b2 : Nat) : List Nat :=
  if b0 = 0 ∧ b1 = 0 ∧ b2 = 0 ∨ bndOk b0 b1 b2 then []
  else if b0 = 0 ∨ b1 < b0 then [9]
  else if b2 < b1 then [10]
  else if 0x5F < b2 then [11]
  else [10]

/-- The fields of a node's record that its kind does not use (R398): WIN, the affinity fields, HC, WC, VOTE, the boundaries,
FMTP, PRO, the footprint and the arguments. -/
def nodeUnused (ws : List Word) : List Nat :=
  nz ws 0 37 22 ++ nz ws 0 21 21 ++ nz ws 0 20 20 ++ nz ws 0 19 17 ++ nz ws 0 16 14 ++ nz ws 0 13 11 ++ nz ws 0 10 9 ++
    nz ws 0 8 7 ++ nz ws 0 6 6 ++ nz ws 1 14 8 ++ nz ws 1 22 16 ++ nz ws 1 30 24 ++ nz ws 2 56 0 ++ nz ws 3 56 0 ++
    ([8, 9, 10, 11].flatMap fun i => nz ws i 63 62 ++ nz ws i 61 45 ++ nz ws i 44 0) ++
    ([12, 13, 14, 15].flatMap fun i => nz ws i 63 0)

/-- Byte offsets of the offending fields of a record (R399). `cont`: it comes from a home slice. DESIGN CHOICE (log 28): of two
fields that offend together the model names PREDS for PREDS > 0 with GI = 0, AX or AY for an origin that its size does not
divide, and BASE for a region that wraps or reaches NW. -/
def offences (ws : List Word) (cont : Bool) : List Nat :=
  let w0 := ws.getD 0 0
  let w1 := ws.getD 1 0
  let kind := bits w0 2 0
  let node := kind == 2 || kind == 3
  let w := widthOf (bits w0 8 7)
  let h := heightOf (bits w0 10 9)
  (if 4 < kind ∨ (kind = 4 ∧ !cont) ∨ (kind ≠ 4 ∧ cont) then [0] else [])
    ++ nz ws 0 3 3
    ++ nz ws 1 7 0 ++ nz ws 1 15 15 ++ nz ws 1 23 23 ++ nz ws 1 31 31
    ++ ([2, 3, 4, 5, 6, 7].flatMap fun i => nz ws i 63 57)
    ++ ([2, 3, 4, 5, 6, 7].flatMap fun i => nz ws i 2 0)
    ++ (if kind = 1 then (if bits w1 63 32 = 0 then [12] else []) else nz ws 1 63 32)
    ++ (if kind = 1 then [] else nz ws 4 56 0 ++ nz ws 5 56 0)
    ++ (if node then [] else nz ws 7 56 0)
    ++ (if node then
          nodeUnused ws ++
            (if bits (ws.getD 6 0) 56 0 = 0 then [48] else []) ++ (if bits (ws.getD 7 0) 56 0 = 0 then [56] else [])
        else bndFault (bits w1 14 8) (bits w1 22 16) (bits w1 30 24))
    ++ (if kind = 4 then nz ws 0 53 38 ++ nz ws 0 63 54 ++ nz ws 6 56 0 else [])
    ++ (if bits w0 63 54 ≠ 0 ∧ bits w0 53 38 = 0 then [6] else [])
    ++ (if bit w0 20 then
          (if 4 < bits w0 19 17 then [2] else []) ++
            (if 5 < bits w0 13 11 ∨ bits w0 16 14 % w ≠ 0 ∨ bits w0 13 11 % h ≠ 0 then [1] else [])
        else [])
    ++ ([0, 1, 2, 3].flatMap fun k =>
          if regionMode ws k = 0 then nz ws (8 + k) 61 45 ++ nz ws (8 + k) 44 0
          else if NW < (region ws k).1 + (region ws k).2 then [64 + 8 * k] else [])

/-- The first offending offset of a record, if it is refused. -/
def recordFault (ws : List Word) (cont : Bool) : Option Nat := (offences ws cont).min?

/-! ## The pool -/

/-- A launch-fault record of a task (R399); of a continuation, that of R143 for the statuses R143 names. -/
def launchFault (s : State) (d : Nat) (t : Task) (kind status off : Nat) : State :=
  match t.launch with
  | some l =>
    if kind = 5 ∧ status ≤ 3 then
      fqPush s d [ofFields [(48, l.xid.toNat), (40, 4), (30, l.core.toNat), (28, l.role.toNat), (20, status),
        (8, l.cidx.toNat), (0, t.slice)], BitVec.ofNat 64 l.va.toNat, l.old, l.x2, l.x3, BitVec.ofNat 64 l.dpa]
    else fqPush s d [ofFields [(48, t.xid.toNat), (40, kind), (30, t.core.toNat), (28, t.role.toNat), (20, status),
        (0, t.gi.toNat)], BitVec.ofNat 64 t.recVa.toNat, BitVec.ofNat 64 off, BitVec.ofNat 64 t.cw.toNat]
  | none => fqPush s d [ofFields [(48, t.xid.toNat), (40, kind), (30, t.core.toNat), (28, t.role.toNat), (20, status),
      (0, t.gi.toNat)], BitVec.ofNat 64 t.recVa.toNat, BitVec.ofNat 64 off, BitVec.ofNat 64 t.cw.toNat]

/-- Record a task event in the die's trace ring (R452); a full ring overwrites its oldest record. -/
def traceEvent (s : State) (d event : Nat) (t : Task) : State :=
  let b := reg s (rTrbase d)
  if bit b 63 then
    let n := 2 ^ bits b 4 0
    let p := reg s (rTrptr d)
    let h := bits p 31 16
    let (clu, x0, y0) := t.place.getD (0, 0, 0)
    let pl := if 3 ≤ event ∧ event ≤ 6 then [(37, clu % 5), (34, x0), (31, y0)] else []
    let s := rawWrite s (bits b 43 12 * 4096 + 32 * h) (wordsBytes
      [ofFields ([(48, t.xid.toNat), (40, event), (0, t.gi.toNat)] ++ pl), BitVec.ofNat 64 t.recVa.toNat,
        BitVec.ofNat 64 t.pos, Config.clockAt (1010 + d) s.tick])
    let h' := (h + 1) % n
    let s := putReg s (rTrptr d) 31 16 h'
    if h' = bits p 15 0 % n then countReg (putReg s (rTrptr d) 15 0 ((h' + 1) % n)) (rTrptr d) 63 48 1 else s
  else s

def modTask (s : State) (d id : Nat) (f : Task → Task) : State :=
  let x := collie s d
  let g (t : Task) : Task := if t.id = id then f t else t
  setCollie s d { x with pool := x.pool.map g, kennel := x.kennel.map g }

/-- Every record of a Collie that is not complete, the Kennel's included. -/
def allTasks (x : Collie) : List Task := x.pool ++ x.kennel.filter fun t => !t.decided

def anyTask (x : Collie) (id : Nat) : Option Task := (allTasks x).find? fun t => t.id == id

def instOf (x : Collie) (xid gi : BitVec 16) : Option GraphInst := x.insts.find? fun i => i.xid == xid && i.gi == gi

def modInst (s : State) (d : Nat) (xid gi : BitVec 16) (f : GraphInst → GraphInst) : State :=
  let x := collie s d
  setCollie s d { x with insts := x.insts.map fun i => if i.xid = xid ∧ i.gi = gi then f i else i }

/-- Remove a record; its instance goes with its last incomplete task (R403, R417). -/
def dropTask (s : State) (d id : Nat) : State :=
  let x := collie s d
  let keep (t : Task) : Bool := t.id != id
  let x := { x with pool := x.pool.filter keep
                    kennel := x.kennel.map fun (t : Task) => if t.id = id then { t with decided := true } else t }
  let x := { x with insts := x.insts.filter fun i => (allTasks x).any fun (t : Task) => t.xid == i.xid && t.gi == i.gi
                    reserve := x.reserve.filter fun e => e.1 != id
                    remote := x.remote.filter fun e => e.id != id || x.orphans.any fun t => t.id == id }
  setCollie { s with probes := s.probes.filter fun p => p.who != .collie d id } d x

/-- A write to a target waits at its slice: the line is held, or is of a VER page while Keystone is VOTED (R121). -/
def targetWaits (s : State) (t : Target) : Bool :=
  t.peer.isNone && (lineHeld s (t.dpa / 128) || (lineVer s (t.dpa / 128) && s.ks.state == .voted))

/-- A task's completion word waits at its slice, or its leaf entry does (R121). -/
def completionWaits (s : State) (t : Task) : Bool :=
  t.cw != 0 && decide (t.cw.toNat < NW) &&
    (match translate s (walkUnit s t.xid) .write true false true t.cw.toNat with
    | .error e => e == .held
    | .ok (_, _, tgt, _) => targetWaits s tgt)

/-- A completion word that waits is kept for later. -/
def lateWord (s : State) (d : Nat) (t : Task) (code : Nat) : State :=
  setCollie s d { collie s d with late := (collie s d).late ++ [(t, code)] }

/-- Write a completion word with an outcome code, as a release at device scope under the task's XID (R277); a failed
translation gives STATUS 0x07. A word whose line is held is kept for later. -/
def writeCompletion (s : State) (d : Nat) (t : Task) (code : Nat) : State :=
  if t.cw = 0 then s
  else if NW ≤ t.cw.toNat then launchFault s d t 5 7 0
  else
    match translate s (walkUnit s t.xid) .write true false true t.cw.toNat with
    | .error .held => lateWord s d t code
    | .error _ => launchFault s d t 5 7 0
    | .ok (s, _, tgt, _) =>
      match tgt.peer with
      | some dev =>
        (peerSend s dev (.write (BitVec.ofNat 44 (tgt.dpa / 128 * 128)) (byteMask (tgt.dpa % 128) 8)
          (bytesAt (tgt.dpa % 128) (leBytes 8 code))) (.word d t)).1
      | none =>
        if targetWaits s tgt then lateWord s d t code
        else
        let m := byteMask (tgt.dpa % 128) 8
        let l := bytesAt (tgt.dpa % 128) (leBytes 8 code)
        match sliceWrite s .loc (policyOf tgt) false (tgt.dpa / 128) m l with
        | .done s => s
        | .full s _ => launchFault s d t 5 7 0
        | _ => lateWord s d t code

/-! ## Successor lists (R408) -/

/-- Where a read of a Collie under an XID lands; none where it fails. -/
def collieTarget (s : State) (xid : BitVec 16) (va n : Nat) : Option Target :=
  if NW < va + n then none
  else
    match translate s (walkUnit s xid) .read true true false va with
    | .error _ => none
    | .ok (_, _, t, _) => some t

/-- The read that a Collie has made for a task of a peer's bytes. -/
def remoteAt (s : State) (d id dev dpa n : Nat) : Option Remote :=
  (collie s d).remote.find? fun e => e.id == id && e.dev == dev && e.dpa == dpa && e.n == n

/-- Read bytes as Collie does, under a task's XID; a peer's bytes are those it has answered. -/
def collieBytes (d id : Nat) (xid : BitVec 16) : State → List (Nat × Nat) → Option (State × List Byte)
  | s, [] => some (s, [])
  | s, (a, n) :: r =>
    let here : Option (State × List Byte) := match collieTarget s xid a n with
      | none => none
      | some t =>
        match t.peer with
        | none => readVia xid s [(a, n)]
        | some dev => ((remoteAt s d id dev t.dpa n).bind (·.ans)).bind fun x => x.map fun bs => (s, bs)
    match here with
    | none => none
    | some (s, bs) => (collieBytes d id xid s r).map fun q => (q.1, bs ++ q.2)

def collieRead (s : State) (d id : Nat) (xid : BitVec 16) (va n : Nat) : Option (State × List Byte) :=
  collieBytes d id xid s (linesOf va n)

/-- A read of Collie's awaits a peer's answer. -/
def collieAbroad (s : State) (d id : Nat) (xid : BitVec 16) (va n : Nat) : Bool :=
  (linesOf va n).any fun p =>
    match collieTarget s xid p.1 p.2 with
    | none => false
    | some t =>
      match t.peer with
      | none => false
      | some dev => ((remoteAt s d id dev t.dpa p.2).bind (·.ans)).isNone

/-- A line of a read of Collie's, or an entry of its walk, is held at its slice (R70, R121, R156). -/
def collieHeld (s : State) (xid : BitVec 16) (va n : Nat) : Bool :=
  (linesOf va n).any fun p =>
    decide (p.1 + p.2 ≤ NW) &&
      match translate s (walkUnit s xid) .read true false false p.1 with
      | .error e => e == .held
      | .ok (_, _, t, _) => t.peer.isNone && lineHeld s (t.dpa / 128)

/-- A read of Collie's must wait. -/
def collieWaits (s : State) (d id : Nat) (xid : BitVec 16) (va n : Nat) : Bool :=
  collieHeld s xid va n || collieAbroad s d id xid va n

/-- Ask peers for the bytes of a read that they hold, once. -/
def collieAsk (s : State) (d id : Nat) (xid : BitVec 16) (va n : Nat) : State :=
  (linesOf va n).foldl (fun s p =>
    match collieTarget s xid p.1 p.2 with
    | none => s
    | some t =>
      match t.peer with
      | none => s
      | some dev =>
        if (remoteAt s d id dev t.dpa p.2).isSome then s
        else
          let s := match translate s (walkUnit s xid) .read true false false p.1 with
            | .error _ => s
            | .ok (s, _, _, _) => s
          let (s, tag) := peerSend s dev (.read (BitVec.ofNat 44 t.dpa) p.2) (.collie d)
          let x := collie s d
          setCollie s d { x with remote := x.remote ++ [{ tag := tag, id := id, dev := dev, dpa := t.dpa, n := p.2, ans := none }] })
    s

/-- What peers have answered for a task has been used. -/
def forgetRemote (s : State) (d id : Nat) : State :=
  let x := collie s d
  if x.remote.isEmpty then s else setCollie s d { x with remote := x.remote.filter fun e => e.id != id || e.ans.isNone }

/-- An entry of a list is well formed for its place. -/
def entryOk (kind : Nat) (inA : Bool) (e : Word) : Bool :=
  if bit e 63 then false
  else if bit e 62 then bits e 61 57 == 0 && bits e 6 0 == 0
  else bits e 61 8 == 0 && bits e 7 0 != 0 && !(kind == 2 || (kind == 3 && inA))

/-- A property of the reads that a task's list takes: of its header and, once that is read, of its entries. -/
def listAny (s : State) (d : Nat) (t : Task) (f : (va n : Nat) → Bool) : Bool :=
  let a := bits (taskWord t 6) 56 0
  a != 0 && (f a 8 ||
    match collieRead s d t.id t.xid a 8 with
    | none => false
    | some (_, hb) => f (a + 8) (8 * min 64 (leNat hb % 65536)))

/-- Reading a task's list must wait. -/
def listWaits (s : State) (d : Nat) (t : Task) : Bool := listAny s d t (collieWaits s d t.id t.xid)

/-- Ask peers for what they hold of a task's list. -/
def askList (s : State) (d : Nat) (t : Task) : State :=
  let a := bits (taskWord t 6) 56 0
  if a = 0 then s
  else
    let s := collieAsk s d t.id t.xid a 8
    match collieRead s d t.id t.xid a 8 with
    | none => s
    | some (_, hb) => collieAsk s d t.id t.xid (a + 8) (8 * min 64 (leNat hb % 65536))

/-- A task's list: its entries and NA; the error is the STATUS of R399. -/
def readList (s : State) (d : Nat) (t : Task) : Except Nat (State × List Word × Nat) :=
  let a := bits (taskWord t 6) 56 0
  if a = 0 then .ok (s, [], 0)
  else
    match collieRead s d t.id t.xid a 8 with
    | none => .error 4
    | some (s, hb) =>
      let h := leNat hb
      let n := h % 65536
      let na := h / 65536 % 65536
      let kind := taskKind t
      let node := kind == 2 || kind == 3
      if 2 ^ 32 ≤ h ∨ 64 < n ∨ n < na ∨ (!node ∧ na ≠ 0) then .error 6
      else
        match collieRead s d t.id t.xid (a + 8) (8 * n) with
        | none => .error 4
        | some (s, bs) =>
          let es := wordsOf n bs
          if (es.zipIdx.all fun p => entryOk kind (decide (p.2 < na)) p.1) then .ok (s, es, na) else .error 6

/-! ## Counts and readiness (R407 to R411) -/

/-- Waiting tasks of count 0 become ready, in pool order; a node of a failed instance is cancelled by the caller. -/
def wakeReady (s : State) (d : Nat) : State :=
  let x := collie s d
  x.pool.foldl (fun s t =>
    if t.st = .waiting ∧ t.expl = 0 ∧ t.edges.isEmpty then
      let y := collie s d
      let s := setCollie s d { y with readyNo := y.readyNo + 1 }
      traceEvent (modTask s d t.id fun u => { u with st := .ready, readyNo := y.readyNo }) d 2 t
    else s) s

/-- Release position `pos` of an instance once (R409). -/
def releasePos (s : State) (d : Nat) (xid gi : BitVec 16) (pos : Nat) : State :=
  let x := collie s d
  match instOf x xid gi with
  | none => countReg s (rClstat d) 47 32 1
  | some i =>
    if i.next ≤ pos then modInst s d xid gi fun i => { i with credits := tabSet i.credits pos (tabD i.credits pos 0 + 1) }
    else
      match (allTasks x).find? fun t => t.xid == xid && t.gi == gi && t.pos == pos with
      | none => countReg s (rClstat d) 47 32 1
      | some t =>
        if t.expl = 0 then countReg s (rClstat d) 47 32 1
        else modTask s d t.id fun u => { u with expl := u.expl - 1 }

/-- Release the footprint edges that a retired task holds (R409). -/
def releaseEdges (s : State) (d id : Nat) : State :=
  let x := collie s d
  let g (t : Task) : Task := { t with edges := t.edges.filter (· != id) }
  setCollie s d { x with pool := x.pool.map g, kennel := x.kennel.map g }

/-- Two footprints share a granule that one of them may write (R407). -/
def conflict (a b : List Word) : Bool :=
  [0, 1, 2, 3].any fun i => [0, 1, 2, 3].any fun j =>
    regionMode a i != 0 && regionMode b j != 0 && (2 ≤ regionMode a i || 2 ≤ regionMode b j) &&
      decide ((region a i).1 < (region b j).1 + (region b j).2 ∧ (region b j).1 < (region a i).1 + (region a i).2)

/-- Insert by falling position. -/
def byPos (t : Task) : List Task → List Task
  | [] => [t]
  | u :: r => if u.pos < t.pos then t :: u :: r else u :: byPos t r

/-- The newest 256 incomplete tasks of an instance (R407). -/
def newest (x : Collie) (xid gi : BitVec 16) : List Task :=
  (((allTasks x).filter fun t => t.xid == xid && t.gi == gi).foldl (fun l t => byPos t l) []).take 256

/-! ## Failure (R417) -/

/-- Waiting tasks that a failed or cancelled task holds by a release entry not yet acted on. -/
def heldByEntry (s : State) (d : Nat) (t : Task) : State × List Nat :=
  match readList s d t with
  | .error _ => (s, [])
  | .ok (s, es, _) =>
    let pos := (es.zipIdx.filter fun p => !bit p.1 62 && !bit t.acted p.2).map fun p => t.pos + bits p.1 7 0
    (s, ((allTasks (collie s d)).filter fun u =>
      t.gi != 0 && u.xid == t.xid && u.gi == t.gi && u.st == .waiting && u.expl != 0 && pos.contains u.pos).map (·.id))

/-- Waiting tasks that a failed or cancelled task holds: by an edge, or by a release entry not yet acted on. A list whose line is
held, or that a peer has yet to give, is read later. -/
def heldBy (s : State) (d : Nat) (t : Task) : State × List Nat :=
  let x := collie s d
  let byEdge := ((allTasks x).filter fun u => u.edges.contains t.id).map (·.id)
  if listWaits s d t then
    (askList (setCollie s d { x with orphans := x.orphans ++ [t] }) d t, byEdge)
  else
    let (s, byEntry) := heldByEntry s d t
    (s, byEdge ++ byEntry)

/-- Cancel tasks and, in turn, the successors they hold (R417). -/
def cancelTasks (d : Nat) : (fuel : Nat) → State → List Nat → State
  | 0, s, _ => s
  | _, s, [] => s
  | fuel + 1, s, id :: r =>
    match anyTask (collie s d) id with
    | none => cancelTasks d fuel s r
    | some t =>
      let (s, held) := heldBy s d t
      let s := dropTask s d id
      let s := traceEvent (writeCompletion s d t 3) d 8 t
      cancelTasks d fuel s (r ++ held)

/-- Enough fuel for any cancellation: each record is cancelled once and named at most once per record and entry. -/
def cancelFuel (s : State) (d : Nat) : Nat :=
  let n := (allTasks (collie s d)).length + 1
  n * n + 64 * n + 1

/-- Nodes of a failed instance that are ready are cancelled without reading their predicate (R417). -/
def cancelNodes (s : State) (d : Nat) : State :=
  let x := collie s d
  let bad := x.pool.filter fun t =>
    t.st == .ready && (taskKind t == 2 || taskKind t == 3) &&
      (match instOf x t.xid t.gi with | none => false | some i => i.failed)
  cancelTasks d (cancelFuel s d) s (bad.map (·.id))

/-- A LOOPNODE whose pass has ended: it waits, and no incomplete task belongs to the pass (R411). -/
def passOver (x : Collie) (t : Task) : Bool :=
  t.st == .body && !((allTasks x).any fun u => u.parent == some t.id)

/-- LOOPNODEs whose pass has ended become ready to decide again. -/
def wakeLoops (s : State) (d : Nat) : State :=
  ((collie s d).pool.filter (passOver (collie s d))).foldl (fun s t =>
    let y := collie s d
    let s := setCollie s d { y with readyNo := y.readyNo + 1 }
    traceEvent (modTask s d t.id fun u => { u with st := .ready, readyNo := y.readyNo }) d 2 t) s

/-- After counts fell: tasks become ready, nodes of failed instances go, and so on while a LOOPNODE wakes. -/
def settleLoop (d : Nat) : (fuel : Nat) → State → State
  | 0, s => s
  | fuel + 1, s =>
    let s := cancelNodes (wakeReady (wakeLoops s d) d) d
    if (collie s d).pool.any (passOver (collie s d)) then settleLoop d fuel s else s

/-- After counts fell or tasks ended. -/
def settleTasks (s : State) (d : Nat) : State := settleLoop d ((collie s d).pool.length + 1) s

/-- A task fails (R417): its held successors are cancelled, its completion word takes the outcome, its instance is
marked and reported, and a LOOPNODE whose body it belongs to fails in turn (R411). -/
def failTask (d : Nat) : (fuel : Nat) → State → (id outcome : Nat) → State
  | 0, s, _, _ => s
  | fuel + 1, s, id, outcome =>
    match anyTask (collie s d) id with
    | none => s
    | some t =>
      let (s, held) := heldBy s d t
      let s := modInst s d t.xid t.gi fun i => { i with failed := true }
      let s := if t.gi = 0 then s else launchFault s d t 6 0 0
      let s := traceEvent (writeCompletion s d t outcome) d 7 t
      let s := dropTask s d id
      let s := cancelTasks d (cancelFuel s d) s held
      match t.parent with
      | none => s
      | some p => failTask d fuel s p 2

/-- failTask with fuel for every LOOPNODE above; then what no longer waits goes on. -/
def taskFails (s : State) (d id outcome : Nat) : State :=
  settleTasks (failTask d ((allTasks (collie s d)).length + 1) s id outcome) d

end Sys2Proof.Machine
end

