-- ==== Sys2Proof/Machine/Operands.lean ====
section
/-! DEFINITION. Sys2Proof/Machine/Operands.lean: how a word stops (R241), the operand spaces (R226), unbound registers
(R213, R214) and their slots (R52, R215, R216), queues (R206 to R208), guards (R227), tokens (R205), and addresses (R22). -/

namespace Sys2Proof.Machine

/-! ## How a word stops -/

/-- Why a word does not complete. -/
inductive Stop where
  /-- A precise trap (R439); nothing the word did stands. -/
  | trap (code : Nat) (val : Word)
  /-- A precise trap after part of the word was performed (R128, R161). -/
  | trapKeep (s : State) (code : Nat) (val : Word)
  /-- A fatal error (R442). -/
  | fatal (s : State) (f : Fatal)
  /-- The word waits; nothing has changed. -/
  | wait (w : Wait)
  /-- The word waits at a later stage; what it has done stands. -/
  | hold (s : State)
  deriving DecidableEq, Repr

/-- Where the role goes on after a word. -/
inductive Flow where
  | seq
  | jump (pc : Nat)
  /-- The counter was set by the word itself (eret), which changes no WALK (R203). -/
  | stay
  /-- The following word, at a safe point: SAFECNT returns to 0 and the role is stoppable (R220, R221). -/
  | safePoint
  /-- The following word, with the trap TRAPI taken there (R282). -/
  | trapAfter (val : Word)
  deriving DecidableEq, Repr

/-- A meaning's body: for role r of core c. -/
abbrev Body := Nat → RoleId → State → Except Stop (State × Flow)

/-! Trap codes (R439). -/

abbrev tILLEGAL : Nat := 1
abbrev tPRIV : Nat := 2
abbrev tUNBOUND : Nat := 3
abbrev tQUEUE : Nat := 4
abbrev tTRAPI : Nat := 5
abbrev tBRK : Nat := 6
abbrev tSHADOW : Nat := 7
abbrev tCONT : Nat := 8
abbrev tMISMATCH : Nat := 9
abbrev tFMT : Nat := 10
abbrev tSNAPCONF : Nat := 11

/-- A fatal error of a word of a role (UNIT 0). -/
def fatalAt (code detail va dpa : Nat) : Fatal :=
  { code := code, detail := detail, va := va, dpa := dpa, pc := 0, unit := 0, cmd := [], prog := 0, aux := 0 }

def fALIGN (va : Nat) : Fatal := fatalAt 0x42 0 va 0

def fWINDOW (va : Nat) : Fatal := fatalAt 0x43 0 va 0

/-- SPILL (R216), an error of the core as a whole (UNIT 4). -/
def fSPILL : Fatal := { fatalAt 0x46 0 0 0 with unit := 4 }

/-- The fatal error of a refused access at va (R29, R37). -/
def xFatal (va : Nat) : XErr → Fatal
  | .xlate d dpa => fatalAt 0x41 d va dpa
  | .window => fWINDOW va
  | .data dpa => fatalAt 0x44 1 va dpa
  | .held => fatalAt 0x41 0 va 0

/-- How a refused access at va ends a word: an entry that is held makes it wait (R121). -/
def xStop (s : State) (va : Nat) : XErr → Stop
  | .held => .wait .other
  | e => .fatal s (xFatal va e)

/-- Lift an address computation into a word's body. -/
def orFatal {α : Type} (s : State) (va : Nat) : Except XErr α → Except Stop α
  | .ok a => .ok a
  | .error e => .error (xStop s va e)

/-! ## Operands -/

/-- An operand a word reads. -/
inductive Src where
  | g (r : G6)
  | v (r : V5)
  deriving DecidableEq, Repr

/-- An operand a word writes. -/
inductive Dst where
  | none
  | g (r : G6)
  | v (r : V5)
  deriving DecidableEq, Repr

/-- The place a destination names. -/
def destOf : Dst → Dest
  | .none => .none
  | .g r => if r = 0 then .none else if r.toNat < 48 then .g r.toNat else .q (r.toNat % 8)
  | .v r => if r.toNat < 28 then .v r.toNat else .vq (r.toNat % 2)

/-- The queue access a source makes, if any (R226). -/
def srcQueue : Src → Option (Nat × QKind)
  | .g r => if r.toNat < 48 then none else some (r.toNat % 8, if r.toNat < 56 then .pop else .peek)
  | .v r => if r.toNat < 28 then none else some (8 + r.toNat % 2, if r.toNat < 30 then .pop else .peek)

def dstQueue : Dst → Option (Nat × QKind)
  | .none => none
  | .g r => if r.toNat < 48 then none else some (r.toNat % 8, .push)
  | .v r => if r.toNat < 28 then none else some (8 + r.toNat % 2, .push)

/-- The register a source reads is unbound: its TVAL (R214). -/
def srcUnbound (x : Role) : Src → Option Word
  | .g r => if r.toNat = 0 ∨ 48 ≤ r.toNat ∨ (tabGet x.g r.toNat).isSome then none else some (BitVec.ofNat 64 r.toNat)
  | .v r => if 28 ≤ r.toNat ∨ (tabGet x.v r.toNat).isSome then none else some (BitVec.ofNat 64 (64 + r.toNat))

/-- An outstanding load, or an atomic, is still to write the register (R202, R140). -/
def awaited (x : Role) (d : Dest) : Bool := d != .none && x.loads.any fun l => l.dest == d

def srcAwaited (x : Role) : Src → Bool
  | .g r => decide (r.toNat < 48) && awaited x (destOf (.g r))
  | .v r => decide (r.toNat < 28) && awaited x (destOf (.v r))

def dstAwaited (x : Role) (d : Dst) : Bool :=
  match destOf d with
  | .g n => awaited x (.g n)
  | .v n => awaited x (.v n)
  | _ => false

/-! ## Queues -/

/-- Producer and consumer of a queue (R206). -/
def qRoles (k : Core) (n : Nat) : Option RoleId × Option RoleId :=
  (RoleId.ofCode (BitVec.ofNat 2 (bits k.qctl (4 * n + 3) (4 * n + 2))),
    RoleId.ofCode (BitVec.ofNat 2 (bits k.qctl (4 * n + 1) (4 * n))))

/-- Entries a queue holds (R206). -/
def qLen (k : Core) (n : Nat) : Nat :=
  if n < 8 then (tabD k.queues n []).length else (tabD k.vqueues (n - 8) []).length

def qCap (n : Nat) : Nat := if n < 8 then 4 else 2

/-- TVAL of QUEUE (R208). -/
def queueTval (h reason idx : Nat) : Word := ofFields [(8, h), (4, reason), (0, idx)]

/-- Entry i of a queue is there, not merely promised to an outstanding load. -/
def qFilled (k : Core) (n i : Nat) : Bool :=
  if n < 8 then
    match (tabD k.queues n [])[i]? with
    | some (.full _) => true
    | _ => false
  else
    match (tabD k.vqueues (n - 8) [])[i]? with
    | some (.full _) => true
    | _ => false

/-- How often a list of accesses pops queue n. -/
def popCount (l : List (Nat × QKind)) (n : Nat) : Nat := (l.filter fun a => a.1 == n && a.2 == .pop).length

/-- The QUEUE trap that access `a` raises for role r, after the accesses `before`, in a word whose pops of a queue are
counted by `all` (R207): its TVAL. -/
def qTrap (k : Core) (r : RoleId) (all before : List (Nat × QKind)) (a : Nat × QKind) : Option Word :=
  let (p, c) := qRoles k a.1
  let same := p == c
  match a.2 with
  | .push =>
    if p ≠ some r then some (queueTval 0 3 a.1)
    else if same ∧ qCap a.1 ≤ qLen k a.1 - popCount all a.1 then some (queueTval 0 1 a.1)
    else none
  | _ =>
    if c ≠ some r then some (queueTval 0 4 a.1)
    else if same ∧ qLen k a.1 ≤ popCount before a.1 then some (queueTval 0 2 a.1)
    else none

/-- Access `a` must wait (R207): an empty or full queue shared with another role, or an entry still on its way. -/
def qWait (k : Core) (before : List (Nat × QKind)) (a : Nat × QKind) : Bool :=
  match a.2 with
  | .push => (qRoles k a.1).1 != (qRoles k a.1).2 && decide (qCap a.1 ≤ qLen k a.1)
  | _ => !qFilled k a.1 (popCount before a.1)

/-- First trap of a list of accesses, in operand order. -/
def qTraps (k : Core) (r : RoleId) (all : List (Nat × QKind)) :
    List (Nat × QKind) → List (Nat × QKind) → Option Word
  | _, [] => none
  | before, a :: l =>
    match qTrap k r all before a with
    | some w => some w
    | none => qTraps k r all (before ++ [a]) l

def qWaits (k : Core) : List (Nat × QKind) → List (Nat × QKind) → Bool
  | _, [] => false
  | before, a :: l => qWait k before a || qWaits k (before ++ [a]) l

/-- The queue accesses of a word, sources in order and the destination last (R20). -/
def qAccesses (src : List Src) (dst : Dst) : List (Nat × QKind) :=
  src.filterMap srcQueue ++ (dstQueue dst).toList

/-! ## Slots of bound registers (R52, R215, R216) -/

/-- Frames of a core's register region, and bytes of its spill reserve (R50, R52). -/
def regionFrames (k : Core) : Nat := bnd0 k / 256

def reserveBytes (k : Core) : Nat := 0x180000 - bnd2 k

/-- The register of a slot still needs it: it is bound, or a load or the role's own word is still to bind it. -/
def slotAlive (k : Core) (x : RSlot) : Bool :=
  let y := k.role x.role
  y.block.isSome || (if x.vec then (tabGet y.v x.num).isSome || awaited y (.v x.num)
    else (tabGet y.g x.num).isSome || awaited y (.g x.num))

/-- The lowest frame from n on that no slot lies in. -/
def firstFree (l : List RSlot) : (fuel n : Nat) → Nat
  | 0, n => n
  | fuel + 1, n => if l.any fun x => x.frame == some n then firstFree l fuel (n + 1) else n

/-- A frame with room for a register of a role (R215); none when the region has none. -/
def roomFor (k : Core) (l : List RSlot) (r : RoleId) (vec : Bool) : Option Nat :=
  let shared := l.findSome? fun x =>
    if x.role = r ∧ !vec ∧ !x.vec then
      x.frame.bind fun n => if (l.filter fun y => y.frame == some n).length < 16 then some n else none
    else none
  match shared with
  | some n => some n
  | none =>
    let n := firstFree l l.length 0
    if n < regionFrames k then some n else none

/-- What is spilled for a register of a role that finds no slot, in the order of R215; the least recently used general frame
is the one whose latest use is the oldest (log 46). -/
def spillChoice (l : List RSlot) (r : RoleId) (vec : Bool) : List RSlot :=
  let mine := l.filter fun x => x.role == r && x.frame.isSome
  match mine.find? fun x => x.vec == vec with
  | some x => [x]
  | none =>
    if vec then
      let frames := ((mine.reverse.map (·.frame)).eraseDups).getLast?
      mine.filter fun x => some x.frame == frames
    else mine.head?.toList

/-- Bytes of the spill reserve in use (R52). -/
def spilledBytes (l : List RSlot) : Nat :=
  l.foldl (fun n x => if x.frame.isSome then n else n + if x.vec then 256 else 16) 0

/-- Give a register a slot in the region, as the most recently used, and count what it spills; none where the spill reserve
is too full (R216). With nothing of its role to spill, the register itself goes to the reserve (log 46). -/
def placeSlot (k : Core) (l : List RSlot) (x : RSlot) : Option (List RSlot × Nat) :=
  match roomFor k l x.role x.vec with
  | some n => some (l ++ [{ x with frame := some n }], 0)
  | none =>
    let out := spillChoice l x.role x.vec
    let l' := l.map fun y => if out.contains y then { y with frame := none } else y
    let l' := l' ++ [{ x with frame := if out.isEmpty then none else roomFor k l' x.role x.vec }]
    if spilledBytes l' ≤ reserveBytes k then some (l', out.length) else none

/-- Use register `num` of a role: its slot becomes the most recently used, after a refill if it was spilled, or a binding if
it has none. Answers the slots, the registers spilled, and whether it was a refill. -/
def useSlot (k : Core) (l : List RSlot) (r : RoleId) (vec : Bool) (num : Nat) : Option (List RSlot × Nat × Bool) :=
  let same (x : RSlot) : Bool := x.role == r && x.vec == vec && x.num == num
  let rest := l.filter fun x => !same x
  match l.find? same with
  | some x =>
    if x.frame.isSome then some (rest ++ [x], 0, false)
    else (placeSlot k (rest.filter (slotAlive k)) x).map fun q => (q.1, q.2, true)
  | none => (placeSlot k (rest.filter (slotAlive k)) ⟨r, vec, num, none⟩).map fun q => (q.1, q.2, false)

/-- A register of a role is read or written: its slot is used, and spills and refills are counted (R451). -/
def touchSlot (c : Nat) (r : RoleId) (s : State) (vec : Bool) (num : Nat) : State :=
  match useSlot (core s c) (core s c).slots r vec num with
  | none => s
  | some (l, n, re) =>
    let s := modCore s c fun k => { k with slots := l }
    let s := if n = 0 then s else countEvent s c r 0x0B n
    if re then countEvent s c r 0x0C 1 else s

/-- The registers that a word uses, in operand order. -/
def usedSlots (src : List Src) (dst : Dst) : List (Bool × Nat) :=
  (src.filterMap fun x => match x with
    | .g n => if n = 0 ∨ 48 ≤ n.toNat then none else some (false, n.toNat)
    | .v n => if 28 ≤ n.toNat then none else some (true, n.toNat)) ++
  match destOf dst with
  | .g n => [(false, n)]
  | .v n => [(true, n)]
  | _ => []

/-- Every register of a list finds its slot. -/
def slotsFit (k : Core) (r : RoleId) : List RSlot → List (Bool × Nat) → Bool
  | _, [] => true
  | l, x :: xs =>
    match useSlot k l r x.1 x.2 with
    | none => false
    | some (l, _, _) => slotsFit k r l xs

/-- UNBOUND, then QUEUE (R241 step 3), then the waits of R202 and R207, then SPILL (R216); nothing has moved. -/
def checkUse (c : Nat) (r : RoleId) (s : State) (src : List Src) (dst : Dst) : Except Stop Unit :=
  let x := getRole s c r
  let k := core s c
  if src.any (srcAwaited x) || dstAwaited x dst then .error (.wait .other)
  else
    match src.findSome? (srcUnbound x) with
    | some w => .error (.trap tUNBOUND w)
    | none =>
      let qs := qAccesses src dst
      match qTraps k r qs [] qs with
      | some w => .error (.trap tQUEUE w)
      | none =>
        if qWaits k [] qs then .error (.wait (.queue qs))
        else if slotsFit k r k.slots (usedSlots src dst) then .ok ()
        else .error (.fatal s fSPILL)

/-- The value of a general register, a pop, or a peek (R226); checkUse has found it readable. -/
def readG (c : Nat) (r : RoleId) (s : State) (x : G6) : State × Reg :=
  let n := x.toNat
  if n = 0 then (s, ⟨0, false⟩)
  else if n < 48 then (touchSlot c r s false n, tabD (getRole s c r).g n ⟨0, false⟩)
  else
    let q := tabD (core s c).queues (n % 8) []
    let v := match q with
      | .full v :: _ => v
      | _ => ⟨0, false⟩
    if n < 56 then (modCore s c fun k => { k with queues := tabSet k.queues (n % 8) q.tail }, v) else (s, v)

/-- Write a general register or push a queue; g0 discards (R226). -/
def writeG (c : Nat) (r : RoleId) (s : State) (x : G6) (v : Reg) : State :=
  let n := x.toNat
  if n = 0 then s
  else if n < 48 then modRole (touchSlot c r s false n) c r fun y => { y with g := tabSet y.g n v }
  else modCore s c fun k => { k with queues := tabSet k.queues (n % 8) (tabD k.queues (n % 8) [] ++ [.full v]) }

/-- The value of a vector register, a pop, or a peek. -/
def readV (c : Nat) (r : RoleId) (s : State) (x : V5) : State × VReg :=
  let n := x.toNat
  if n < 28 then (touchSlot c r s true n, tabD (getRole s c r).v n 0)
  else
    let q := tabD (core s c).vqueues (n % 2) []
    let v := match q with
      | .full v :: _ => v
      | _ => 0
    if n < 30 then (modCore s c fun k => { k with vqueues := tabSet k.vqueues (n % 2) q.tail }, v) else (s, v)

/-- Lane i of a vector. -/
def lane (v : VReg) (i : Nat) : BitVec 32 := v.extractLsb' (32 * i) 32

/-- A vector from a function of the lane number. -/
def ofLanes (f : Nat → BitVec 32) : VReg :=
  (List.range 64).foldr (fun i v => (v <<< 32) ||| (f i).zeroExtend 2048) 0

/-- The lanes of `new` where the mask is set, else those of `old`. -/
def mergeLanes (mask : BitVec 64) (old new : VReg) : VReg :=
  ofLanes fun i => if mask.getLsbD i then lane new i else lane old i

/-- Write the active lanes of a vector register, or push a vector queue (R213: an unbound register's other lanes read
0; a queue's other lanes are 0). -/
def writeV (c : Nat) (r : RoleId) (s : State) (x : V5) (mask : BitVec 64) (v : VReg) : State :=
  let n := x.toNat
  if n < 28 then
    modRole (touchSlot c r s true n) c r fun y => { y with v := tabSet y.v n (mergeLanes mask (tabD y.v n 0) v) }
  else
    modCore s c fun k => { k with vqueues := tabSet k.vqueues (n % 2)
                                    (tabD k.vqueues (n % 2) [] ++ [.full (mergeLanes mask 0 v)]) }

/-- A predicate; p0 reads all ones (R226). -/
def readP (c : Nat) (r : RoleId) (s : State) (p : P3) : Word :=
  if p = 0 then BitVec.allOnes 64 else tabD (getRole s c r).p p.toNat 0

/-- Write a predicate; p0 discards. -/
def writeP (c : Nat) (r : RoleId) (s : State) (p : P3) (w : Word) : State :=
  if p = 0 then s else modRole s c r fun y => { y with p := tabSet y.p p.toNat w }

/-! ## Guards (R227) -/

/-- A scalar guard holds. -/
def guardBit (c : Nat) (r : RoleId) (s : State) (g : Guard) : Bool := bit (readP c r s g.pidx) 0 != g.neg

/-- The lanes a vector guard selects. -/
def guardLanes (c : Nat) (r : RoleId) (s : State) (g : Guard) : BitVec 64 :=
  if g.neg then ~~~readP c r s g.pidx else readP c r s g.pidx

/-! ## Addresses (R22, R25) -/

/-- The 57-bit address of a base, an index, a scale code and an offset. -/
def effAddr (b i : Word) (sc : BitVec 2) (off : BitVec 20) : Nat :=
  (b + i * BitVec.ofNat 64 (2 ^ sc.toNat) + off.signExtend 64).toNat % 2 ^ 57

/-! ## Tokens (R17, R205) -/

/-- Tokens in the FIFO a role pops from. -/
def upCount (k : Core) : RoleId → Nat
  | .L => k.tokSL
  | .C => k.tokLC
  | .S => k.tokCS

/-- Tokens in the FIFO a role pushes to. -/
def downCount (k : Core) : RoleId → Nat
  | .L => k.tokLC
  | .C => k.tokCS
  | .S => k.tokSL

def setUp (k : Core) (r : RoleId) (n : Nat) : Core :=
  match r with
  | .L => { k with tokSL := n }
  | .C => { k with tokLC := n }
  | .S => { k with tokCS := n }

def setDown (k : Core) (r : RoleId) (n : Nat) : Core :=
  match r with
  | .L => { k with tokLC := n }
  | .C => { k with tokCS := n }
  | .S => { k with tokSL := n }

def popTokens (s : State) (c : Nat) (r : RoleId) (n : Nat) : State :=
  modCore s c fun k => setUp k r (upCount k r - n)

def pushTokens (s : State) (c : Nat) (r : RoleId) (n : Nat) : State :=
  modCore s c fun k => setDown k r (downCount k r + n)

end Sys2Proof.Machine
end

