-- ==== Sys2Proof/Machine/Flags.lean ====
section
/-! DEFINITION. Sys2Proof/Machine/Flags.lean: the FLAGS register of a role (R323 to R325). -/

namespace Sys2Proof.Machine

/-! FLAGS bits (R323). -/

abbrev fINV : BitVec 5 := 0x01#5
abbrev fOVF : BitVec 5 := 0x02#5
abbrev fUNF : BitVec 5 := 0x04#5
abbrev fNX : BitVec 5 := 0x08#5
abbrev fRSV : BitVec 5 := 0x10#5

/-- OR flags into a role's FLAGS: every bit is sticky (R324). -/
def orFlags (s : State) (c : Nat) (r : RoleId) (f : BitVec 5) : State :=
  modRole s c r fun x => { x with flags := x.flags ||| f }

/-- Some role of a core has FLAGS.OVF (R188, R416). -/
def coreOvf (s : State) (c : Nat) : Bool := allRoles.any fun r => bit (getRole s c r).flags 1

/-- Before mfsr or mtsr of FLAGS and before vote reads them, every atomic of the role has replied (R325): the role is
not in one, since an atomic holds its role. -/
def flagsWord (s : State) (c : Nat) (r : RoleId) : Word := (getRole s c r).flags.zeroExtend 64

end Sys2Proof.Machine
end

