-- ==== Sys2Proof/Machine/Float.lean ====
section
/-! DEFINITION. Sys2Proof/Machine/Float.lean: number formats (R310 to R317), rounding (R318 to R322), exact arithmetic
(R339, R341), correctly rounded functions, and the aligned adder (R327 to R332). -/

namespace Sys2Proof.Machine

/-! ## Formats (R311) -/

/-- What the encodings above the largest finite value mean. -/
inductive Specials where
  /-- Infinities and NaNs, exponent all ones. -/
  | ieee
  /-- Only NaN, all ones (E4M3). -/
  | nanOnly
  /-- None (E2M1). -/
  | none
  deriving DecidableEq, Repr

/-- A floating-point format: fraction bits, exponent bits, bias, specials. -/
structure Fmt where
  frac : Nat
  expo : Nat
  bias : Nat
  spec : Specials
  deriving DecidableEq, Repr

def fmtF32 : Fmt := ⟨23, 8, 127, .ieee⟩

def fmtBf16 : Fmt := ⟨7, 8, 127, .ieee⟩

def fmtF16 : Fmt := ⟨10, 5, 15, .ieee⟩

def fmtE4m3 : Fmt := ⟨3, 4, 7, .nanOnly⟩

def fmtE5m2 : Fmt := ⟨2, 5, 15, .ieee⟩

def fmtE2m1 : Fmt := ⟨1, 2, 1, .none⟩

/-- The sign bit's position, which is the number of magnitude bits. -/
def Fmt.signBit (f : Fmt) : Nat := f.frac + f.expo

/-- The magnitude code of infinity, in the ieee formats. -/
def Fmt.infCode (f : Fmt) : Nat := (2 ^ f.expo - 1) * 2 ^ f.frac

/-- The magnitude code of the largest finite value (R311). -/
def Fmt.maxCode (f : Fmt) : Nat :=
  match f.spec with
  | .ieee => f.infCode - 1
  | .nanOnly => 2 ^ f.signBit - 2
  | .none => 2 ^ f.signBit - 1

/-- The canonical NaN (R311). -/
def Fmt.nanCode (f : Fmt) : Nat :=
  match f.spec with
  | .ieee => f.infCode + 2 ^ (f.frac - 1)
  | _ => 2 ^ f.signBit - 1

/-- A code of a sign and a magnitude code. -/
def Fmt.withSign (f : Fmt) (neg : Bool) (c : Nat) : Nat := (if neg then 2 ^ f.signBit else 0) + c

/-- The exponent of the unit of a subnormal. -/
def Fmt.qmin (f : Fmt) : Int := 1 - (f.bias : Int) - (f.frac : Int)

/-! ## Values -/

/-- An exact value: NaN, infinity, or ± m × 2^e. With `more`, the magnitude lies strictly between m × 2^e and
(m + 1) × 2^e. -/
inductive Val where
  | nan
  | inf (neg : Bool)
  | fin (neg : Bool) (m : Nat) (e : Int) (more : Bool)
  deriving DecidableEq, Repr

/-- ± m × 2^e. -/
def exactVal (neg : Bool) (m : Nat) (e : Int) : Val := .fin neg m e false

/-- The value of an encoding (R311). -/
def Fmt.val (f : Fmt) (c : Nat) : Val :=
  let neg := c / 2 ^ f.signBit % 2 = 1
  let mag := c % 2 ^ f.signBit
  if f.maxCode < mag then (if f.spec = .ieee ∧ mag = f.infCode then .inf neg else .nan)
  else
    let x := mag / 2 ^ f.frac
    if x = 0 then exactVal neg mag f.qmin
    else exactVal neg (2 ^ f.frac + mag % 2 ^ f.frac) (f.qmin + (x : Int) - 1)

/-- A signed integer as a value. -/
def intVal (v : Int) : Val := exactVal (decide (v < 0)) v.natAbs 0

/-- A value scaled by a power of two. -/
def scaleVal (k : Int) : Val → Val
  | .fin n m e x => .fin n m (e + k) x
  | v => v

def isNan : Val → Bool
  | .nan => true
  | _ => false

def isInf : Val → Bool
  | .inf _ => true
  | _ => false

def isZero : Val → Bool
  | .fin _ m _ x => m == 0 && !x
  | _ => false

def negVal : Val → Val
  | .nan => .nan
  | .inf n => .inf (!n)
  | .fin n m e x => .fin (!n) m e x

def valSign : Val → Bool
  | .nan => false
  | .inf n => n
  | .fin n _ _ _ => n

/-! ## Rounding (R318, R319) -/

/-- A magnitude m × 2^e (with `more`, a little above) as a number of units 2^q, rounded; whether that is inexact. `u`:
the draw of .sr. -/
def roundUnits (rm : RM) (u : Nat) (neg : Bool) (m : Nat) (e : Int) (more : Bool) (q : Int) : Nat × Bool :=
  if q ≤ e then
    let n := m <<< (e - q).toNat
    (n, more)
  else
    let k := (q - e).toNat
    let n := m >>> k
    let r := m % 2 ^ k
    let inexact := r != 0 || more
    let up : Bool := match rm with
      | .rne => decide (2 ^ k < 2 * r) || (decide (2 * r = 2 ^ k) && (more || n % 2 == 1))
      | .rtz => false
      | .rdn => neg && inexact
      | .rup => !neg && inexact
      | .sr => decide (u < r * 2 ^ 32 / 2 ^ k)
    (if up then n + 1 else n, inexact)

/-- Number of bits of a magnitude. -/
def bitLen (m : Nat) : Nat := if m = 0 then 0 else m.log2 + 1

/-- What overflow gives (R320): the magnitude code. -/
def overflowCode (f : Fmt) (rm : RM) (sat neg : Bool) : Nat :=
  let big : Bool := sat || rm == .rtz || (rm == .rdn && !neg) || (rm == .rup && neg)
  if big then f.maxCode
  else
    match f.spec with
    | .ieee => f.infCode
    | .nanOnly => f.nanCode
    | .none => f.maxCode

/-- A code with its sign; the NaN that stands for an infinity has none (R312). -/
def signedCode (f : Fmt) (neg : Bool) (c : Nat) : Nat :=
  if f.spec = .nanOnly ∧ c = f.nanCode then c else f.withSign neg c

/-- A result is tiny (R322): its magnitude code, rounded as R318 says, with the target's subnormal spacing, lies below that of
the smallest normal value (log 16). -/
def isTiny (f : Fmt) (code : Nat) : Bool := decide (code < 2 ^ f.frac)

/-- Round a value to a format (R318 to R322). -/
def roundTo (f : Fmt) (rm : RM) (sat : Bool) (u : Nat) : Val → Nat × BitVec 5
  | .nan => if f.spec = .none then (0, fINV) else (f.nanCode, 0)
  | .inf neg =>
    if sat then (f.withSign neg f.maxCode, fNX)
    else if f.spec = .ieee then (f.withSign neg f.infCode, 0)
    else (signedCode f neg (overflowCode f .rne false neg), fINV)
  | .fin neg m e more =>
    if m = 0 then (f.withSign neg 0, 0)
    else
      let q := max (e + (bitLen m : Int) - (f.frac : Int) - 1) f.qmin
      let (n, inexact) := roundUnits rm u neg m e more q
      let code := (q - f.qmin).toNat * 2 ^ f.frac + n
      if f.maxCode < code then (signedCode f neg (overflowCode f rm sat neg), fOVF ||| fNX)
      else
        let tiny : BitVec 5 := if inexact && isTiny f code then fUNF else 0
        (f.withSign neg code, (if inexact then fNX else 0) ||| tiny)

/-- Round to an integer and check its range (R321); the result is signed. -/
def roundInt (lo hi : Int) (rm : RM) (u : Nat) : Val → Int × BitVec 5
  | .nan => (0, fINV)
  | .inf neg => (if neg then lo else hi, fINV)
  | .fin neg m e more =>
    let (n, inexact) := roundUnits rm u neg m e more 0
    let v : Int := if neg then -(n : Int) else n
    if v < lo then (lo, fINV) else if hi < v then (hi, fINV) else (v, if inexact then fNX else 0)

/-! ## Exact arithmetic (R339, R341) -/

/-- The signed numerator of a finite value in units of 2^q, q at most its exponent. -/
def signedAt (q : Int) (neg : Bool) (m : Nat) (e : Int) : Int :=
  let n : Int := (m <<< (e - q).toNat : Nat)
  if neg then -n else n

/-- a + b. `dn`: the mode is .rdn, where a sum of exact opposites is −0. -/
def addVal (dn : Bool) : Val → Val → Val × BitVec 5
  | .nan, _ => (.nan, 0)
  | _, .nan => (.nan, 0)
  | .inf a, .inf b => if a = b then (.inf a, 0) else (.nan, fINV)
  | .inf a, _ => (.inf a, 0)
  | _, .inf b => (.inf b, 0)
  | .fin na ma ea _, .fin nb mb eb _ =>
    let q := min ea eb
    let t := signedAt q na ma ea + signedAt q nb mb eb
    if t = 0 then (exactVal (if ma = 0 ∧ na = nb then na else dn) 0 0, 0)
    else (exactVal (decide (t < 0)) t.natAbs q, 0)

/-- a × b. -/
def mulVal : Val → Val → Val × BitVec 5
  | .nan, _ => (.nan, 0)
  | _, .nan => (.nan, 0)
  | .inf a, b => if isZero b then (.nan, fINV) else (.inf (a != valSign b), 0)
  | a, .inf b => if isZero a then (.nan, fINV) else (.inf (valSign a != b), 0)
  | .fin na ma ea _, .fin nb mb eb _ => (exactVal (na != nb) (ma * mb) (ea + eb), 0)

/-- ±(a × b) + c; a NaN operand raises nothing. -/
def fmaVal (dn flip : Bool) (a b c : Val) : Val × BitVec 5 :=
  if isNan c then (.nan, 0)
  else
    let (p, f) := mulVal a b
    let (v, g) := addVal dn (if flip then negVal p else p) c
    (v, f ||| g)

/-- a / b, with 256 quotient bits and a rest. -/
def divVal : Val → Val → Val × BitVec 5
  | .nan, _ => (.nan, 0)
  | _, .nan => (.nan, 0)
  | .inf _, .inf _ => (.nan, fINV)
  | .inf a, .fin nb _ _ _ => (.inf (a != nb), 0)
  | .fin na _ _ _, .inf b => (exactVal (na != b) 0 0, 0)
  | .fin na ma ea _, .fin nb mb eb _ =>
    if mb = 0 then (if ma = 0 then (.nan, fINV) else (.inf (na != nb), 0))
    else
      let n := ma <<< 256
      (.fin (na != nb) (n / mb) (ea - eb - 256) (n % mb != 0), 0)

/-- Integer square root by bits: the greatest r below 2^n above `acc` with r² ≤ v. -/
def sqrtBits (v : Nat) : (n acc : Nat) → Nat
  | 0, acc => acc
  | n + 1, acc =>
    let t := acc + 2 ^ n
    sqrtBits v n (if t * t ≤ v then t else acc)

/-- Integer square root. -/
def isqrt (v : Nat) : Nat := sqrtBits v (bitLen v / 2 + 1) 0

/-- √a (R341). -/
def sqrtVal : Val → Val × BitVec 5
  | .nan => (.nan, 0)
  | .inf neg => if neg then (.nan, fINV) else (.inf false, 0)
  | .fin neg m e _ =>
    if m = 0 then (exactVal neg 0 0, 0)
    else if neg then (.nan, fINV)
    else
      let odd := e % 2 = 1
      let v := (if odd then 2 * m else m) <<< 256
      let r := isqrt v
      (.fin false r ((if odd then e - 1 else e) / 2 - 128) (r * r != v), 0)

/-- 1 / √a (R341). -/
def rsqrtVal : Val → Val × BitVec 5
  | .nan => (.nan, 0)
  | .inf neg => if neg then (.nan, fINV) else (exactVal false 0 0, 0)
  | .fin neg m e _ =>
    if m = 0 then (.inf neg, 0)
    else if neg then (.nan, fINV)
    else
      let odd := e % 2 = 1
      let v := if odd then 2 * m else m
      let r := isqrt (2 ^ 512 / v)
      (.fin false r (-((if odd then e - 1 else e) / 2) - 256) (r * r * v != 2 ^ 512), 0)

/-- 1 / a. -/
def rcpVal (a : Val) : Val × BitVec 5 := divVal (exactVal false 1 0) a

/-! ## Transcendental functions (log 16): fixed point in units of 2^-320, far below any rounding boundary -/

/-- The unit. -/
def fxBits : Nat := 320

def fxOne : Nat := 2 ^ fxBits

/-- Σ z^(2k+1) / (2k+1) over n terms: artanh z, for z at most 1/3, with p = z^(2k+1). -/
def artanhSum (z2 : Nat) : (n k p : Nat) → Nat
  | 0, _, _ => 0
  | n + 1, k, p => p / (2 * k + 1) + artanhSum z2 n (k + 1) (p * z2 / fxOne)

/-- artanh of a / b ≤ 1/3. -/
def artanh (a b : Nat) : Nat :=
  let z := a * fxOne / b
  artanhSum (z * z / fxOne) 110 0 z

/-- ln 2 = 2 artanh (1/3). -/
def fxLn2 : Nat := 2 * artanh 1 3

/-- Σ y^k / k! over n terms from term k, with t = y^k / k!, for y below 1. -/
def expSum (y : Nat) : (n k t : Nat) → Nat
  | 0, _, _ => 0
  | n + 1, k, t => t + expSum y n (k + 1) (t * y / fxOne / (k + 1))

/-- e^y for y below 1. -/
def fxExp (y : Nat) : Nat := expSum y 80 0 fxOne

/-- m × 2^e in the fixed-point unit, its fraction cut. -/
def toFx (m : Nat) (e : Int) : Nat :=
  let k := e + (fxBits : Int)
  if 0 ≤ k then m <<< k.toNat else m >>> (-k).toNat

/-- A magnitude is at least 2^k. -/
def magAtLeast (m : Nat) (e k : Int) : Bool := decide (k < e + (bitLen m : Int))

/-- 2^a (R341). -/
def exp2Val : Val → Val × BitVec 5
  | .nan => (.nan, 0)
  | .inf neg => if neg then (exactVal false 0 0, 0) else (.inf false, 0)
  | .fin neg m e _ =>
    if m = 0 then (exactVal false 1 0, 0)
    else if magAtLeast m e 12 then (.fin false 1 (if neg then -4096 else 4096) true, 0)
    else
      let x : Int := (toFx m e : Nat)
      let x := if neg then -x else x
      let n := x / (fxOne : Int)
      let f := (x % (fxOne : Int)).toNat
      if f = 0 then (exactVal false 1 n, 0)
      else (.fin false (fxExp (f * fxLn2 / fxOne)) (n - (fxBits : Int)) true, 0)

/-- log2 a (R341). -/
def log2Val : Val → Val × BitVec 5
  | .nan => (.nan, 0)
  | .inf neg => if neg then (.nan, fINV) else (.inf false, 0)
  | .fin neg m e _ =>
    if m = 0 then (.inf true, 0)
    else if neg then (.nan, fINV)
    else
      let l := m.log2
      let n := e + (l : Int)
      if m = 2 ^ l then (intVal n, 0)
      else
        let fr := artanh (m - 2 ^ l) (m + 2 ^ l) * fxOne / artanh 1 3
        let v := n * (fxOne : Int) + (fr : Int)
        (.fin (decide (v < 0)) v.natAbs (-(fxBits : Int)) true, 0)

/-- tanh a (R341). Below 2^-40 it is just below a; from 2^6 on it is just below 1. -/
def tanhVal : Val → Val × BitVec 5
  | .nan => (.nan, 0)
  | .inf neg => (exactVal neg 1 0, 0)
  | .fin neg m e _ =>
    if m = 0 then (exactVal neg 0 0, 0)
    else if !magAtLeast m e (-40) then (.fin neg (m * 2 ^ 100 - 1) (e - 100) true, 0)
    else if magAtLeast m e 6 then (.fin neg (2 ^ 100 - 1) (-100) true, 0)
    else
      let y := 2 * toFx m e
      let k := y / fxLn2
      let ex := fxExp (y % fxLn2) <<< k
      (.fin neg (fxOne - 2 * fxOne * fxOne / (ex + fxOne)) (-(fxBits : Int)) true, 0)

/-! ## Order -/

/-- The order of vmin and vmax on codes, −0 below +0 (R339). -/
def totalKey (f : Fmt) (c : Nat) : Int :=
  let mag : Int := (c % 2 ^ f.signBit : Nat)
  if c / 2 ^ f.signBit % 2 = 1 then -mag - 1 else mag

/-- The order of comparisons, −0 equal to +0 (R342). -/
def cmpKey (f : Fmt) (c : Nat) : Int :=
  let mag : Int := (c % 2 ^ f.signBit : Nat)
  if c / 2 ^ f.signBit % 2 = 1 then -mag else mag

/-! ## Elements of packed operands (R313 to R317) -/

/-- The format of a data type's elements; none for the integer types. -/
def elemFmt : DType → Option Fmt
  | .f32 => some fmtF32
  | .bf16 => some fmtBf16
  | .f16 => some fmtF16
  | .e4m3 | .mxe4m3 => some fmtE4m3
  | .e5m2 | .mxe5m2 => some fmtE5m2
  | .mxf4 => some fmtE2m1
  | _ => none

/-- Element width in bits (R333). -/
def elemBits : DType → Nat
  | .f32 | .i32 => 32
  | .bf16 | .f16 => 16
  | .mxf4 | .s4 | .k4 => 4
  | _ => 8

/-- A format whose elements share block scales (R314). -/
def isScaled : DType → Bool
  | .mxe4m3 | .mxe5m2 | .mxf4 | .s4 | .k4 => true
  | _ => false

/-- Element i of w bits of a packed number (R310). -/
def packed (v w i : Nat) : Nat := (v >>> (w * i)) % 2 ^ w

/-- A two's-complement number of w bits. -/
def signedOf (w v : Nat) : Int := if v < 2 ^ (w - 1) then v else (v : Int) - (2 ^ w : Nat)

/-- An S4 code (R315): its value, and whether it is the reserved code. -/
def s4Val (c : Nat) : Val × Bool := if c = 8 then (exactVal false 0 0, true) else (intVal (signedOf 4 c), false)

/-- Element i of a packed number as a value before scaling, and whether a reserved code was read there. -/
def elemVal (t : DType) (v i : Nat) : Val × Bool :=
  match t with
  | .s4 => s4Val (packed v 4 i)
  | .k4 =>
    let ev := packed v 4 (i / 2 * 2)
    let od := packed v 4 (i / 2 * 2 + 1)
    if ev = 8 then
      (if i % 2 = 0 then exactVal (od / 8 % 2 = 1) 1 (3 + (od % 8 : Nat)) else exactVal false 0 0, false)
    else if i % 2 = 0 then s4Val ev else s4Val od
  | .i8 => (intVal (signedOf 8 (packed v 8 i)), false)
  | .i32 => (intVal (signedOf 32 (packed v 32 i)), false)
  | t =>
    match elemFmt t with
    | some f => (f.val (packed v (f.signBit + 1) i), false)
    | none => (.nan, false)

/-- A value under an E8M0 scale code (R313). -/
def underScale (sc : Nat) (v : Val) : Val := if sc = 0xFF then .nan else scaleVal ((sc : Int) - 127) v

/-- Element i of a packed operand under the scales of its blocks: byte b of `scales` is block b's (R310); an unscaled
type reads none. -/
def scaledElem (t : DType) (v scales i : Nat) : Val × Bool :=
  let (x, rsv) := elemVal t v i
  (if isScaled t then underScale (packed scales 8 (i / 32)) x else x, rsv)

/-! ## The aligned adder (R327 to R332) -/

/-- A factor of a product: sign, integer significand m with f = m / 2^fb, and exponent e (R327). -/
structure Factor where
  neg : Bool
  m   : Nat
  fb  : Nat
  e   : Int
  deriving DecidableEq, Repr

/-- The factor of a finite element. -/
def factorOf (t : DType) : Val → Factor
  | .fin neg m e _ =>
    match elemFmt t with
    | some f => ⟨neg, m, f.frac, e + (f.frac : Int)⟩
    | none => ⟨neg, m, m.log2, e + (m.log2 : Int)⟩
  | _ => ⟨false, 0, 0, 0⟩

/-- Floor(m × 2^k), and whether a nonzero bit was discarded. -/
def floorShift (m : Nat) (k : Int) : Nat × Bool :=
  if 0 ≤ k then (m <<< k.toNat, false) else (m >>> (-k).toNat, m % 2 ^ (-k).toNat != 0)

/-- A product: sign, significand with its fraction bits, exponent. -/
def product (a b : Factor) : Factor := ⟨a.neg != b.neg, a.m * b.m, a.fb + b.fb, a.e + b.e⟩

/-- The greatest of a list of exponents. -/
def maxExp : List Factor → Option Int
  | [] => none
  | p :: r =>
    match maxExp r with
    | none => some p.e
    | some e => some (max p.e e)

/-- One group (R328): its exponent and aligned sum, with whether anything was cut. -/
def groupSum (four : Bool) (ps : List Factor) : Int × Int × Bool :=
  let ps := ps.filter fun p => p.m != 0
  match maxExp ps with
  | none => (0, 0, false)
  | some top =>
    let eg := if four then top + 1 else top
    ps.foldl (fun (acc : Int × Int × Bool) p =>
      let (t, cut) := floorShift p.m (p.e - eg + 19 - (p.fb : Int))
      (eg, acc.2.1 + (if p.neg then -(t : Int) else t), acc.2.2 || cut)) (eg, 0, false)

/-- A list cut into groups of n. -/
def groupsOf {α : Type} (n : Nat) : (fuel : Nat) → List α → List (List α)
  | 0, _ => []
  | _, [] => []
  | fuel + 1, l => l.take n :: groupsOf n fuel (l.drop n)

/-- DotRow on finite products (R328): FP32 code and flags. -/
def dotFinite (four : Bool) (n : Nat) (ps : List Factor) (acc : Nat) : Nat × BitVec 5 :=
  let gs := (groupsOf n ps.length ps).map (groupSum four)
  let cut1 := gs.any fun g => g.2.2
  let live := gs.filter fun g => g.2.1 != 0
  match maxExp (live.map fun g => (⟨false, 1, 0, g.1⟩ : Factor)) with
  | none => (acc, if cut1 then fNX else 0)
  | some top =>
    let (rw, cut2) := live.foldl (fun (a : Int × Bool) g =>
      let (t, cut) := floorShift g.2.1.natAbs (g.1 - top + 5)
      (a.1 + (if decide (g.2.1 < (0 : Int)) then -(t : Int) else (t : Int)), a.2 || cut)) (0, false)
    let (v, _) := addVal false (exactVal (decide (rw < 0)) rw.natAbs (top - 24)) (fmtF32.val acc)
    let (c, f) := roundTo fmtF32 .rne false 0 v
    (c, f ||| if cut1 || cut2 then fNX else 0)

/-- Products of a list of element pairs that are 0 × ∞. -/
def zeroTimesInf (ab : List (Val × Val)) : Bool :=
  ab.any fun p => (isZero p.1 && isInf p.2) || (isInf p.1 && isZero p.2)

/-- Infinite products of a sign. -/
def infProduct (neg : Bool) (ab : List (Val × Val)) : Bool :=
  ab.any fun p => (isInf p.1 || isInf p.2) && (valSign p.1 != valSign p.2) == neg

/-- The special cases of R331, else DotRow. `t`, `u`: the two operand types. -/
def dotRow (t u : DType) (n : Nat) (ab : List (Val × Val)) (acc : Nat) : Nat × BitVec 5 :=
  let a := fmtF32.val acc
  let pos := infProduct false ab
  let neg := infProduct true ab
  if ab.any (fun p => isNan p.1 || isNan p.2) || isNan a then (fmtF32.nanCode, 0)
  else if zeroTimesInf ab || (pos && neg) || (pos && a == .inf true) || (neg && a == .inf false) then
    (fmtF32.nanCode, fINV)
  else if pos then (fmtF32.infCode, 0)
  else if neg then (fmtF32.withSign true fmtF32.infCode, 0)
  else if isInf a then (acc, 0)
  else dotFinite (elemBits t == 4) n (ab.map fun p => product (factorOf t p.1) (factorOf u p.2)) acc

/-- Products per group (R328). -/
def groupSize (t : DType) : Nat := if elemBits t = 4 then 32 else if elemBits t = 16 then 8 else 16

/-- An INT8 row (R332): the INT32 code, and whether it was clamped. -/
def intRow (ab : List (Int × Int)) (acc : Nat) : Nat × Bool :=
  let v := ab.foldl (fun t p => t + p.1 * p.2) (signedOf 32 acc)
  let w : Int := max (-2147483648) (min v 2147483647)
  ((w % (2 ^ 32 : Nat)).toNat, v != w)

/-! ## Lanewise additions of the slices (R126) -/

/-- FP32 addition of a slice: RNE, NONSAT. -/
def sliceAddF32 (a b : Nat) : Nat × BitVec 5 :=
  let (v, f) := addVal false (fmtF32.val a) (fmtF32.val b)
  let (c, g) := roundTo fmtF32 .rne false 0 v
  (c, f ||| g)

/-- Two BF16 additions in the halves of a word. -/
def sliceAddBf16x2 (a b : Nat) : Nat × BitVec 5 :=
  let one (x y : Nat) : Nat × BitVec 5 :=
    let (v, f) := addVal false (fmtBf16.val x) (fmtBf16.val y)
    let (c, g) := roundTo fmtBf16 .rne false 0 v
    (c, f ||| g)
  let (lo, f) := one (a % 65536) (b % 65536)
  let (hi, g) := one (a / 65536 % 65536) (b / 65536 % 65536)
  (lo + 65536 * hi, f ||| g)

end Sys2Proof.Machine
end

