-- ==== Sys2Proof/Machine/Teardown.lean ====
section
/-! DEFINITION. Sys2Proof/Machine/Teardown.lean: what ends a context: the reset of a core's context state, dropped pins,
the fatal record (R443), and teardown (R444). -/

namespace Sys2Proof.Machine

/-- The part of a block that survives its context: an atomic already sent is performed by its slice (R140). -/
def sentBlock : Option Block → Option Block
  | some (.atomic a) => if a.reply.isNone ∧ a.tag.isNone then some (.atomic a) else none
  | _ => none

/-- A role with nothing bound that has ended (R213). Trap registers keep nothing either. -/
def endedRole (x : Role) : Role := { Role.reset with fin := true, block := sentBlock x.block }

/-- Discard a core's context: registers, queues, handles, engine state (R444). Its writes in flight, its translation
caches, counters and boundaries stay. -/
def clearCore (k : Core) : Core :=
  { k with
    queues := []
    vqueues := []
    qctl := qctlReset
    tokLC := 0
    tokCS := 0
    tokSL := 0
    hdesc := []
    sems := []
    image := []
    roleL := endedRole k.roleL
    roleC := endedRole k.roleC
    roleS := endedRole k.roleS
    task := none
    matrix := Matrix.reset
    copy := Copy.reset }

/-- Drop the pins of a context (R42). -/
def dropPins (s : State) (d : Nat) (owner : Option Nat) : State :=
  { s with pins := s.pins.filter fun p => !(p.die == d && p.owner == owner) }

/-- Instruction fetches, and reads of an image, from peers that are still unanswered are forgotten with their context. -/
def dropFetches (s : State) (c : Nat) : State :=
  { s with peerOut := s.peerOut.filter fun p =>
      match p.who with
      | .fetch c' _ _ => c' != c
      | .image c' _ _ _ => c' != c
      | _ => true }

/-- Cancel what a core's roles and collectives await of other units (R41, R435): probe requests, submissions, posted
records, and contributions not yet taken by a slice. -/
def cancelRequests (s : State) (c : Nat) : State :=
  let mine : Prober → Bool
    | .role c' _ => c' == c
    | .collie _ _ => false
  let fromCore : Submission → Bool
    | u => match u.from_ with
      | some (c', _) => c' == c
      | none => false
  let d := dieOf c
  let jobOf : ContribFrom → Bool
    | .job c' id => c' == c && (core s c).copy.jobs.any fun j => j.id == id
    | .peer _ _ => false
  { s with
    probes := s.probes.filter fun p => !mine p.who
    collies := tabSet s.collies d { collie s d with subs := (collie s d).subs.filter fun u => !fromCore u }
    ports := s.ports.map fun e =>
      (e.1, { e.2 with posted := e.2.posted.filter fun p => !(p.core == c && p.task == (core s c).task) })
    contribs := s.contribs.filter fun x => !(jobOf x.x.src && x.st != .sent && x.st != .held) }

/-- A snapshot instruction of a core that is in flight goes on without its role (R168, R444). -/
def leaveSnap (s : State) (c : Nat) : State :=
  { s with snFlight := s.snFlight.map fun f => if f.core = c then { f with orphan := true } else f }

/-- End the context of one core. -/
def endCore (s : State) (c : Nat) : State :=
  modCore (l1Flush (cancelRequests (dropFetches (leaveSnap s c) c) c) c) c clearCore

/-- The fatal record (R443). `c`, `r`: the core and role that raised it. -/
def fatalRecord (s : State) (c : Nat) (r : RoleId) (gi : BitVec 16) (f : Fatal) : List Word :=
  [ofFields [(48, (core s c).xid.toNat), (40, 2), (30, c), (28, if f.unit = 0 then r.code.toNat else 3), (20, f.code),
      (16, f.unit), (8, f.detail)],
    BitVec.ofNat 64 (f.va % 2 ^ 57), BitVec.ofNat 64 (if f.unit = 0 then f.pc else 0),
    ofFields [(48, gi.toNat), (0, f.dpa % 2 ^ 44)]] ++
    (f.cmd.take 4 ++ List.replicate (4 - f.cmd.length) 0) ++ [f.prog, f.aux]

/-- A pre-emption in progress of a torn-down task ends with RESULT 3 (R420). -/
def abandonPreempt (s : State) (d id : Nat) : State :=
  match (collie s d).pre with
  | none => s
  | some p =>
    if p.id = id then
      putReg (setCollie s d { collie s d with pre := none }) (rClpre d) 61 58 3
    else s

/-- The cores of the context that runs on a core: its rectangle, or the core alone. -/
def contextCores (s : State) (c : Nat) : List Nat :=
  match coreTask s c with
  | none => [c]
  | some t => taskCores t

/-- Teardown (R444). On a system core the resident kernel's context on that die ends (log 22). -/
def teardown (s : State) (c : Nat) (r : RoleId) (f : Fatal) (record : Bool) : State :=
  let d := dieOf c
  match coreTask s c with
  | none =>
    let ws := fatalRecord s c r 0 f
    let s := endCore s c
    if record then fqPush s d ws else s
  | some t =>
    let ws := fatalRecord s c r t.gi f
    let s := (taskCores t).foldl endCore s
    let s := dropPins s d (some t.id)
    let s := if taskVote t then raiseFlags s 8 else s
    let s := abandonPreempt s d t.id
    let s := if record then fqPush s d ws else s
    taskFails (modTask s d t.id fun u => { u with place := none }) d t.id 2

/-- A fatal error of a role's word at its counter (R443). -/
def roleFatal (s : State) (c : Nat) (r : RoleId) (word : Word) (f : Fatal) : State :=
  let f := { f with pc := (getRole s c r).pc.toNat }
  teardown s c r (if f.unit = 0 then { f with cmd := [word] } else f) true

/-- A fatal error of a posted access, after its word (R161, R427). -/
def siteFatal (s : State) (c : Nat) (r : RoleId) (x : Site) (f : Fatal) : State :=
  teardown s c r { f with pc := x.pc.toNat, va := x.va.toNat, cmd := [x.word] } true

end Sys2Proof.Machine
end

