-- ==== Sys2Proof/Machine/Ops.lean ====
section
/-! DEFINITION. Sys2Proof/Machine/Ops.lean: trap entry and return (R440), asynchronous traps (R373, R392), the order in
which a word is checked, and what its completion changes (R203, R205, R220, R241). Every meaning of a word is one call
of `issue` with the word's body. -/

namespace Sys2Proof.Machine

/-! ## Trap entry and return -/

/-- TSTAT with the status of a handler just entered (R440): PM := MODE, IN := 1, and MODE := 1 when TVEC.SYS = 1. -/
def enterStat (tstat : BitVec 16) (mode sys : Bool) : BitVec 16 :=
  let m : BitVec 16 := if mode then 0x6#16 else 0x0#16
  (tstat &&& 0xFFF8#16) ||| m ||| (if sys then 0x4#16 else 0#16) ||| 0x1#16

/-- TrapEntry (R440) for a role, at a return address. With IN = 1 or no handler it is the fatal UNHANDLED, whose record
carries the code, the value and the address of the word that raised it (R443). -/
def trapEntry (s : State) (c : Nat) (r : RoleId) (word : Word) (raised : VA) (code : Nat) (val : Word) (pc : VA)
    (async : Bool) : State :=
  let x := getRole s c r
  if inHandler x ∨ bits x.tvec 56 3 = 0 then
    roleFatal (putRole s c r { x with pc := raised }) c r word { fatalAt 0x4A 0 0 0 with prog := val, aux := BitVec.ofNat 64 code }
  else
    putRole (countEvent s c r 0x0D 1) c r
      { x with
        tpc := pc
        tcause := BitVec.ofNat 9 (code + if async then 256 else 0)
        tval := val
        tstat := enterStat x.tstat (systemMode s c r) (bit x.tvec 0)
        pc := BitVec.ofNat 57 (bits x.tvec 56 3 * 8)
        atSafe := false
        returning := false
        why := none }

/-- An asynchronous trap is held for the role (R373, R392). -/
def trapPending (x : Role) : Bool := bit x.tstat 3

/-- The TVAL of the held asynchronous trap. -/
def pendingTval (s : State) (c : Nat) (r : RoleId) : Word :=
  let k := core s c
  if bits (getRole s c r).tstat 15 8 = tMISMATCH then (k.matrix.pend.map fun p => p.1.zeroExtend 64).getD 0
  else tabD k.copy.stopTval (roleNum r) 0

/-- Hold an asynchronous trap for a role until it may be delivered. -/
def holdAsync (s : State) (c : Nat) (r : RoleId) (code : Nat) : State :=
  modRole s c r fun x => { x with tstat := (x.tstat &&& 0x00FF#16) ||| BitVec.ofNat 16 (256 * code + 8) }

/-- A trap that came while another was held is held in its turn (R441; log 32). -/
def holdNext (s : State) (c : Nat) (r : RoleId) : State :=
  let k := core s c
  if r = .C ∧ k.matrix.pend.isSome then holdAsync s c r tMISMATCH
  else if (tabGet k.copy.stopTval (roleNum r)).isSome then holdAsync s c r tSHADOW
  else s

/-- A word that traps, or whose wait is abandoned, leaves the token of its pop-before at the head of its FIFO (R241). -/
def returnToken (s : State) (c : Nat) (r : RoleId) : State :=
  if (getRole s c r).popDone then
    modRole (modCore s c fun k => setUp k r (upCount k r + 1)) c r fun x => { x with popDone := false }
  else s

/-- A role halts for a debugger, with a reason (R448). -/
def debugStop (s : State) (c : Nat) (r : RoleId) (why : Nat) : State :=
  let k := core s c
  let n := roleNum r
  let one : BitVec 3 := BitVec.ofNat 3 (2 ^ n)
  let w : Word := putBits (k.dbg.why.zeroExtend 64) (4 * n + 3) (4 * n) why
  setCore s c
    { k with dbg := { k.dbg with halt := k.dbg.halt ||| one, step := k.dbg.step &&& ~~~one, why := w.setWidth 12 } }

/-- WHY of a role (R448). -/
def whyOf (k : Core) (r : RoleId) : Nat := bits k.dbg.why (4 * roleNum r + 3) (4 * roleNum r)

/-- A halt that was put off takes effect at this word boundary (R449). -/
def lateHalt (s : State) (c : Nat) (r : RoleId) : State := if whyOf (core s c) r = 5 then debugStop s c r 1 else s

/-- Deliver the held asynchronous trap before the word at the counter. A halt that was put off falls before the first word of
the handler (R441). -/
def deliverAsync (s : State) (c : Nat) (r : RoleId) (word : Word) : State :=
  let code := bits (getRole s c r).tstat 15 8
  let val := pendingTval s c r
  let s := modRole s c r fun x => { x with tstat := x.tstat &&& 0x00F7#16 }
  let s := modCore s c fun k =>
    if code = tMISMATCH then { k with matrix := { k.matrix with pend := none } }
    else { k with copy := { k.copy with stopTval := tabDel k.copy.stopTval (roleNum r) } }
  let pc := (getRole s c r).pc
  lateHalt (holdNext (trapEntry (returnToken s c r) c r word pc code val pc true) c r) c r

/-- TSTAT after eret (R440): MODE := PM, IN := 0. -/
def leaveStat (tstat : BitVec 16) : BitVec 16 :=
  (tstat &&& 0xFFFA#16) ||| (if bit tstat 1 then 0x4#16 else 0#16)

/-- Eret (R440): the mode and counter are restored; jobs of the role that a SHADOW_FULL stopped resume (R392). -/
def eretBody : Body := fun c r s =>
  let x := getRole s c r
  if !inHandler x then .error (.trap tILLEGAL 0)
  else if bit x.tstat 1 ∧ !bit x.tstat 2 ∧ !isSystem c then .error (.trap tPRIV 0)
  else
    let resumed := x.tcause == BitVec.ofNat 9 (256 + tSHADOW)
    let s := putRole s c r { x with tstat := leaveStat x.tstat, pc := x.tpc }
    let wakeJob (j : CJob) : CJob := if resumed ∧ j.role = r then { j with stopped := false } else j
    .ok (modCore s c fun k => { k with copy := { k.copy with jobs := k.copy.jobs.map wakeJob } }, .stay)

/-! ## When a role may issue -/

/-- What a role waits for makes it stoppable (R221). -/
def stopWait : Option Wait → Bool
  | some .other => false
  | none => false
  | _ => true

/-- A role is stoppable in a task that is no LOOP (R221). -/
def stoppable (x : Role) : Bool :=
  x.loads.isEmpty &&
    (x.fin ||
      match x.block with
      | none => (x.atSafe && !x.pushDue && x.mid == 0) || stopWait x.why
      | some (.probe _) => true
      | _ => false)

/-- While pre-emption of its context is requested, a role of a task that is no LOOP stays at its next stoppable point (R221,
R420). -/
def preemptHolds (s : State) (c : Nat) (r : RoleId) : Bool :=
  match (collie s (dieOf c)).pre, coreTask s c with
  | some p, some t => p.id == t.id && taskKind t != 1 && stoppable (getRole s c r)
  | _, _ => false

/-- A debugger, fin, a halt, a word still in progress, or a pre-emption holds the role. -/
def roleHeld (s : State) (c : Nat) (r : RoleId) : Bool :=
  let k := core s c
  let x := k.role r
  x.fin || x.block.isSome || bit k.dbg.halt (roleNum r) || k.halted || preemptHolds s c r

/-- Smallest WALK of the core's other roles that have not ended (R203). -/
def leastWalk (s : State) (c : Nat) (r : RoleId) : Option Nat :=
  (((coreRoles c).filter fun q => q != r && !(getRole s c q).fin).map fun q => (getRole s c q).walk.toNat).min?

/-- The slip window lets the role pass n words (R203). -/
def mayPass (s : State) (c : Nat) (r : RoleId) (n : Nat) : Bool :=
  let x := getRole s c r
  if inHandler x then true
  else match leastWalk s c r with
    | none => true
    | some w => decide (x.walk.toNat + n ≤ w + (core s c).win.toNat)

/-- A role's tokens may be pushed: every earlier memory operation of the role has been performed at core scope, and the
releases it began are complete (R89, R108). -/
def pushReady (s : State) (c : Nat) (r : RoleId) : Bool := coreQuiet s c r && relSettled s c r

/-- Act on a push-after that is due, once it may and the FIFO has room (R89). -/
def settlePush (s : State) (c : Nat) (r : RoleId) : State :=
  let x := getRole s c r
  if x.pushDue ∧ x.block.isNone ∧ pushReady s c r ∧ downCount (core s c) r < 16 then
    pushTokens (putRole s c r { x with pushDue := false }) c r 1
  else s

/-- The word boundary at which a debugger's step ends, or its deferred halt takes effect (R449, R450). -/
def endStep (s : State) (c : Nat) (r : RoleId) : State :=
  let k := core s c
  if bit k.dbg.step (roleNum r) then debugStop s c r 2
  else if (getRole s c r).returning then s
  else lateHalt s c r

/-- A word is complete: its pop-before pops, unless it has, SAFECNT and WALK count it, the counter moves, its push-after falls
due. An eret, which stays at TPC and does not end its role, leaves the role returning until the word there has issued (R449). -/
def complete (s : State) (c : Nat) (r : RoleId) (m : Mark) (len : Nat) (fl : Flow) : State :=
  let s := if m.pb ∧ !(getRole s c r).popDone then popTokens s c r 1 else s
  let x := getRole s c r
  let walk := if inHandler x ∨ fl = .stay then x.walk else x.walk + BitVec.ofNat 64 len
  let pc : VA := match fl with
    | .jump a => BitVec.ofNat 57 a
    | .stay => x.pc
    | _ => x.pc + BitVec.ofNat 57 (8 * len)
  let s := putRole s c r
    { x with
      pc := pc
      walk := walk
      safecnt := if fl = .safePoint then 0 else x.safecnt + 1
      atSafe := fl = .safePoint
      mid := 0
      popDone := false
      bpPass := false
      returning := fl == .stay && !x.fin
      why := none
      pushDue := x.pushDue || m.pa }
  endStep (settlePush (countEvent s c r 0x02 1) c r) c r

/-- The end of a word at `raised` that traps; TPC is the counter. -/
def takeTrapFrom (s : State) (c : Nat) (r : RoleId) (word : Word) (raised : VA) (code : Nat) (val : Word) : State :=
  let s := returnToken s c r
  endStep (trapEntry (modRole s c r fun x => { x with mid := 0, bpPass := false }) c r word raised code val
    (getRole s c r).pc false) c r

/-- The end of a word that traps at itself. -/
def takeTrap (s : State) (c : Nat) (r : RoleId) (word : Word) (code : Nat) (val : Word) : State :=
  takeTrapFrom s c r word (getRole s c r).pc code val

/-- Bodies name the word itself as TVAL by 0 with these codes (R439). -/
def trapValue (code : Nat) (val word : Word) : Word :=
  if code = tILLEGAL ∨ code = tPRIV ∨ code = tFMT then word else val

/-- The role waits at its word. -/
def waits (s : State) (c : Nat) (r : RoleId) (w : Wait) : State := modRole s c r fun x => { x with why := some w }

/-- Waits at which a word stands after its pop-before has taken its token (R89). -/
def afterToken : Wait → Bool
  | .other => false
  | .slip _ => false
  | _ => true

/-- Words that may trap after they have left the core, and so leave their token at the head of its FIFO until they complete
(R161, R241). -/
def trapsLate : Instr → Bool
  | .amo _ _ _ _ _ _ | .cas _ _ _ _ _ | .casc _ _ _ _ _ _ | .vamo _ _ _ _ _ _ _ _ | .st _ _ _ _ _ | .stl _ _ _ _ _ _
  | .vst _ _ _ _ _ | .vstx _ _ _ _ _ | .coll _ _ _ _ => true
  | _ => false

/-- A word that goes on waiting has taken the token of its pop-before (R89). -/
def popEarly (s : State) (c : Nat) (r : RoleId) (m : Mark) : State :=
  if m.pb ∧ !(getRole s c r).popDone then modRole (popTokens s c r 1) c r fun x => { x with popDone := true } else s

/-- The fatal OVERDUE (R220). -/
def overdue (s : State) (c : Nat) (r : RoleId) (word : Word) : State := roleFatal s c r word (fatalAt 0x45 0 0 0)

/-- SAFECNT stands at its limit (R220). -/
def isOverdue (s : State) (c : Nat) (r : RoleId) : Bool := (getRole s c r).safecnt.toNat == 4096

/-- How a word ends, once it issues. -/
def endBody (s : State) (c : Nat) (r : RoleId) (i : Instr) (m : Mark) (len : Nat) : Except Stop (State × Flow) → State
  | .ok (t, .trapAfter v) =>
    takeTrapFrom (complete t c r m len .seq) c r ((encode i).headD 0) (getRole s c r).pc tTRAPI v
  | .ok (t, fl) => complete t c r m len fl
  | .error (.trap code v) => takeTrap s c r ((encode i).headD 0) code (trapValue code v ((encode i).headD 0))
  | .error (.trapKeep t code v) => takeTrap t c r ((encode i).headD 0) code v
  | .error (.fatal t f) => roleFatal t c r ((encode i).headD 0) f
  | .error (.wait w) => waits s c r w
  | .error (.hold t) => if trapsLate i then t else popEarly t c r m

/-- Run a word's body and act on how it ends. A word that waits does not issue; one that would issue while SAFECNT is 4096 is
the fatal OVERDUE instead (R220). -/
def runBody (s : State) (c : Nat) (r : RoleId) (i : Instr) (m : Mark) (len : Nat) (b : Body) : State :=
  match b c r s with
  | .error (.wait w) => waits (if afterToken w then popEarly s c r m else s) c r w
  | q => if isOverdue s c r then overdue s c r ((encode i).headD 0) else endBody s c r i m len q

/-- Words that are ILLEGAL at decode on a core: a system-core word on a worker core (R284), and a register number
that names nothing (R280). -/
def barred (c : Nat) : Instr → Bool
  | .xinvAll _ | .xinvX _ _ | .xinvVa _ _ _ | .xinvG _ _ | .ptmc _ _ _ | .ptmcSync _ | .cfgd _ _ _ | .halt _ => !isSystem c
  | .mfsr _ _ n | .mtsr _ n _ => !isRegister n.toNat
  | _ => false

/-- The checks of R241 around a word's body: the slip window (R203), ILLEGAL, the token of pop-before, which is an acquire
(R84, R112 note (a)), then the guard, whose failure leaves only the token marks, then the body. -/
def issueAt (s : State) (c : Nat) (r : RoleId) (i : Instr) (m : Mark) (len : Nat) (guard : Bool) (b : Body) : State :=
  let word := (encode i).headD 0
  let pops := m.pb && !(getRole s c r).popDone
  if !mayPass s c r len then waits s c r (.slip len)
  else if (i.check).isSome ∨ barred c i ∨ (isSystem c ∧ (m.pb ∨ m.pa)) then
    if isOverdue s c r then overdue s c r word else takeTrap s c r word tILLEGAL word
  else if pops ∧ upCount (core s c) r = 0 then waits s c r (.tokPop 1)
  else if pops ∧ !acqReady s c r .core then waits s c r .other
  else if !guard then
    if isOverdue s c r then overdue s c r word else complete s c r m len .seq
  else runBody s c r i m len b

/-- Issue a word in the role that acts. A role that cannot issue changes nothing but what it is seen to wait for; a push-after still due, or a held
trap, comes first. -/
def issue (i : Instr) (m : Mark) (len : Nat) (guard : Nat → RoleId → State → Bool) (b : Body) (s : State) :
    Host.Outcome State Fault Refusal :=
  let c := s.cur.1
  let r := s.cur.2
  if !roleExists s c r then .next s
  else if roleHeld s c r then .next s
  else
    let s := settlePush s c r
    let x := getRole s c r
    if preemptHolds s c r then .next s
    else if x.pushDue then .next (waits s c r (if pushReady s c r then .tokPush 1 else .other))
    else if trapPending x ∧ !inHandler x ∧ x.mid = 0 then .next (deliverAsync s c r ((encode i).headD 0))
    else .next (issueAt s c r i m len (guard c r s) b)

/-- A word without a guard. -/
def noGuard : Nat → RoleId → State → Bool := fun _ _ _ => true

/-- A scalar guard (R227). -/
def scalarGuard (g : Guard) : Nat → RoleId → State → Bool := fun c r s => guardBit c r s g

/-- A vector guard: some lane is active (R241). -/
def vectorGuard (g : Guard) : Nat → RoleId → State → Bool := fun c r s => guardLanes c r s g != 0

/-! ## Helpers of bodies -/

/-- A word that reads and writes as declared, whose result is a function of the state after the checks. -/
def done (s : State) : Except Stop (State × Flow) := .ok (s, .seq)

/-- A privileged word in user mode traps (R240). -/
def needSystem (c : Nat) (r : RoleId) (s : State) : Except Stop Unit :=
  if systemMode s c r then .ok () else .error (.trap tPRIV 0)

/-- A word that no system core executes (R267, R271). -/
def needWorker (c : Nat) : Except Stop Unit := if isSystem c then .error (.trap tILLEGAL 0) else .ok ()

/-- The stage the current word has reached. -/
def stage (c : Nat) (r : RoleId) (s : State) : Nat := (getRole s c r).mid

def setStage (c : Nat) (r : RoleId) (s : State) (n : Nat) : State := modRole s c r fun x => { x with mid := n }

end Sys2Proof.Machine
end

