-- ==== Sys2Proof/Machine/Access.lean ====
section
/-! DEFINITION. Sys2Proof/Machine/Access.lean: the loads and stores of a role as they leave the core (R292 to R299):
requests to peers, outstanding loads, and stores placed where their target's attributes say (R294). -/

namespace Sys2Proof.Machine

/-! ## Requests to peers (R38, R424, R426) -/

/-- A port is UP (R425). -/
def portUp (s : State) (p : Nat) : Bool := portState s p == 2

/-! ## Outstanding loads -/

/-- Bits of a line that the active lanes of a piece cover. -/
def laneMask (act : BitVec 64) (l0 off : Nat) : (n : Nat) → BitVec 128
  | 0 => 0
  | n + 1 => (if act.getLsbD (l0 + n) then byteMask (off + 4 * n) 4 else 0) ||| laneMask act l0 off n

/-- A key that stands for a pool byte in a Target, so that held stores to scratch compare with loads from it; no device
has the identifier 4096. -/
def poolTarget (key : Nat) : Target :=
  { peer := some 4096, dpa := key, nc := true, cv := false, ver := false, cmp := false, alloc := 0 }

/-- The L1 serves the masked bytes of a target's line: those it holds valid, or dirty when fresh ones are asked for
(R296). -/
def l1Serves (k : Core) (t : Target) (mask : BitVec 128) (fresh : Bool) : Option Line :=
  if usesL1 k t then
    match tabGet k.l1 (l1Key t) with
    | some l => if mask &&& ~~~(if fresh then l.dirty else l.valid) = 0 then some l.data else none
    | none => none
  else none

/-- One part of a load: n bytes at `loc`, whose virtual address is `va`, for place `off` of the result, of which the mask is needed. Scratch and the L1
answer at once. -/
def makePart (s : State) (c : Nat) (r : RoleId) (fresh : Bool) (va : Nat) (mask : BitVec 128) (n off : Nat) :
    Loc → State × LoadPart
  | .pool key =>
    (s, { tgt := poolTarget key, va := BitVec.ofNat 57 va, n := n, off := off, fill := false, tag := none, got := some (readBytes s.mem key n) })
  | .dev t _ =>
    let k := core s c
    match l1Serves k t mask fresh with
    | some l =>
      (countEvent s c r 0x09 1,
        { tgt := t, va := BitVec.ofNat 57 va, n := n, off := off, fill := false, tag := none, got := some (bytesFrom l (t.dpa % 128) n) })
    | none =>
      let s := if usesL1 k t then countEvent s c r 0x0A 1 else s
      (s, { tgt := t, va := BitVec.ofNat 57 va, n := n, off := off, fill := usesL1 k t, tag := none, got := none })

/-- The role must wait before it accesses a location: an earlier access of its own to the line is still to be performed
(R82, R107; log 7). -/
def locBusy (s : State) (c : Nat) (r : RoleId) : Loc → Bool
  | .pool key => lineBusy s c r (poolTarget key)
  | .dev t _ => lineBusy s c r t

/-- The bytes that a part takes of the line its home slice answers: with the core's dirty bytes over it, where the L1 serves
the target (R55, R296). -/
def takenBytes (k : Core) (p : LoadPart) (l : Line) : List Byte :=
  match usesL1 k p.tgt, tabGet k.l1 (l1Key p.tgt) with
  | true, some x => bytesFrom (mergeLine x.dirty l x.data) (p.tgt.dpa % 128) p.n
  | _, _ => bytesFrom l (p.tgt.dpa % 128) p.n

/-- The value of a part is fixed: the bytes, and the line that fills the L1, where it may (R55, R80). -/
def takePart (s : State) (c : Nat) (p : LoadPart) (l : Line) : State × List Byte :=
  let k := core s c
  (if usesL1 k p.tgt then l1Fill s c p.tgt l else s, takenBytes k p l)

/-- Bytes placed at an offset of a 256-byte result. -/
def placeBytes (ps : List (Nat × List Byte)) : Nat :=
  ps.foldl (fun v p => v ||| (leNat p.2 <<< (8 * p.1))) 0

/-- The value of a scalar load of n bytes. -/
def scalarValue (n : Nat) (sx : Bool) (v : Nat) : Word :=
  if sx then (BitVec.ofNat 64 v <<< (64 - 8 * n)).sshiftRight (64 - 8 * n) else BitVec.ofNat 64 v

/-- The lanes of a vector load: elements of esz bytes, zero- or sign-extended to 32 bits. -/
def laneValues (esz : Nat) (sx : Bool) (ps : List (Nat × List Byte)) : VReg :=
  let v := placeBytes ps
  ofLanes fun i =>
    let e : BitVec 32 := BitVec.ofNat 32 ((v >>> (32 * i)) % 2 ^ (8 * esz))
    if sx then (e <<< (32 - 8 * esz)).sshiftRight (32 - 8 * esz) else e

/-- Replace the place that a load was promised in a queue. -/
def fillQ (id : Nat) (v : Reg) : List QSlot → List QSlot
  | [] => []
  | .due i :: r => if i = id then .full v :: r else .due i :: fillQ id v r
  | x :: r => x :: fillQ id v r

def fillVQ (id : Nat) (v : VReg) : List VSlot → List VSlot
  | [] => []
  | .due i :: r => if i = id then .full v :: r else .due i :: fillVQ id v r
  | x :: r => x :: fillVQ id v r

/-- Write the result of a load to its destination. -/
def writeLoad (s : State) (c : Nat) (r : RoleId) (l : Load) : State :=
  let k := core s c
  let ps := l.parts.map fun p => (p.off, p.got.getD [])
  match l.dest with
  | .none => s
  | .g n => modRole s c r fun x => { x with g := tabSet x.g n ⟨scalarValue l.esz l.sx (placeBytes ps), l.taint⟩ }
  | .q n =>
    setCore s c { k with queues := tabSet k.queues n
                           (fillQ l.id ⟨scalarValue l.esz l.sx (placeBytes ps), l.taint⟩ (tabD k.queues n [])) }
  | .v n =>
    modRole s c r fun x =>
      { x with v := tabSet x.v n (mergeLanes (l.lanes.getD 0) (tabD x.v n 0) (laneValues l.esz l.sx ps)) }
  | .vq n =>
    setCore s c { k with vqueues := tabSet k.vqueues n
                           (fillVQ l.id (mergeLanes (l.lanes.getD 0) 0 (laneValues l.esz l.sx ps)) (tabD k.vqueues n [])) }

/-- Every part of a load has its bytes. -/
def loadReady (l : Load) : Bool := l.parts.all fun p => p.got.isSome

/-- A load whose bytes are all there: its destination is written, and an lda acquires (R296). -/
def finishLoad (s : State) (c : Nat) (r : RoleId) (l : Load) : State :=
  let s := writeLoad s c r l
  match l.acq with
  | some x => acquire s c x
  | none => s

/-- Reserve the queue place of an outstanding load (R292), or the slot of its register (R215; log 46). -/
def reserveDest (s : State) (c : Nat) (r : RoleId) (d : Dest) (id : Nat) : State :=
  match d with
  | .g n => touchSlot c r s false n
  | .v n => touchSlot c r s true n
  | .q n => modCore s c fun k => { k with queues := tabSet k.queues n (tabD k.queues n [] ++ [.due id]) }
  | .vq n => modCore s c fun k => { k with vqueues := tabSet k.vqueues n (tabD k.vqueues n [] ++ [.due id]) }
  | _ => s

/-- Issue a load: it finishes at once when no part is awaited; otherwise it is outstanding, and an lda holds its role. -/
def startLoad (s : State) (c : Nat) (r : RoleId) (l : Load) : State :=
  let (s, id) := freshId s
  let l := { l with id := id }
  let s := reserveDest s c r l.dest id
  if loadReady l then finishLoad s c r l
  else
    modRole s c r fun x =>
      { x with loads := x.loads ++ [l], block := if l.acq.isSome then some (.lda id) else x.block }

/-! ## Stores -/

/-- A masked piece of a store: the lanes [lane, next) of its word, at an address. -/
structure Elem where
  lane : Nat
  next : Nat
  va   : Nat
  loc  : Loc
  mask : BitVec 128
  data : Line
  deriving DecidableEq, Repr

/-- How far the elements of a store have come. -/
inductive Placed where
  | done (s : State)
  /-- An earlier access must be performed before the element of this lane. -/
  | busy (s : State) (lane : Nat)
  /-- A precise write is on its way; the word goes on from lane `next` when it is acknowledged. -/
  | precise (s : State) (id next : Nat)

/-- Write the masked bytes of a pool: the mask counts from the line of the key. -/
def poolMasked (s : State) (key : Nat) (mask : BitVec 128) (d : Line) : State :=
  { s with mem := writeMasked mask s.mem (key / 128 * 128) 0 (lineBytes d) }

/-- Store masked bytes to scratch: at the bank at once, or, the other way of the step, once they reach it (R86, R363; log 3). -/
def poolStore (c : Nat) (r : RoleId) (site : Site) (s : State) (key : Nat) (mask : BitVec 128) (d : Line) : State :=
  if s.alt then
    postWrite s c { plainWrite (roleBit r) ⟨{ poolTarget key with dpa := key / 128 * 128 }, mask, d⟩ site with place := .bank }
  else poolMasked s key mask d

/-- Between two elements of one line the L1 may evict the line, so that an observer sees the first without the second (R79,
R299): one of the two ways of the step (log 3). -/
def betweenElems (s : State) (c : Nat) (t : Target) (rest : List Elem) : State :=
  let again : Bool := match rest with
    | { loc := .dev u _, .. } :: _ => l1Key u == l1Key t
    | _ => false
  if again && s.alt then l1Evict s c (l1Key t) else s

/-- Perform the elements of a store in order, where R294 says; an element in an open snapshot range is precise (R163). -/
def placeElems (c : Nat) (r : RoleId) (pc : VA) (word : Word) : State → List Elem → Placed
  | s, [] => .done s
  | s, e :: rest =>
    if locBusy s c r e.loc then .busy s e.lane
    else
      match e.loc with
      | .pool key => placeElems c r pc word (poolStore c r ⟨pc, word, BitVec.ofNat 57 e.va⟩ s key e.mask e.data) rest
      | .dev t _ =>
        let site : Site := ⟨pc, word, BitVec.ofNat 57 e.va⟩
        let w := plainWrite (roleBit r) ⟨lineTarget t, e.mask, e.data⟩ site
        if inOpenRange s t then
          let s := l1Purge s c t
          .precise (postWrite s c { w with precise := true, lane := e.lane }) s.nextId e.next
        else if usesL1 (core s c) t then placeElems c r pc word (betweenElems (l1Store s c r t e.mask e.data) c t rest) rest
        else placeElems c r pc word (postWrite s c w) rest

/-- Where a vector store goes on: VSTART when it starts, or the lane it has come to. -/
def storeFrom (x : Role) : Nat := if x.mid = 0 then x.vstart.toNat else x.mid - 1

/-- Where a scalar store goes on: its one element, unless that has been performed. VSTART does not act on it. -/
def storeOnce (x : Role) : Nat := x.mid - 1

/-- Perform a store's elements from lane `start`, which it has come to; `fin` ends the word. -/
def storeElems (c : Nat) (r : RoleId) (word : Word) (s : State) (start : Nat) (es : List Elem) (fin : State → State) :
    Except Stop (State × Flow) :=
  let x := getRole s c r
  let es := es.filter fun e => decide (start < e.next)
  if (es.head?.map fun e => locBusy s c r e.loc).getD false then .error (.wait .other)
  else
    match placeElems c r x.pc word s es with
    | .done s => done (fin s)
    | .busy t lane => .error (.hold (setStage c r t (lane + 1)))
    | .precise t id next => .error (.hold (modRole t c r fun y => { y with block := some (.stores id next) }))

end Sys2Proof.Machine
end

