-- ==== Sys2Proof/Machine/Mem.lean ====
section
/-! DEFINITION. Sys2Proof/Machine/Mem.lean: scalar and vector loads and stores (R295 to R299), and the events that
perform them: HOME_SLICE_READ, LOAD_DATA_RETURN, HOME_SLICE_WRITE, WRITE_ACKNOWLEDGE. -/

namespace Sys2Proof.Machine

/-- Bytes of a scalar access. -/
def sizeBytes : Size → Nat
  | .b => 1
  | .h => 2
  | .w => 4
  | .d => 8

/-- A role is judged as user. -/
def userRole (s : State) (c : Nat) (r : RoleId) : Bool := !systemMode s c r

/-! ## Scalar loads -/

/-- The scopes at which ldc and lda read fresh (R296). -/
def freshScope : Option Scope → Bool
  | some .dev => true
  | some .sys => true
  | _ => false

/-- Load (R296). `x`: the scope of ldc or lda; `acq`: lda. -/
def loadBody (word : Word) (n : Nat) (sx : Bool) (x : Option Scope) (acq taint : Bool) (rd : G6) (ea : EA) : Body :=
  fun c r s => do
    checkUse c r s [.g ea.rb, .g ea.ri] (.g rd)
    let (s', b) := readG c r s ea.rb
    let (s', i) := readG c r s' ea.ri
    let a := effAddr b.val i.val ea.sc ea.off
    if a % n ≠ 0 then .error (.fatal s (fALIGN a))
    else
      let (s', loc) ← orFatal s a (coreLoc s' c .read (userRole s c r) false false a n)
      if locBusy s c r loc ∨ !relSettled s c r ∨ (acq ∧ stlBefore s c r (x.getD .core)) then .error (.wait .other)
      else
        let fresh := freshScope x || b.taint || i.taint
        let (s', p) := makePart s' c r fresh a (byteMask (a % 128) n) n 0 loc
        let l : Load :=
          { id := 0, dest := destOf (.g rd), esz := n, sx := sx, taint := taint, lanes := none,
            acq := if acq then x else none, parts := [p],
            site := ⟨(getRole s c r).pc, word, BitVec.ofNat 57 a⟩ }
        done (startLoad s' c r l)

/-- LD (R296). -/
def execLd (m : Mark) (sz : Size) (sx : Bool) (rd : G6) (ea : EA) (g : Guard) (s : State) :
    Host.Outcome State Fault Refusal :=
  issue (.ld m sz sx rd ea g) m 1 (scalarGuard g)
    (loadBody ((encode (.ld m sz sx rd ea g)).headD 0) (sizeBytes sz) sx none false false rd ea) s

/-- LDC (R296): taints its destination. -/
def execLdc (m : Mark) (sz : Size) (sx : Bool) (x : Scope) (rd : G6) (ea : EA) (g : Guard) (s : State) :
    Host.Outcome State Fault Refusal :=
  issue (.ldc m sz sx x rd ea g) m 1 (scalarGuard g)
    (loadBody ((encode (.ldc m sz sx x rd ea g)).headD 0) (sizeBytes sz) sx (some x) false true rd ea) s

/-- LDA (R296): an acquire at the scope follows the load. -/
def execLda (m : Mark) (sz : Size) (sx : Bool) (x : Scope) (rd : G6) (ea : EA) (g : Guard) (s : State) :
    Host.Outcome State Fault Refusal :=
  issue (.lda m sz sx x rd ea g) m 1 (scalarGuard g)
    (loadBody ((encode (.lda m sz sx x rd ea g)).headD 0) (sizeBytes sz) sx (some x) true false rd ea) s

/-! ## Scalar stores -/

/-- The operands of a store, data register first (R20): its address and the low n bytes of its data. -/
def storeOperands (c : Nat) (r : RoleId) (s : State) (rs : G6) (ea : EA) : State × Nat × Nat :=
  let (s, d) := readG c r s rs
  let (s, b) := readG c r s ea.rb
  let (s, i) := readG c r s ea.ri
  (s, effAddr b.val i.val ea.sc ea.off, d.val.toNat)

/-- The element of a scalar store. -/
def storeElem (a n d : Nat) (loc : Loc) : Elem :=
  { lane := 0, next := 1, va := a, loc := loc, mask := byteMask (a % 128) n, data := bytesAt (a % 128) (leBytes n d) }

/-- Store (R297), st. -/
def storeBody (word : Word) (n : Nat) (rs : G6) (ea : EA) : Body := fun c r s => do
  checkUse c r s [.g rs, .g ea.rb, .g ea.ri] .none
  let (_, a, d) := storeOperands c r s rs ea
  if a % n ≠ 0 then .error (.fatal s (fALIGN a))
  else if stage c r s = 0 ∧ !relSettled s c r then .error (.wait .other)
  else
    let (t, loc) ← orFatal s a (coreLoc s c .write (userRole s c r) false true a n)
    storeElems c r word t (storeOnce (getRole s c r)) [storeElem a n d loc] fun t => (storeOperands c r t rs ea).1

/-- ST (R297). -/
def execSt (m : Mark) (sz : Size) (rs : G6) (ea : EA) (g : Guard) (s : State) : Host.Outcome State Fault Refusal :=
  issue (.st m sz rs ea g) m 1 (scalarGuard g)
    (storeBody ((encode (.st m sz rs ea g)).headD 0) (sizeBytes sz) rs ea) s

/-- Where the held store of an stl is performed (R297): written through at device and system scope, and at cluster
scope to a byte that the L1 does not cache. -/
def stlPlace (k : Core) (x : Scope) : Loc → Place
  | .pool _ => .bank
  | .dev t _ =>
    match x with
    | .dev | .sys => .slice
    | _ => if usesL1 k t then .l1 else .slice

/-- The held store of an stl. -/
def stlWrite (k : Core) (r : RoleId) (x : Scope) (e : Elem) (site : Site) (after : Nat) : Write :=
  let t := match e.loc with
    | .pool key => poolTarget (key / 128 * 128)
    | .dev t _ => lineTarget t
  { plainWrite (roleBit r) ⟨t, e.mask, e.data⟩ site with
    place := stlPlace k x e.loc
    after := after
    rel := x
    thru := usesL1 k t && stlPlace k x e.loc == .slice }

/-- Store (R297), stl: the release begins, and the store is held until it has completed. To an open snapshot range the
store is precise and its role waits for the release as well (R163). -/
def stlBody (word : Word) (n : Nat) (x : Scope) (rs : G6) (ea : EA) : Body := fun c r s => do
  checkUse c r s [.g rs, .g ea.rb, .g ea.ri] .none
  let (s', a, d) := storeOperands c r s rs ea
  if a % n ≠ 0 then .error (.fatal s (fALIGN a))
  else if (stage c r s = 0 ∧ !(relSettled s c r && relReady s c r x)) ∨ (stage c r s = 1 ∧ !relSettled s c r) then
    .error (.wait .other)
  else
    let (t, loc) ← orFatal s a (coreLoc s c .write (userRole s c r) false true a n)
    let e := storeElem a n d loc
    let site : Site := ⟨(getRole s c r).pc, word, BitVec.ofNat 57 a⟩
    let open_ : Bool := match loc with
      | .dev tg _ => inOpenRange s tg
      | .pool _ => false
    if open_ ∨ stage c r s ≠ 0 then
      if stage c r s = 0 then
        let t := beginRelease t c r x
        .error (.hold (modRole t c r fun y => { boundAt x t.nextId y with mid := 1 }))
      else storeElems c r word t (storeOnce (getRole s c r)) [e] fun t => (storeOperands c r t rs ea).1
    else if locBusy s c r loc then .error (.wait .other)
    else
      let (t, _) ← orFatal s a (coreLoc s' c .write (userRole s c r) false true a n)
      let t := beginRelease t c r x
      let t := match loc with
        | .dev tg _ => stopFill t c (l1Key tg)
        | .pool _ => t
      done (postWrite t c (stlWrite (core t c) r x e site t.nextId))

/-- STL (R297). -/
def execStl (m : Mark) (sz : Size) (x : Scope) (rs : G6) (ea : EA) (g : Guard) (s : State) :
    Host.Outcome State Fault Refusal :=
  issue (.stl m sz x rs ea g) m 1 (scalarGuard g)
    (stlBody ((encode (.stl m sz x rs ea g)).headD 0) (sizeBytes sz) x rs ea) s

/-! ## Vector loads and stores (R298) -/

/-- Lanes of a size field. -/
def vecLanes (n : BitVec 2) : Nat := 8 * 2 ^ n.toNat

/-- The pieces of a vector access, one per line with an active lane: first lane, lane after the line, first active
address, bytes from it to the last active lane's end. -/
def vecPieces (a m : Nat) (act : BitVec 64) : List (Nat × Nat × Nat × Nat) :=
  (linesOf a (4 * m)).filterMap fun p =>
    let l0 := (p.1 - a) / 4
    let l1 := l0 + p.2 / 4
    let on := (List.range (l1 - l0)).filter fun i => act.getLsbD (l0 + i)
    match on.head?, on.getLast? with
    | some i, some j => some (l0 + i, l1, a + 4 * (l0 + i), 4 * (j - i + 1))
    | _, _ => none

/-- The active lanes of a vector access touch both sides of the near window (R46). -/
def straddles (ps : List (Nat × Nat × Nat × Nat)) : Bool :=
  (ps.any fun p => decide (p.2.2.1 < NW)) && (ps.any fun p => decide (NW < p.2.2.1 + p.2.2.2))

/-- Locate every piece before any byte (R46, R298). Pieces are located in turn, and a later one that fails leaves the A and D bits
of the earlier ones' leaves set (R39; log 12). -/
def vecLocs (s : State) (c : Nat) (want : Want) (user dirty : Bool) (ps : List (Nat × Nat × Nat × Nat)) :
    Except Stop (State × List (Nat × Nat × Loc)) :=
  if straddles ps then .error (.fatal s (fWINDOW ((ps.map fun p => p.2.2.1).headD 0)))
  else locate s (ps.map fun p => (p.2.2.1, p.2.2.2))
where
  locate : State → List (Nat × Nat) → Except Stop (State × List (Nat × Nat × Loc))
    | s, [] => .ok (s, [])
    | s, (a, n) :: r =>
      match coreLoc s c want user false dirty a n with
      | .error e => .error (xStop s a e)
      | .ok (s, l) =>
        match locate s r with
        | .error e => .error e
        | .ok (s, ls) => .ok (s, (a, n, l) :: ls)

/-- Lanes 0 to m − 1. -/
def lowLanes (m : Nat) : BitVec 64 := BitVec.ofNat 64 (2 ^ m - 1)

/-- The parts of a vector load, at their places of the 256-byte result. -/
def vecParts (c : Nat) (r : RoleId) (fresh : Bool) (a : Nat) (act : BitVec 64) :
    State → List (Nat × Nat × Loc) → State × List LoadPart
  | s, [] => (s, [])
  | s, (p, n, l) :: rest =>
    let (s, x) := makePart s c r fresh p (laneMask act ((p - a) / 4) (p % 128) (n / 4)) n (p - a) l
    let (s, xs) := vecParts c r fresh a act s rest
    (s, x :: xs)

/-- No place in memory: the target of a part that is not read. No device has the identifier 4097. -/
def noTarget : Target := { poolTarget 0 with peer := some 4097 }

/-- The active lanes below `start`, which VSTART has passed over: nothing is read for them, and what they take is free
(log 41). -/
def skippedParts (s : State) (act : BitVec 64) (start n : Nat) : List LoadPart :=
  ((List.range 64).filter fun k => act.getLsbD k && decide (k < start)).map fun k =>
    { tgt := noTarget, va := 0, n := n, off := 4 * k, fill := false, tag := none,
      got := some (leBytes n (Config.skippedLane s.tick k).toNat) }

/-- VLD (R298). With VSTART set, the lines below it are not performed. -/
def execVld (m : Mark) (n : BitVec 2) (vd : V5) (ea : EA) (g : Guard) (s : State) : Host.Outcome State Fault Refusal :=
  issue (.vld m n vd ea g) m 1 (vectorGuard g)
    (fun c r s => do
      checkUse c r s [.g ea.rb, .g ea.ri] (.v vd)
      let (s', b) := readG c r s ea.rb
      let (s', i) := readG c r s' ea.ri
      let a := effAddr b.val i.val ea.sc ea.off
      let act := guardLanes c r s g &&& lowLanes (vecLanes n)
      if a % 32 ≠ 0 then .error (.fatal s (fALIGN a))
      else
        let all := vecPieces a (vecLanes n) act
        let (s', _) ← vecLocs s' c .read (userRole s c r) false all
        let ps := all.filter fun p => decide ((getRole s c r).vstart.toNat < p.2.1)
        let (s', ls) ← vecLocs s' c .read (userRole s c r) false ps
        if !relSettled s c r ∨ ls.any fun l => locBusy s c r l.2.2 then .error (.wait .other)
        else
          let (s', parts) := vecParts c r (b.taint || i.taint) a act s' ls
          let from_ := (ps.head?.map fun p => p.1).getD 64
          let l : Load :=
            { id := 0, dest := destOf (.v vd), esz := 4, sx := false, taint := false,
              lanes := some act, acq := none, parts := skippedParts s act from_ 4 ++ parts,
              site := ⟨(getRole s c r).pc, (encode (.vld m n vd ea g)).headD 0, BitVec.ofNat 57 a⟩ }
          done (modRole (startLoad s' c r l) c r fun x => { x with vstart := 0 })) s

/-- The elements of a vst, a line each: `lane`, its lowest active lane, is what SHADOW_FULL gives in LANE and VSTART, as R298
says, though R162 has LANE 0 but for vamo and vstx (log 25). -/
def vstElems (a : Nat) (act : BitVec 64) (x : VReg) (ps : List (Nat × Nat × Nat × Nat)) (ls : List (Nat × Nat × Loc)) :
    List Elem :=
  (ps.zip ls).map fun q =>
    let p := q.1
    { lane := p.1, next := p.2.1, va := p.2.2.1, loc := q.2.2.2,
      mask := laneMask act p.1 (p.2.2.1 % 128) (p.2.2.2 / 4),
      data := bytesAt (p.2.2.1 % 128) (leBytes p.2.2.2 (x.toNat >>> (8 * (p.2.2.1 - a)))) }

/-- VST (R298). -/
def execVst (m : Mark) (n : BitVec 2) (vs : V5) (ea : EA) (g : Guard) (s : State) : Host.Outcome State Fault Refusal :=
  issue (.vst m n vs ea g) m 1 (vectorGuard g)
    (fun c r s => do
      checkUse c r s [.v vs, .g ea.rb, .g ea.ri] .none
      let pops := fun (s : State) =>
        let (s, x) := readV c r s vs
        let (s, b) := readG c r s ea.rb
        let (s, i) := readG c r s ea.ri
        (s, x, b, i)
      let (_, x, b, i) := pops s
      let a := effAddr b.val i.val ea.sc ea.off
      let act := guardLanes c r s g &&& lowLanes (vecLanes n)
      if a % 32 ≠ 0 then .error (.fatal s (fALIGN a))
      else if stage c r s = 0 ∧ !relSettled s c r then .error (.wait .other)
      else
        let ps := vecPieces a (vecLanes n) act
        let (t, ls) ← vecLocs s c .write (userRole s c r) true ps
        storeElems c r ((encode (.vst m n vs ea g)).headD 0) t (storeFrom (getRole s c r)) (vstElems a act x ps ls)
          fun t => modRole (pops t).1 c r fun y => { y with vstart := 0 }) s

/-! ## Indexed vector loads and stores (R299) -/

/-- The address of lane k. -/
def laneAddr (b : Word) (v : VReg) (sc : BitVec 2) (off : BitVec 20) (k : Nat) : Nat :=
  effAddr b ((lane v k).zeroExtend 64) sc off

/-- Active lanes from `start` on, with their addresses. -/
def activeLanes (act : BitVec 64) (start : Nat) (f : Nat → Nat) : List (Nat × Nat) :=
  ((List.range 64).filter fun k => act.getLsbD k && decide (start ≤ k)).map fun k => (k, f k)

/-- The parts of a vldx, element by element; an element's failure ends the context. -/
def gatherParts (c : Nat) (r : RoleId) (user fresh : Bool) (n : Nat) :
    State → List (Nat × Nat) → Except Stop (State × List LoadPart)
  | s, [] => .ok (s, [])
  | s, (k, a) :: rest =>
    match coreLoc s c .read user false false a n with
    | .error e => .error (xStop s a e)
    | .ok (s, l) =>
      if locBusy s c r l then .error (.wait .other)
      else
        let (s, p) := makePart s c r fresh a (byteMask (a % 128) n) n (4 * k) l
        match gatherParts c r user fresh n s rest with
        | .error e => .error e
        | .ok (s, ps) => .ok (s, p :: ps)

/-- VLDX (R299). -/
def execVldx (m : Mark) (sz : Size) (sx : Bool) (vd : V5) (ea : VEA) (g : Guard) (s : State) :
    Host.Outcome State Fault Refusal :=
  issue (.vldx m sz sx vd ea g) m 1 (vectorGuard g)
    (fun c r s => do
      checkUse c r s [.g ea.rb, .v ea.vi] (.v vd)
      let (s', b) := readG c r s ea.rb
      let (s', v) := readV c r s' ea.vi
      let n := sizeBytes sz
      let act := guardLanes c r s g
      let start := (getRole s c r).vstart.toNat
      let addr := laneAddr b.val v ea.sc ea.off
      match (activeLanes act 0 addr).find? fun p => p.2 % n ≠ 0 with
      | some p => .error (.fatal s (fALIGN p.2))
      | none => do
        if !relSettled s c r then .error (.wait .other)
        let (s', parts) ← gatherParts c r (userRole s c r) b.taint n s' (activeLanes act start addr)
        let l : Load :=
          { id := 0, dest := destOf (.v vd), esz := n, sx := sx, taint := false,
            lanes := some act, acq := none, parts := skippedParts s act start n ++ parts,
            site := ⟨(getRole s c r).pc, (encode (.vldx m sz sx vd ea g)).headD 0, BitVec.ofNat 57 (addr start)⟩ }
        done (modRole (startLoad s' c r l) c r fun x => { x with vstart := 0 })) s

/-- The elements of a vstx up to the first that is refused, and that refusal with its address. -/
def scatterElems (c : Nat) (user : Bool) (n : Nat) (x : VReg) :
    State → List (Nat × Nat) → State × List Elem × Option (Nat × XErr)
  | s, [] => (s, [], none)
  | s, (k, a) :: rest =>
    match coreLoc s c .write user false true a n with
    | .error e => (s, [], some (a, e))
    | .ok (s, l) =>
      let (s, es, f) := scatterElems c user n x s rest
      (s, { storeElem a n (lane x k).toNat l with lane := k, next := k + 1 } :: es, f)

/-- VSTX (R299): elements in lane order; those below a fatal element stand. -/
def execVstx (m : Mark) (sz : Size) (vs : V5) (ea : VEA) (g : Guard) (s : State) : Host.Outcome State Fault Refusal :=
  issue (.vstx m sz vs ea g) m 1 (vectorGuard g)
    (fun c r s => do
      checkUse c r s [.v vs, .g ea.rb, .v ea.vi] .none
      let pops := fun (s : State) =>
        let (s, x) := readV c r s vs
        let (s, b) := readG c r s ea.rb
        let (s, v) := readV c r s ea.vi
        (s, x, b, v)
      let (_, x, b, v) := pops s
      let n := sizeBytes sz
      let act := guardLanes c r s g
      let addr := laneAddr b.val v ea.sc ea.off
      match (activeLanes act 0 addr).find? fun p => p.2 % n ≠ 0 with
      | some p => .error (.fatal s (fALIGN p.2))
      | none =>
        if stage c r s = 0 ∧ !relSettled s c r then .error (.wait .other)
        else
          let (t, es, bad) := scatterElems c (userRole s c r) n x s (activeLanes act (storeFrom (getRole s c r)) addr)
          let word := (encode (.vstx m sz vs ea g)).headD 0
          match bad, storeElems c r word t (storeFrom (getRole s c r)) es fun t => modRole (pops t).1 c r fun y => { y with vstart := 0 } with
          | some (a, e), .ok (t, _) => .error (xStop t a e)
          | _, q => q) s

/-! ## Loads in flight -/

/-- A load of a role by its number. -/
def findLoad (s : State) (c : Nat) (r : RoleId) (id : Nat) : Option Load :=
  (getRole s c r).loads.find? fun l => l.id == id

def modLoad (s : State) (c : Nat) (r : RoleId) (id : Nat) (f : Load → Load) : State :=
  let g (l : Load) : Load := if l.id = id then f l else l
  modRole s c r fun x => { x with loads := x.loads.map g }

def dropLoad (s : State) (c : Nat) (r : RoleId) (id : Nat) : State :=
  modRole s c r fun x => { x with loads := x.loads.filter fun l => l.id != id }

/-- A write of the core is on its way to the line, so a read of the core must not pass it (R82, R121). -/
def writeAhead (k : Core) (t : Target) : Bool :=
  k.writes.any fun w => !w.performed && w.place == .slice && l1Key w.w.tgt == l1Key t

/-- An earlier request of the role to the same slice is still on its way (R121). -/
def slicePast (k : Core) (r : RoleId) (t : Target) (id : Nat) : Bool :=
  (k.writes.any fun w => !w.performed && w.place == .slice && (w.roles &&& roleBit r) != 0 && decide (w.id < id) &&
      w.after == 0 && w.w.tgt.peer == t.peer && homeSlice w.w.tgt.dpa == homeSlice t.dpa) ||
    ((k.role r).loads.any fun l => decide (l.id < id) && l.parts.any fun p =>
      p.got.isNone && p.tgt.peer == t.peer && homeSlice p.tgt.dpa == homeSlice t.dpa)

/-- A lower part of the same load is still to be read: every one of a vld, whose lines are read in rising order (R298); one of
the same line of a vldx (R299). -/
def partPast (l : Load) (part : Nat) (t : Target) : Bool :=
  (l.parts.zipIdx).any fun q => decide (q.2 < part) && q.1.got.isNone &&
    ((opOf l.site.word).toNat == 0x45 || l1Key q.1.tgt == l1Key t)

/-- The bytes of a part arrive. -/
def fillPart (s : State) (c : Nat) (r : RoleId) (id part : Nat) (bs : List Byte) : State :=
  let g (p : LoadPart × Nat) : LoadPart := if p.2 = part then { p.1 with got := some bs } else p.1
  modLoad s c r id fun l => { l with parts := l.parts.zipIdx.map g }

/-- HOME_SLICE_READ (R61): a part of a load reaches its home slice, or leaves for its peer. `err`: an error that the read
meets in its line (R73; log 15). A poisoned line ends the context. -/
def execHomeSliceRead (c : Nat) (r : RoleId) (id part : Nat) (err : Option MemErr) (s : State) :
    Host.Outcome State Fault Refusal :=
  if !roleExists s c r then .next s
  else
    match findLoad s c r id with
    | none => .next s
    | some l =>
      match l.parts[part]? with
      | none => .next s
      | some p =>
        let k := core s c
        if p.got.isSome ∨ writeAhead k p.tgt ∨ slicePast k r p.tgt id ∨ partPast l part p.tgt then .next s
        else
          let near := usesL1 k p.tgt
          let off := if near then 0 else p.tgt.dpa % 128
          let n := if near then 128 else p.n
          match p.tgt.peer with
          | some d =>
            if p.tag.isSome then .next s
            else
              let (s, tag) := peerSend s d (.read (BitVec.ofNat 44 (p.tgt.dpa / 128 * 128 + off)) n) (.load c r id part)
              let g (q : LoadPart × Nat) : LoadPart := if q.2 = part then { q.1 with tag := some tag, fill := near } else q.1
              .next (modLoad s c r id fun l => { l with parts := l.parts.zipIdx.map g })
          | none =>
            let line := p.tgt.dpa / 128
            if lineHeld s line then .next s
            else
              let s := meetError s p.tgt.cv line err
              let (s, d, bad) := sliceRead s (policyOf p.tgt) p.tgt.cv line (p.tgt.dpa % 128) p.n
              if bad then .next (siteFatal s c r { l.site with va := p.va } (fatalAt 0x44 1 0 p.tgt.dpa))
              else
                let (s, bs) := takePart s c p d
                .next (fillPart s c r id part bs)

/-- A peer's answer to a read of a load (R38, R54). One that may no longer fill the L1 is asked for again; one that fills it
stops older answers from doing so (R80). -/
def peerPart (s : State) (c : Nat) (r : RoleId) (id part : Nat) (bs : List Byte) : State :=
  match (findLoad s c r id).bind fun l => l.parts[part]? with
  | none => s
  | some p =>
    if usesL1 (core s c) p.tgt then
      if p.fill then
        let (s, got) := takePart s c p (bytesLine bs)
        fillPart (stopFill s c (l1Key p.tgt)) c r id part got
      else
        let g (q : LoadPart × Nat) : LoadPart := if q.2 = part then { q.1 with tag := none } else q.1
        modLoad s c r id fun l => { l with parts := l.parts.zipIdx.map g }
    else fillPart s c r id part (bs.take p.n)

/-- LOAD_DATA_RETURN (R66): the data of a load is complete; its destination is written, and a waiting lda goes on. -/
def execLoadDataReturn (c : Nat) (r : RoleId) (id : Nat) (s : State) : Host.Outcome State Fault Refusal :=
  if !roleExists s c r then .next s
  else
    match findLoad s c r id with
    | none => .next s
    | some l =>
      if loadReady l then
        let s := finishLoad (dropLoad s c r id) c r l
        .next (modRole s c r fun x => { x with block := if x.block = some (.lda id) then none else x.block })
      else .next s

/-! ## Writes in flight -/

def findWrite (k : Core) (id : Nat) : Option Write := k.writes.find? fun w => w.id == id

def modWrite (s : State) (c id : Nat) (f : Write → Write) : State :=
  let g (w : Write) : Write := if w.id = id then f w else w
  modCore s c fun k => { k with writes := k.writes.map g }

def dropWrite (s : State) (c id : Nat) : State :=
  modCore s c fun k => { k with writes := k.writes.filter fun w => w.id != id }

/-- Two role sets of writes meet. -/
def sharesRole (a b : BitVec 3) : Bool := (a &&& b) != 0

/-- A write may be performed now: an stl's release is complete; no earlier write of the core to its line, and no
earlier one of its roles to its slice, is still to be performed (R80, R121, R297). -/
def writeReady (k : Core) (w : Write) : Bool :=
  !(k.writes.any fun v =>
      (sharesRole v.roles w.roles && decide (v.id < w.after) && relCounts w.rel v) ||
        (decide (v.id < w.id) && !v.performed && w.place == v.place &&
          (l1Key v.w.tgt == l1Key w.w.tgt ||
            (v.place == .slice && sharesRole v.roles w.roles && v.after == 0 && v.w.tgt.peer == w.w.tgt.peer &&
              homeSlice v.w.tgt.dpa == homeSlice w.w.tgt.dpa))))

/-- The role of a mask that comes first in slot order. -/
def firstRole (b : BitVec 3) : RoleId := if bit b 0 then .L else if bit b 1 then .C else .S

/-- A role's word that waits for a precise write goes on, or traps with SHADOW_FULL at the refused lane (R161, R163). -/
def preciseAnswer (s : State) (c : Nat) (w : Write) : State :=
  let r := firstRole w.roles
  match (getRole s c r).block with
  | some (.stores cur next) =>
    if cur = w.id then
      match w.refused with
      | none => modRole s c r fun x => { x with block := none, mid := next + 1 }
      | some v =>
        let vector := (opOf w.site.word).toNat == 0x46 || (opOf w.site.word).toNat == 0x48
        let s := modRole s c r fun x => { x with block := none, vstart := if vector then BitVec.ofNat 6 w.lane else x.vstart }
        takeTrap s c r w.site.word tSHADOW (putBits v 5 0 w.lane)
    else s
  | _ => s

/-- HOME_SLICE_WRITE (R120): a write is performed where it is held, or leaves for its peer. -/
def execHomeSliceWrite (c : Nat) (id : Nat) (s : State) : Host.Outcome State Fault Refusal :=
  if !coreExists s c then .next s
  else
    match findWrite (core s c) id with
    | none => .next s
    | some w =>
      if w.performed ∨ !writeReady (core s c) w then .next s
      else
        match w.place with
        | .bank => .next (dropWrite (poolMasked s (w.w.tgt.dpa) w.w.mask w.w.data) c id)
        | .l1 => .next (dropWrite (l1Store s c (firstRole w.roles) w.w.tgt w.w.mask w.w.data) c id)
        | .slice =>
          match w.w.tgt.peer with
          | some d =>
            if w.tag.isSome then .next s
            else
              let (s, tag) := peerSend s d
                (.write (BitVec.ofNat 44 w.w.tgt.dpa) w.w.mask w.w.data) (.write c id)
              .next (modWrite s c id fun w => { w with tag := some tag })
          | none =>
            let line := w.w.tgt.dpa / 128
            if lineHeld s line then .next s
            else
              match sliceWrite s .loc (policyOf w.w.tgt) false line w.w.mask w.w.data with
              | .done s =>
                let s := if w.thru then l1Through s c w.w.tgt w.w.mask w.w.data else s
                .next (modWrite s c id fun w => { w with performed := true })
              | .full s v => .next (modWrite s c id fun w => { w with performed := true, refused := some v })
              | _ => .next s

/-- A write that has left its core fails. Its context takes the fatal error (R161, R427); of a context that is being torn
down, it is a further error, which writes no record (R444). -/
def failedWrite (s : State) (c : Nat) (w : Write) (f : Fatal) : State :=
  if isSystem c ∨ (core s c).task.isSome then siteFatal s c (firstRole w.roles) w.site f
  else countReg s (rFqptr (dieOf c)) 47 32 1

/-- A write refused for lack of a shadow is fatal DATA (R161). -/
def refusedWrite (s : State) (c : Nat) (w : Write) : State := failedWrite s c w (fatalAt 0x44 2 0 w.w.tgt.dpa)

/-- WRITE_ACKNOWLEDGE (R293): a performed write is acknowledged. -/
def execWriteAcknowledge (c : Nat) (id : Nat) (s : State) : Host.Outcome State Fault Refusal :=
  if !coreExists s c then .next s
  else
    match findWrite (core s c) id with
    | none => .next s
    | some w =>
      if !w.performed then .next s
      else
        let s := dropWrite s c id
        if w.precise then .next (preciseAnswer s c w)
        else if w.refused.isSome then .next (refusedWrite s c w)
        else .next s

end Sys2Proof.Machine
end

