-- ==== Sys2Proof/Machine/Atomics.lean ====
section
/-! DEFINITION. Sys2Proof/Machine/Atomics.lean: atomics (R123 to R128, R304) and claim continuations (R134 to R141): the
words, what the home slice does, and the reply. -/

namespace Sys2Proof.Machine

/-! ## Slice operations (R124, R126) -/

/-- The new value of w bits and the flags. -/
def sliceOp (op : SliceOp) (w old x : Nat) : Nat × BitVec 5 :=
  let o := old % 2 ^ w
  let y := x % 2 ^ w
  match op with
  | .add => ((o + y) % 2 ^ w, 0)
  | .and => (o &&& y, 0)
  | .or => (o ||| y, 0)
  | .xor => (o ^^^ y, 0)
  | .min => (if signedOf w o ≤ signedOf w y then o else y, 0)
  | .max => (if signedOf w o ≤ signedOf w y then y else o, 0)
  | .minu => (min o y, 0)
  | .maxu => (max o y, 0)
  | .swap => (y, 0)
  | .fadd => sliceAddF32 o y
  | .fadd2 => sliceAddBf16x2 o y

/-- What an amo does. -/
def amoStep (op : SliceOp) (n x old : Nat) : Option Nat × BitVec 5 :=
  let (v, f) := sliceOp op (8 * n) old x
  (some v, f)

/-- What a cas does. -/
def casStep (e n : Word) (old : Nat) : Option Nat × BitVec 5 :=
  (if old = e.toNat then some n.toNat else none, 0)

/-- Bytes of an atomic. -/
def atomBytes : AtomOp → Nat
  | .amo _ dbl _ => if dbl then 8 else 4
  | _ => 8

/-! ## Issue -/

/-- Where an atomic lands (R123, R304): a pool slot is fatal WINDOW. -/
def atomLoc (c : Nat) (r : RoleId) (s : State) (dirty : Bool) (a n : Nat) :
    Except Stop (State × Target × Option Nat) :=
  match coreLoc s c .both (userRole s c r) false dirty a n with
  | .error e => .error (xStop s a e)
  | .ok (_, .pool _) => .error (.fatal s (fWINDOW a))
  | .ok (s, .dev t l) => .ok (s, t, l)

/-- The role stands in its atomic until the reply. -/
def inAtomic (c : Nat) (r : RoleId) (s : State) (op : AtomOp) (dest : Dest) (t : Target) (leaf : Option Nat)
    (word : Word) (a : Nat) : Except Stop (State × Flow) :=
  let s := l1Purge s c t
  let (s, id) := freshId s
  let at_ : Atom :=
    { id := id, op := op, dest := dest, tgt := t, leaf := leaf, tag := none, backoff := 16, reply := none,
      site := ⟨(getRole s c r).pc, word, BitVec.ofNat 57 a⟩ }
  .error (.hold (modRole s c r fun x => { x with block := some (.atomic at_), mid := 1 }))

/-- AMO (R125). -/
def execAmo (m : Mark) (op : SliceOp) (dbl : Bool) (rd ra rs : G6) (s : State) : Host.Outcome State Fault Refusal :=
  issue (.amo m op dbl rd ra rs) m 1 noGuard
    (fun c r s => do
      checkUse c r s [.g ra, .g rs] (.g rd)
      let (s', a) := readG c r s ra
      let (_, x) := readG c r s' rs
      let n := if dbl then 8 else 4
      let va := a.val.toNat % 2 ^ 57
      if va % n ≠ 0 then .error (.fatal s (fALIGN va))
      else
        let (t, tgt, leaf) ← atomLoc c r s true va n
        if locBusy s c r (.dev tgt leaf) ∨ !relSettled s c r then .error (.wait .other)
        else
          inAtomic c r t (.amo op dbl x.val) (destOf (.g rd)) tgt leaf
            ((encode (.amo m op dbl rd ra rs)).headD 0) va) s

/-- CAS (R125): D is set only when it writes. -/
def execCas (m : Mark) (rd ra re rn : G6) (s : State) : Host.Outcome State Fault Refusal :=
  issue (.cas m rd ra re rn) m 1 noGuard
    (fun c r s => do
      checkUse c r s [.g ra, .g re, .g rn] (.g rd)
      let (s', a) := readG c r s ra
      let (s', e) := readG c r s' re
      let (_, n) := readG c r s' rn
      let va := a.val.toNat % 2 ^ 57
      if va % 8 ≠ 0 then .error (.fatal s (fALIGN va))
      else
        let (t, tgt, leaf) ← atomLoc c r s false va 8
        if locBusy s c r (.dev tgt leaf) ∨ !relSettled s c r then .error (.wait .other)
        else
          inAtomic c r t (.cas e.val n.val) (destOf (.g rd)) tgt leaf ((encode (.cas m rd ra re rn)).headD 0) va) s

/-- TVAL of CONT_INVALID (R137). -/
def contTval (k : Nat) (cidx : BitVec 12) : Word := ofFields [(12, k), (0, cidx.toNat)]

/-- A copy of the table: a core's, or a slice's (R134). -/
def coreCopy (c : Nat) : Nat := c

def sliceCopy (sl : Nat) : Nat := 1000 + sl

/-- A copy of a CTAB entry (R134): one that is being updated takes the new value once, at its own moment (R135; log 28). -/
def ctabSee (s : State) (copy i : Nat) : State × Word × Word :=
  let old := tabD s.ctab i (0, 0)
  match s.ctabBusy with
  | some (j, w0, w1) =>
    if j = i then
      if s.ctabTook.contains copy then (s, w0, w1)
      else if Config.ctabNew s.tick then ({ s with ctabTook := copy :: s.ctabTook }, w0, w1)
      else (s, old)
    else (s, old)
  | none => (s, old)

/-- The reason a CTAB entry refuses a requester under an XID (R136). -/
def ctabReason (t : Word × Word) (xid : BitVec 16) : Option Nat :=
  if !bit t.1 63 then some 1
  else if !bit t.1 62 then some 2
  else if bits t.1 47 32 ≠ xid.toNat then some 3
  else none

/-- The registers a continuation's arguments 2 and 3 come from (R134). -/
def contArgs (t : Word × Word) : List Nat :=
  let k := bits t.1 61 56
  if k = 0 ∨ 46 < k then [] else [k, k + 1]

/-- CASC (R136), up to the request that leaves the core. -/
def execCasc (m : Mark) (rd ra re rn : G6) (cidx : BitVec 12) (s : State) : Host.Outcome State Fault Refusal :=
  issue (.casc m rd ra re rn cidx) m 1 noGuard
    (fun c r s => do
      checkUse c r s [.g ra, .g re, .g rn] (.g rd)
      let (s', a) := readG c r s ra
      let (s', e) := readG c r s' re
      let (_, n) := readG c r s' rn
      let va := a.val.toNat % 2 ^ 57
      let x := getRole s c r
      let (s, t) := ctabSee s (coreCopy c) cidx.toNat
      let args := contArgs t
      match ctabReason t (core s c).xid with
      | some k => .error (.trapKeep s tCONT (contTval k cidx))
      | none =>
        if va % 8 ≠ 0 then .error (.fatal s (fALIGN va))
        else
          let (u, tgt, leaf) ← atomLoc c r s false va 8
          if tgt.peer.isSome then .error (.trapKeep u tCONT (contTval 4 cidx))
          else if args.any fun g => awaited x (.g g) then .error (.wait .other)
          else
            match args.find? fun g => (tabGet x.g g).isNone with
            | some g => .error (.trapKeep u tUNBOUND (BitVec.ofNat 64 g))
            | none =>
              if locBusy s c r (.dev tgt leaf) ∨ !relSettled s c r ∨ stlPending s c r then .error (.wait .other)
              else
                let arg (i : Nat) : Word :=
                  match args[i]? with
                  | some g => (tabD x.g g ⟨0, false⟩).val
                  | none => 0
                inAtomic c r u (.casc e.val n.val cidx (arg 0) (arg 1)) (destOf (.g rd)) tgt leaf
                  ((encode (.casc m rd ra re rn cidx)).headD 0) va) s

/-- What the lanes that VSTART has passed over give to a vamo's result in a queue: they were performed before the trap, and their
old values are free (log 41). -/
def passedOver (s : State) (d : Dest) (act : BitVec 64) (start : Nat) : List (Nat × BitVec 32) :=
  match d with
  | .vq _ => ((List.range start).filter act.getLsbD).map fun k => (k, Config.skippedLane s.tick k)
  | _ => []

/-- VAMO (R127): its lanes are performed in order from VSTART on. -/
def execVamo (m : Mark) (op : SliceOp) (vd : V5) (rb : G6) (vi : V5) (sc : BitVec 2) (vs : V5) (g : Guard)
    (s : State) : Host.Outcome State Fault Refusal :=
  issue (.vamo m op vd rb vi sc vs g) m 1 (vectorGuard g)
    (fun c r s => do
      checkUse c r s [.g rb, .v vi, .v vs] (.v vd)
      let (s', b) := readG c r s rb
      let (s', i) := readV c r s' vi
      let (s', x) := readV c r s' vs
      let act := guardLanes c r s g
      let y := getRole s c r
      let addr := laneAddr b.val i sc 0
      match (activeLanes act 0 addr).find? fun p => p.2 % 4 ≠ 0 with
      | some p => .error (.fatal s (fALIGN p.2))
      | none =>
        if !relSettled s c r then .error (.wait .other)
        else
          let todo := (activeLanes act y.vstart.toNat addr).map fun p => (p.1, BitVec.ofNat 57 p.2, lane x p.1)
          if todo.isEmpty then
            done (modRole (writeV c r s' vd 0 0) c r fun z => { z with vstart := 0 })
          else
            let (t, id) := freshId s
            let v : VAtom :=
              { id := id, op := op, dest := destOf (.v vd), todo := todo,
                done := passedOver s (destOf (.v vd)) act y.vstart.toNat, fl := 0, full := none,
                tag := none, site := ⟨y.pc, (encode (.vamo m op vd rb vi sc vs g)).headD 0, 0⟩ }
            .error (.hold (modRole t c r fun z => { z with block := some (.vamo v), mid := 1 }))) s

/-! ## At the home slice -/

/-- Change the atomic a role stands in. -/
def setAtom (s : State) (c : Nat) (r : RoleId) (a : Atom) : State :=
  modRole s c r fun x => { x with block := if x.fin then none else some (.atomic a) }

def setVAtom (s : State) (c : Nat) (r : RoleId) (a : VAtom) : State :=
  modRole s c r fun x => { x with block := some (.vamo a) }

/-- The request may be performed: earlier requests of the core to its line and of the role to its slice have been
(R57, R121). -/
def atomReady (s : State) (c : Nat) (r : RoleId) (t : Target) (id : Nat) : Bool :=
  !(writeAhead (core s c) t || slicePast (core s c) r t id || lineHeld s (t.dpa / 128))

/-- The D bit of a cas that has written (R39, R125). -/
def casDirty (s : State) (a : Atom) (old : Nat) : State :=
  match a.leaf, a.op with
  | some l, .cas e _ => if old = e.toNat then orEntry s l bitD else s
  | some l, .casc e _ _ _ _ => if old = e.toNat then orEntry s l bitD else s
  | _, _ => s

/-- An atomic met a poisoned codeword (R73). -/
def atomPoison (s : State) (c : Nat) (r : RoleId) (site : Site) (dpa : Nat) : State :=
  if (getRole s c r).fin then modRole s c r fun x => { x with block := none }
  else siteFatal s c r site (fatalAt 0x44 1 0 dpa)

/-- What a slice does for amo and cas. -/
def atomStep : AtomOp → Nat → Option Nat × BitVec 5
  | .amo op dbl x => amoStep op (if dbl then 8 else 4) x.toNat
  | .cas e n => casStep e n
  | .casc e n _ _ _ => casStep e n

/-- What an atomic asks of a peer (R38). -/
def atomPeerOp (dpa : Nat) : AtomOp → PeerOp
  | .amo op dbl x => .amo (BitVec.ofNat 44 dpa) op dbl x
  | .cas e n => .cas (BitVec.ofNat 44 dpa) e n
  | .casc e n _ _ _ => .cas (BitVec.ofNat 44 dpa) e n

/-- SLICE_ATOMIC for amo and cas: the L1 gives the line up first, whatever has brought it back since the word issued (R57). -/
def atomAtSlice (s : State) (c : Nat) (r : RoleId) (a : Atom) : State :=
  let s := l1Purge s c a.tgt
  match a.tgt.peer with
  | some d =>
    if a.tag.isSome ∨ !atomReady s c r a.tgt a.id then s
    else
      let (s, tag) := peerSend s d (atomPeerOp a.tgt.dpa a.op) (.atomic c r)
      setAtom s c r { a with tag := some tag }
  | none =>
    if !atomReady s c r a.tgt a.id then s
    else
      match sliceRmw s .loc (policyOf a.tgt) a.tgt.dpa (atomBytes a.op) (atomStep a.op) with
      | .done s old fl => setAtom (casDirty s a old) c r { a with reply := some (.old (BitVec.ofNat 64 old) fl) }
      | .full s t => setAtom s c r { a with reply := some (.shadowFull t) }
      | .poisoned => atomPoison s c r a.site a.tgt.dpa
      | _ => s

/-- A lane of a vamo has its answer. -/
def laneDone (a : VAtom) (old : BitVec 32) (fl : BitVec 5) : VAtom :=
  match a.todo with
  | [] => a
  | (k, _, _) :: rest => { a with todo := rest, done := a.done ++ [(k, old)], fl := a.fl ||| fl, tag := none }

/-- SLICE_ATOMIC for the next lane of a vamo: translation, then the slice (R127). -/
def laneAtSlice (s : State) (c : Nat) (r : RoleId) (a : VAtom) : State :=
  match a.todo with
  | [] => s
  | (k, va, x) :: _ =>
    if a.full.isSome ∨ a.tag.isSome then s
    else
      let site : Site := { a.site with va := va }
      match coreLoc s c .both (userRole s c r) false true va.toNat 4 with
      | .error .held => s
      | .error e => siteFatal s c r site (xFatal va.toNat e)
      | .ok (_, .pool _) => siteFatal s c r site (fWINDOW va.toNat)
      | .ok (s', .dev t leaf) =>
        if locBusy s c r (.dev t leaf) then s
        else
          let s' := l1Purge s' c t
          if !atomReady s' c r t a.id then s'
          else
            match t.peer with
            | some d =>
              let (s', tag) := peerSend s' d (.amo (BitVec.ofNat 44 t.dpa) a.op false (x.zeroExtend 64)) (.atomic c r)
              setVAtom s' c r { a with tag := some tag }
            | none =>
              match sliceRmw s' .loc (policyOf t) t.dpa 4 (amoStep a.op 4 x.toNat) with
              | .done s' old fl => setVAtom s' c r (laneDone a (BitVec.ofNat 32 old) fl)
              | .full s' v => setVAtom s' c r { a with full := some (k, putBits v 5 0 k) }
              | .poisoned => siteFatal s c r site (fatalAt 0x44 1 0 t.dpa)
              | _ => s'

/-- SLICE_ATOMIC (R125): a home slice performs an atomic as one serial step, or the next lane of a vamo. -/
def execSliceAtomic (c : Nat) (r : RoleId) (s : State) : Host.Outcome State Fault Refusal :=
  if !roleExists s c r then .next s
  else
    .next (match (getRole s c r).block with
      | some (.atomic a) =>
        match a.reply, a.op with
        | none, .amo _ _ _ => atomAtSlice s c r a
        | none, .cas _ _ => atomAtSlice s c r a
        | _, _ => s
      | some (.vamo a) => laneAtSlice s c r a
      | _ => s)

/-! ## Launch queues (R138, R139) -/

/-- Requester number. -/
def requester (c : Nat) (r : RoleId) : Nat := if isSystem c then 2880 + dieOf c else 3 * c + roleNum r

/-- The member of a list that follows a number in circular order. -/
def circNext (l : List Nat) (last : Nat) : Option Nat :=
  match (l.filter fun x => decide (last < x)).min? with
  | some x => some x
  | none => l.min?

/-- A freed ring position takes the next overflow requester. -/
def refillRing (x : Slice) : Slice :=
  if 32 ≤ x.ring.length then x
  else
    match circNext x.ovf x.lastMoved with
    | none => x
    | some q => { x with ring := x.ring ++ [q], ovf := x.ovf.filter (· != q), lastMoved := q }

/-- A requester has a reserved entry that nothing fills. -/
def hasEntry (x : Slice) (q : Nat) : Bool := x.queue.any fun e => e.req == q && e.fill.isNone

/-- The table's entry that a requester's reserved launch entry holds (R136). -/
def entryTab (x : Slice) (q : Nat) : Option (Word × Word) :=
  (x.queue.find? fun e => e.req == q && e.fill.isNone).map (·.tab)

/-- Admit (R138, R139): the slice with an entry reserved, or the requester recorded. -/
def admitReq (x : Slice) (q : Nat) (tab : Word × Word) : Slice × Bool :=
  let ok : Bool := decide (x.queue.length < 32) && (match circNext x.ring x.lastAdm with
    | none => true
    | some m => m == q)
  if hasEntry x q then (x, true)
  else if ok then
    (refillRing { x with queue := x.queue ++ [⟨q, tab, none⟩], lastAdm := q, ring := x.ring.filter (· != q),
                         ovf := x.ovf.filter (· != q) }, true)
  else if x.ring.contains q then (x, false)
  else if x.ring.length < 32 then ({ x with ring := x.ring ++ [q] }, false)
  else ({ x with ovf := if x.ovf.contains q then x.ovf else q :: x.ovf }, false)

/-- Return a requester's reserved entry. -/
def releaseEntry (x : Slice) (q : Nat) : Slice :=
  { x with queue := x.queue.filter fun e => !(e.req == q && e.fill.isNone) }

/-- Fill a requester's reserved entry, which becomes the youngest launch. -/
def fillEntry (x : Slice) (q : Nat) (tab : Word × Word) (l : Launch) : Slice :=
  let x := releaseEntry x q
  { x with queue := x.queue ++ [⟨q, tab, some l⟩] }

/-- The record of a continuation (R141): the template with its four argument words replaced. -/
def launchWords (s : State) (rec_ : Nat) (old a x2 x3 : Word) : List Word :=
  (wordsOf 16 (viewBytes s rec_ 128)).take 12 ++ [old, a, x2, x3]

/-- Count a busy reply to a casc (R138). -/
def countBusy (s : State) (c : Nat) : State :=
  modCore s c fun k => { k with cretry := BitVec.ofNat 64 (satAdd (2 ^ 64 - 1) k.cretry.toNat 1) }

/-- A line of a template is held at its slice, so a casc that launches from it waits (R70, R121, R141). -/
def templateHeld (s : State) (t : Word × Word) : Bool := lineHeld s (bits t.2 43 7)

/-- SliceCasc (R136). A casc that waits at its slice keeps its launch entry and the table's entry it was admitted under (R138);
the template is read after the casc's write, in the same step (R141). -/
def cascAtSlice (s : State) (c : Nat) (r : RoleId) (a : Atom) (e n : Word) (cidx : BitVec 12) (x2 x3 : Word) : State :=
  let sl := homeSlice a.tgt.dpa
  let q := requester c r
  let s := l1Purge s c a.tgt
  let kept := entryTab (slice s sl) q
  let (s, t) := match kept with
    | some t => (s, t)
    | none => ctabSee s (sliceCopy sl) cidx.toNat
  match (if kept.isSome then none else ctabReason t (core s c).xid) with
  | some k => setAtom s c r { a with reply := some (.invalid (BitVec.ofNat 4 k)) }
  | none =>
    match admitReq (slice s sl) q t with
    | (x, false) => countBusy (setAtom (setSlice s sl x) c r { a with reply := some .busy }) c
    | (x, true) =>
      let s := setSlice s sl x
      if !atomReady s c r a.tgt a.id ∨ templateHeld s t then s
      else
        match sliceRmw s .loc (policyOf a.tgt) a.tgt.dpa 8 (casStep e n) with
        | .done s' old _ =>
          let s' := casDirty s' a old
          let ws := launchWords s' (bits t.2 43 7 * 128) (BitVec.ofNat 64 old) (a.site.va.zeroExtend 64) x2 x3
          let l : Launch :=
            { cidx := cidx, core := BitVec.ofNat 10 c, role := r.code, xid := BitVec.ofNat 16 (bits t.1 47 32),
              words := ws, old := BitVec.ofNat 64 old, va := a.site.va, x2 := x2, x3 := x3, dpa := a.tgt.dpa }
          let y := slice s' sl
          let s' := setSlice s' sl (if old = e.toNat then fillEntry y q t l else releaseEntry y q)
          setAtom s' c r { a with reply := some (.old (BitVec.ofNat 64 old) 0) }
        | .full s' v => setAtom (setSlice s' sl (releaseEntry (slice s' sl) q)) c r { a with reply := some (.shadowFull v) }
        | .poisoned => atomPoison (setSlice s sl (releaseEntry (slice s sl) q)) c r a.site a.tgt.dpa
        | _ => s

/-- SLICE_CASC (R136): a home slice admits a casc, compares, and launches its continuation on success. -/
def execSliceCasc (c : Nat) (r : RoleId) (s : State) : Host.Outcome State Fault Refusal :=
  if !roleExists s c r then .next s
  else
    .next (match (getRole s c r).block with
      | some (.atomic a) =>
        match a.reply, a.op with
        | none, .casc e n cidx x2 x3 =>
          if writeAhead (core s c) a.tgt || slicePast (core s c) r a.tgt a.id then s
          else cascAtSlice s c r a e n cidx x2 x3
        | _, _ => s
      | _ => s)

/-- ADMISSION_HOLD_EXPIRY (R139): the member that a free entry is held for leaves the ring. -/
def execAdmissionHoldExpiry (sl : Nat) (s : State) : Host.Outcome State Fault Refusal :=
  if 256 ≤ sl then .next s
  else
    let x := slice s sl
    .next (match circNext x.ring x.lastAdm with
      | none => s
      | some q =>
        if x.queue.length < 32 then setSlice s sl (refillRing { x with ring := x.ring.filter (· != q) }) else s)

/-! ## The reply -/

/-- Take a word's operands as it completes (R207): the pops that its issue looked at. -/
def takeSources (c : Nat) (r : RoleId) (s : State) : List Src → State
  | [] => s
  | .g x :: l => takeSources c r (readG c r s x).1 l
  | .v x :: l => takeSources c r (readV c r s x).1 l

/-- The sources of an atomic's word, in operand order, and its mark. -/
def atomSources (w : Word) : List Src × Mark :=
  match decodeWords w none with
  | .ok (.amo m _ _ _ ra rs) => ([.g ra, .g rs], m)
  | .ok (.cas m _ ra re rn) => ([.g ra, .g re, .g rn], m)
  | .ok (.casc m _ ra re rn _) => ([.g ra, .g re, .g rn], m)
  | .ok (.vamo m _ _ rb vi _ vs _) => ([.g rb, .v vi, .v vs], m)
  | _ => ([], ⟨.A, false, false⟩)

/-- Write a destination place. -/
def writeDest (c : Nat) (r : RoleId) (s : State) (d : Dest) (v : Word) : State :=
  match d with
  | .g n => writeG c r s (BitVec.ofNat 6 n) ⟨v, false⟩
  | .q n => writeG c r s (BitVec.ofNat 6 (48 + n)) ⟨v, false⟩
  | _ => s

/-- Write lanes of a vector destination. -/
def writeLanes (c : Nat) (r : RoleId) (s : State) (d : Dest) (l : List (Nat × BitVec 32)) : State :=
  let mask : BitVec 64 := l.foldl (fun m p => m ||| BitVec.ofNat 64 (2 ^ p.1)) 0
  let v := ofLanes fun i => ((l.find? fun p => p.1 == i).map (·.2)).getD 0
  match d with
  | .v n => writeV c r s (BitVec.ofNat 5 n) mask v
  | .vq n => writeV c r s (BitVec.ofNat 5 (28 + n)) mask v
  | _ => s

/-- The end of an atomic's word. -/
def endAtomic (s : State) (c : Nat) (r : RoleId) (w : Word) (fl : BitVec 5) (write : State → State) : State :=
  let (src, m) := atomSources w
  let s := modRole s c r fun x => { x with block := none }
  complete (orFlags (write (takeSources c r s src)) c r fl) c r m 1 .seq

/-- The reply of amo, cas and casc. -/
def atomAnswer (s : State) (c : Nat) (r : RoleId) (a : Atom) : State :=
  let open_ := modRole s c r fun x => { x with block := none }
  match a.reply with
  | some (.old v fl) => endAtomic s c r a.site.word fl fun t => writeDest c r t a.dest v
  | some (.invalid k) =>
    match a.op with
    | .casc _ _ cidx _ _ => takeTrap open_ c r a.site.word tCONT (contTval k.toNat cidx)
    | _ => s
  | some (.shadowFull v) => takeTrap open_ c r a.site.word tSHADOW v
  | _ => s

/-- The reply of a vamo (R127, R128): complete, or SHADOW_FULL with VSTART at the refused lane. The old values of the lanes below
are written to a vector register at once; a queue takes its one entry when the vamo completes. -/
def vamoAnswer (s : State) (c : Nat) (r : RoleId) (a : VAtom) : State :=
  match a.full, a.todo with
  | some (k, v), _ =>
    let keep : Dest := match a.dest with
      | .v n => .v n
      | _ => .none
    let s := orFlags (writeLanes c r s keep a.done) c r a.fl
    takeTrap (modRole s c r fun x => { x with block := none, vstart := BitVec.ofNat 6 k }) c r a.site.word tSHADOW v
  | none, [] =>
    endAtomic s c r a.site.word a.fl fun t =>
      modRole (writeLanes c r t a.dest a.done) c r fun x => { x with vstart := 0 }
  | none, _ => s

/-- ATOMIC_REPLY (R325): the old value is written and the flags are ORed, or the trap the reply names is taken. -/
def execAtomicReply (c : Nat) (r : RoleId) (s : State) : Host.Outcome State Fault Refusal :=
  if !roleExists s c r then .next s
  else
    .next (match (getRole s c r).block with
      | some (.atomic a) => atomAnswer s c r a
      | some (.vamo a) => vamoAnswer s c r a
      | _ => s)

/-- CASC_RETRY (R136): a casc answered busy resends; its backoff doubles up to 256 clocks. -/
def execCascRetry (c : Nat) (r : RoleId) (s : State) : Host.Outcome State Fault Refusal :=
  if !roleExists s c r then .next s
  else
    .next (match (getRole s c r).block with
      | some (.atomic a) =>
        if a.reply = some .busy then setAtom s c r { a with reply := none, backoff := min (2 * a.backoff) 256 } else s
      | _ => s)

/-! ## The continuation table (R134, R135) -/

/-- A zero field of CTABD0 or CTABD1 is set, or GK is refused. -/
def ctabBad (w0 w1 : Word) : Bool :=
  decide (bits w0 55 48 ≠ 0 ∨ bits w0 31 0 ≠ 0 ∨ bits w1 63 44 ≠ 0 ∨ bits w1 6 0 ≠ 0 ∨ 46 < bits w0 61 56)

/-- A write to CTABCMD (R135). -/
def ctabCommand (s : State) (x : Word) : State :=
  let op := bits x 63 62
  let idx := bits x 11 0
  let w0 := reg s rCtabd0
  let w1 := reg s rCtabd1
  if s.ctabBusy.isSome ∨ op = 3 ∨ bits x 59 12 ≠ 0 ∨ (op = 1 ∧ ctabBad w0 w1) then
    putReg s rCtabcmd 60 60 1
  else
    let s := setReg s rCtabcmd (BitVec.ofNat 64 idx)
    match op with
    | 1 => { s with ctabBusy := some (idx, w0, w1), ctabTook := [] }
    | 2 =>
      let e := tabD s.ctab idx (0, 0)
      setReg (setReg s rCtabd0 e.1) rCtabd1 e.2
    | _ => s

/-- CTAB_WRITE_ENTRY (R135): a write to CTABCMD with OP 01b. -/
def execCtabWriteEntry (x : BitVec 64) (s : State) : Host.Outcome State Fault Refusal :=
  .next (ctabCommand s (putBits x 63 62 1))

/-- CTAB_READ_ENTRY (R135): a write to CTABCMD with OP 10b. -/
def execCtabReadEntry (x : BitVec 64) (s : State) : Host.Outcome State Fault Refusal :=
  .next (ctabCommand s (putBits x 63 62 2))

/-- CTAB_UPDATE_DONE (R135): every slice and core holds the new entry. -/
def execCtabUpdateDone (s : State) : Host.Outcome State Fault Refusal :=
  .next (match s.ctabBusy with
    | none => s
    | some (i, w0, w1) => { s with ctab := tabSet s.ctab i (w0, w1), ctabBusy := none, ctabTook := [] })

end Sys2Proof.Machine
end

