-- ==== Sys2Proof/Machine/Scalar.lean ====
section
/-! DEFINITION. Sys2Proof/Machine/Scalar.lean: scalar arithmetic, bit fields, constants, moves, comparisons, predicates
(R255 to R264). -/

namespace Sys2Proof.Machine

/-! ## Shared bodies -/

/-- Alu3 (R255): two sources, read in order; the taint is the OR of theirs (R90). -/
def alu3 (rd ra rb : G6) (f : Word → Word → Word) : Body := fun c r s => do
  checkUse c r s [.g ra, .g rb] (.g rd)
  let (s, a) := readG c r s ra
  let (s, b) := readG c r s rb
  done (writeG c r s rd ⟨f a.val b.val, a.taint || b.taint⟩)

/-- One source; the result takes its taint, or 0 where the entry says so. -/
def alu2 (rd ra : G6) (keep : Bool) (f : Word → Word) : Body := fun c r s => do
  checkUse c r s [.g ra] (.g rd)
  let (s, a) := readG c r s ra
  done (writeG c r s rd ⟨f a.val, a.taint && keep⟩)

/-- A predicate result of two predicates (R263). -/
def predBody (pd pa pb : P3) (f : Word → Word → Word) : Body := fun c r s =>
  done (writeP c r s pd (f (readP c r s pa) (readP c r s pb)))

/-! ## Operations -/

/-- Quotients and remainders with the fixed results of R256. -/
def divS (a b : Word) : Word := if b = 0 then BitVec.allOnes 64 else a.sdiv b

def divU (a b : Word) : Word := if b = 0 then BitVec.allOnes 64 else a / b

def remS (a b : Word) : Word := if b = 0 then a else a.srem b

def remU (a b : Word) : Word := if b = 0 then a else a % b

/-- Bits [127:64] of the product of two 128-bit extensions (R255). -/
def mulHigh (a b : BitVec 128) : Word := (a * b).extractLsb' 64 64

/-- The shift count of R255. -/
def shiftCount (b : Word) : Nat := b.toNat % 64

def minS (a b : Word) : Word := if a.slt b then a else b

def maxS (a b : Word) : Word := if a.slt b then b else a

def minU (a b : Word) : Word := if a.ult b then a else b

def maxU (a b : Word) : Word := if a.ult b then b else a

/-- Leading zero bits among the low n bits, from bit n − 1 down. -/
def leadZeros (a : Word) : (n : Nat) → Nat
  | 0 => 0
  | n + 1 => if bit a n then 0 else 1 + leadZeros a n

/-- Trailing zero bits from bit i up, over n bits. -/
def trailZeros (a : Word) (i : Nat) : (n : Nat) → Nat
  | 0 => 0
  | n + 1 => if bit a i then 0 else 1 + trailZeros a (i + 1) n

/-- One bits among the low n. -/
def oneBits (a : Word) : (n : Nat) → Nat
  | 0 => 0
  | n + 1 => (bit a n).toNat + oneBits a n

/-- The low w bits, sign-extended. -/
def signLow (a : Word) (w : Nat) : Word := (a <<< (64 - w)).sshiftRight (64 - w)

/-- The low w bits, zero-extended. -/
def zeroLow (a : Word) (w : Nat) : Word := (a <<< (64 - w)) >>> (64 - w)

/-- A condition between two words (R237). -/
def condHolds (c : Cond) (a b : Word) : Bool :=
  match c with
  | .eq => a == b
  | .ne => a != b
  | .lt => a.slt b
  | .ge => !a.slt b
  | .ltu => a.ult b
  | .geu => !a.ult b
  | .gt => b.slt a
  | .le => !b.slt a
  | .gtu => b.ult a
  | .leu => !b.ult a

/-! ## Meanings -/

/-- NOP (R264): only its token marks act. -/
def execNop (m : Mark) (g : Guard) (s : State) : Host.Outcome State Fault Refusal :=
  issue (.nop m g) m 1 (scalarGuard g) (fun _ _ s => done s) s

/-- ADD (R255). -/
def execAdd (m : Mark) (rd ra rb : G6) (g : Guard) (s : State) : Host.Outcome State Fault Refusal :=
  issue (.add m rd ra rb g) m 1 (scalarGuard g) (alu3 rd ra rb (fun a b => a + b)) s

/-- SUB (R255). -/
def execSub (m : Mark) (rd ra rb : G6) (g : Guard) (s : State) : Host.Outcome State Fault Refusal :=
  issue (.sub m rd ra rb g) m 1 (scalarGuard g) (alu3 rd ra rb (fun a b => a - b)) s

/-- MUL (R255). -/
def execMul (m : Mark) (rd ra rb : G6) (g : Guard) (s : State) : Host.Outcome State Fault Refusal :=
  issue (.mul m rd ra rb g) m 1 (scalarGuard g) (alu3 rd ra rb (fun a b => a * b)) s

/-- MULH (R255). -/
def execMulh (m : Mark) (rd ra rb : G6) (g : Guard) (s : State) : Host.Outcome State Fault Refusal :=
  issue (.mulh m rd ra rb g) m 1 (scalarGuard g) (alu3 rd ra rb (fun a b => mulHigh (a.signExtend 128) (b.signExtend 128))) s

/-- MULHU (R255). -/
def execMulhu (m : Mark) (rd ra rb : G6) (g : Guard) (s : State) : Host.Outcome State Fault Refusal :=
  issue (.mulhu m rd ra rb g) m 1 (scalarGuard g) (alu3 rd ra rb (fun a b => mulHigh (a.zeroExtend 128) (b.zeroExtend 128))) s

/-- DIV (R256). -/
def execDiv (m : Mark) (rd ra rb : G6) (g : Guard) (s : State) : Host.Outcome State Fault Refusal :=
  issue (.div m rd ra rb g) m 1 (scalarGuard g) (alu3 rd ra rb divS) s

/-- DIVU (R256). -/
def execDivu (m : Mark) (rd ra rb : G6) (g : Guard) (s : State) : Host.Outcome State Fault Refusal :=
  issue (.divu m rd ra rb g) m 1 (scalarGuard g) (alu3 rd ra rb divU) s

/-- REM (R256). -/
def execRem (m : Mark) (rd ra rb : G6) (g : Guard) (s : State) : Host.Outcome State Fault Refusal :=
  issue (.rem m rd ra rb g) m 1 (scalarGuard g) (alu3 rd ra rb remS) s

/-- REMU (R256). -/
def execRemu (m : Mark) (rd ra rb : G6) (g : Guard) (s : State) : Host.Outcome State Fault Refusal :=
  issue (.remu m rd ra rb g) m 1 (scalarGuard g) (alu3 rd ra rb remU) s

/-- AND (R255). -/
def execAnd (m : Mark) (rd ra rb : G6) (g : Guard) (s : State) : Host.Outcome State Fault Refusal :=
  issue (.and m rd ra rb g) m 1 (scalarGuard g) (alu3 rd ra rb (fun a b => a &&& b)) s

/-- OR (R255). -/
def execOr (m : Mark) (rd ra rb : G6) (g : Guard) (s : State) : Host.Outcome State Fault Refusal :=
  issue (.or m rd ra rb g) m 1 (scalarGuard g) (alu3 rd ra rb (fun a b => a ||| b)) s

/-- XOR (R255). -/
def execXor (m : Mark) (rd ra rb : G6) (g : Guard) (s : State) : Host.Outcome State Fault Refusal :=
  issue (.xor m rd ra rb g) m 1 (scalarGuard g) (alu3 rd ra rb (fun a b => a ^^^ b)) s

/-- ANDN (R255). -/
def execAndn (m : Mark) (rd ra rb : G6) (g : Guard) (s : State) : Host.Outcome State Fault Refusal :=
  issue (.andn m rd ra rb g) m 1 (scalarGuard g) (alu3 rd ra rb (fun a b => a &&& ~~~b)) s

/-- SHL (R255). -/
def execShl (m : Mark) (rd ra rb : G6) (g : Guard) (s : State) : Host.Outcome State Fault Refusal :=
  issue (.shl m rd ra rb g) m 1 (scalarGuard g) (alu3 rd ra rb (fun a b => a <<< shiftCount b)) s

/-- SHR (R255). -/
def execShr (m : Mark) (rd ra rb : G6) (g : Guard) (s : State) : Host.Outcome State Fault Refusal :=
  issue (.shr m rd ra rb g) m 1 (scalarGuard g) (alu3 rd ra rb (fun a b => a >>> shiftCount b)) s

/-- SAR (R255). -/
def execSar (m : Mark) (rd ra rb : G6) (g : Guard) (s : State) : Host.Outcome State Fault Refusal :=
  issue (.sar m rd ra rb g) m 1 (scalarGuard g) (alu3 rd ra rb (fun a b => a.sshiftRight (shiftCount b))) s

/-- ROTR (R255). -/
def execRotr (m : Mark) (rd ra rb : G6) (g : Guard) (s : State) : Host.Outcome State Fault Refusal :=
  issue (.rotr m rd ra rb g) m 1 (scalarGuard g) (alu3 rd ra rb (fun a b => a.rotateRight (shiftCount b))) s

/-- MIN (R255). -/
def execMin (m : Mark) (rd ra rb : G6) (g : Guard) (s : State) : Host.Outcome State Fault Refusal :=
  issue (.min m rd ra rb g) m 1 (scalarGuard g) (alu3 rd ra rb minS) s

/-- MAX (R255). -/
def execMax (m : Mark) (rd ra rb : G6) (g : Guard) (s : State) : Host.Outcome State Fault Refusal :=
  issue (.max m rd ra rb g) m 1 (scalarGuard g) (alu3 rd ra rb maxS) s

/-- MINU (R255). -/
def execMinu (m : Mark) (rd ra rb : G6) (g : Guard) (s : State) : Host.Outcome State Fault Refusal :=
  issue (.minu m rd ra rb g) m 1 (scalarGuard g) (alu3 rd ra rb minU) s

/-- MAXU (R255). -/
def execMaxu (m : Mark) (rd ra rb : G6) (g : Guard) (s : State) : Host.Outcome State Fault Refusal :=
  issue (.maxu m rd ra rb g) m 1 (scalarGuard g) (alu3 rd ra rb maxU) s

/-- CLZ (R257). -/
def execClz (m : Mark) (rd ra : G6) (g : Guard) (s : State) : Host.Outcome State Fault Refusal :=
  issue (.clz m rd ra g) m 1 (scalarGuard g) (alu2 rd ra true (fun a => BitVec.ofNat 64 (leadZeros a 64))) s

/-- CTZ (R257). -/
def execCtz (m : Mark) (rd ra : G6) (g : Guard) (s : State) : Host.Outcome State Fault Refusal :=
  issue (.ctz m rd ra g) m 1 (scalarGuard g) (alu2 rd ra true (fun a => BitVec.ofNat 64 (trailZeros a 0 64))) s

/-- POPC (R257). -/
def execPopc (m : Mark) (rd ra : G6) (g : Guard) (s : State) : Host.Outcome State Fault Refusal :=
  issue (.popc m rd ra g) m 1 (scalarGuard g) (alu2 rd ra true (fun a => BitVec.ofNat 64 (oneBits a 64))) s

/-- SEXT (R257); the field holds w − 1. -/
def execSext (m : Mark) (rd ra : G6) (w : BitVec 6) (g : Guard) (s : State) : Host.Outcome State Fault Refusal :=
  issue (.sext m rd ra w g) m 1 (scalarGuard g) (alu2 rd ra true (fun a => signLow a (w.toNat + 1))) s

/-- ZEXT (R257); the field holds w − 1. -/
def execZext (m : Mark) (rd ra : G6) (w : BitVec 6) (g : Guard) (s : State) : Host.Outcome State Fault Refusal :=
  issue (.zext m rd ra w g) m 1 (scalarGuard g) (alu2 rd ra true (fun a => zeroLow a (w.toNat + 1))) s

/-- BFX (R257); the field holds len − 1. -/
def execBfx (m : Mark) (rd ra : G6) (pos len : BitVec 6) (g : Guard) (s : State) : Host.Outcome State Fault Refusal :=
  issue (.bfx m rd ra pos len g) m 1 (scalarGuard g) (alu2 rd ra true (fun a => zeroLow (a >>> pos.toNat) (len.toNat + 1))) s

/-- BFI (R257). -/
def execBfi (m : Mark) (rd ra rb : G6) (pos len : BitVec 6) (g : Guard) (s : State) : Host.Outcome State Fault Refusal :=
  issue (.bfi m rd ra rb pos len g) m 1 (scalarGuard g) (alu3 rd ra rb (fun a b => putBits b (pos.toNat + len.toNat) pos.toNat (zeroLow a (len.toNat + 1)).toNat)) s

/-- SEL (R257): both sources are read whichever is chosen. -/
def execSel (m : Mark) (rd ra rb : G6) (p : P3) (g : Guard) (s : State) : Host.Outcome State Fault Refusal :=
  issue (.sel m rd ra rb p g) m 1 (scalarGuard g)
    (fun c r t => alu3 rd ra rb (fun a b => if bit (readP c r t p) 0 then a else b) c r t) s

/-- LI (R258). -/
def execLi (m : Mark) (rd : G6) (imm : BitVec 32) (g : Guard) (s : State) : Host.Outcome State Fault Refusal :=
  issue (.li m rd imm g) m 1 (scalarGuard g)
    (fun c r s => do
      checkUse c r s [] (.g rd)
      done (writeG c r s rd ⟨imm.signExtend 64, false⟩)) s

/-- LIH (R258): taint 0. -/
def execLih (m : Mark) (rd ra : G6) (imm : BitVec 32) (g : Guard) (s : State) : Host.Outcome State Fault Refusal :=
  issue (.lih m rd ra imm g) m 1 (scalarGuard g) (alu2 rd ra false (fun a => imm ++ a.extractLsb' 0 32)) s

/-- MOV (R259). -/
def execMov (m : Mark) (rd ra : G6) (g : Guard) (s : State) : Host.Outcome State Fault Refusal :=
  issue (.mov m rd ra g) m 1 (scalarGuard g) (alu2 rd ra true (fun a => a)) s

/-- LEA (R260): the effective address of R22, zero-extended from 57 bits. -/
def execLea (m : Mark) (rd : G6) (ea : EA) (g : Guard) (s : State) : Host.Outcome State Fault Refusal :=
  issue (.lea m rd ea g) m 1 (scalarGuard g) (alu3 rd ea.rb ea.ri (fun b i => BitVec.ofNat 64 (effAddr b i ea.sc ea.off))) s

/-- ADDI (R261). -/
def execAddi (m : Mark) (rd ra : G6) (imm : BitVec 32) (g : Guard) (s : State) : Host.Outcome State Fault Refusal :=
  issue (.addi m rd ra imm g) m 1 (scalarGuard g) (alu2 rd ra true (fun a => a + imm.signExtend 64)) s

/-- ANDI (R261). -/
def execAndi (m : Mark) (rd ra : G6) (imm : BitVec 32) (g : Guard) (s : State) : Host.Outcome State Fault Refusal :=
  issue (.andi m rd ra imm g) m 1 (scalarGuard g) (alu2 rd ra true (fun a => a &&& imm.signExtend 64)) s

/-- ORI (R261). -/
def execOri (m : Mark) (rd ra : G6) (imm : BitVec 32) (g : Guard) (s : State) : Host.Outcome State Fault Refusal :=
  issue (.ori m rd ra imm g) m 1 (scalarGuard g) (alu2 rd ra true (fun a => a ||| imm.signExtend 64)) s

/-- XORI (R261). -/
def execXori (m : Mark) (rd ra : G6) (imm : BitVec 32) (g : Guard) (s : State) : Host.Outcome State Fault Refusal :=
  issue (.xori m rd ra imm g) m 1 (scalarGuard g) (alu2 rd ra true (fun a => a ^^^ imm.signExtend 64)) s

/-- SHLI (R261). -/
def execShli (m : Mark) (rd ra : G6) (sh : BitVec 6) (g : Guard) (s : State) : Host.Outcome State Fault Refusal :=
  issue (.shli m rd ra sh g) m 1 (scalarGuard g) (alu2 rd ra true (fun a => a <<< sh.toNat)) s

/-- SHRI (R261). -/
def execShri (m : Mark) (rd ra : G6) (sh : BitVec 6) (g : Guard) (s : State) : Host.Outcome State Fault Refusal :=
  issue (.shri m rd ra sh g) m 1 (scalarGuard g) (alu2 rd ra true (fun a => a >>> sh.toNat)) s

/-- SARI (R261). -/
def execSari (m : Mark) (rd ra : G6) (sh : BitVec 6) (g : Guard) (s : State) : Host.Outcome State Fault Refusal :=
  issue (.sari m rd ra sh g) m 1 (scalarGuard g) (alu2 rd ra true (fun a => a.sshiftRight sh.toNat)) s

/-- CMP (R262). -/
def execCmp (m : Mark) (cc : Cond) (pd : P3) (ra rb : G6) (g : Guard) (s : State) : Host.Outcome State Fault Refusal :=
  issue (.cmp m cc pd ra rb g) m 1 (scalarGuard g)
    (fun c r s => do
      checkUse c r s [.g ra, .g rb] .none
      let (s, a) := readG c r s ra
      let (s, b) := readG c r s rb
      done (writeP c r s pd (if condHolds cc a.val b.val then BitVec.allOnes 64 else 0))) s

/-- CSET (R262). -/
def execCset (m : Mark) (cc : Cond) (rd ra rb : G6) (g : Guard) (s : State) : Host.Outcome State Fault Refusal :=
  issue (.cset m cc rd ra rb g) m 1 (scalarGuard g)
    (alu3 rd ra rb fun a b => if condHolds cc a b then 1 else 0) s

/-- PAND (R263). -/
def execPand (m : Mark) (pd pa pb : P3) (g : Guard) (s : State) : Host.Outcome State Fault Refusal :=
  issue (.pand m pd pa pb g) m 1 (scalarGuard g) (predBody pd pa pb fun a b => a &&& b) s

/-- POR (R263). -/
def execPor (m : Mark) (pd pa pb : P3) (g : Guard) (s : State) : Host.Outcome State Fault Refusal :=
  issue (.por m pd pa pb g) m 1 (scalarGuard g) (predBody pd pa pb fun a b => a ||| b) s

/-- PXOR (R263). -/
def execPxor (m : Mark) (pd pa pb : P3) (g : Guard) (s : State) : Host.Outcome State Fault Refusal :=
  issue (.pxor m pd pa pb g) m 1 (scalarGuard g) (predBody pd pa pb fun a b => a ^^^ b) s

/-- PNOT (R263). -/
def execPnot (m : Mark) (pd pa : P3) (g : Guard) (s : State) : Host.Outcome State Fault Refusal :=
  issue (.pnot m pd pa g) m 1 (scalarGuard g) (predBody pd pa pa fun a _ => ~~~a) s

/-- PMOV (R263). -/
def execPmov (m : Mark) (pd pa : P3) (g : Guard) (s : State) : Host.Outcome State Fault Refusal :=
  issue (.pmov m pd pa g) m 1 (scalarGuard g) (predBody pd pa pa fun a _ => a) s

/-- PMOV_FROM_GENERAL (R263). -/
def execPmovFromGeneral (m : Mark) (pd : P3) (ra : G6) (g : Guard) (s : State) : Host.Outcome State Fault Refusal :=
  issue (.pmovFromGeneral m pd ra g) m 1 (scalarGuard g)
    (fun c r s => do
      checkUse c r s [.g ra] .none
      let (s, a) := readG c r s ra
      done (writeP c r s pd a.val)) s

/-- PMOV_TO_GENERAL (R263): taint 0. -/
def execPmovToGeneral (m : Mark) (rd : G6) (pa : P3) (g : Guard) (s : State) : Host.Outcome State Fault Refusal :=
  issue (.pmovToGeneral m rd pa g) m 1 (scalarGuard g)
    (fun c r s => do
      checkUse c r s [] (.g rd)
      done (writeG c r s rd ⟨readP c r s pa, false⟩)) s

end Sys2Proof.Machine
end

