-- ==== Sys2Proof/Machine/Control.lean ====
section
/-! DEFINITION. Sys2Proof/Machine/Control.lean: branches and loops (R265, R266), fin (R200, R267), safe (R268), wait
(R269), trap, brk and eret (R282, R283). -/

namespace Sys2Proof.Machine

/-! ## Branches -/

/-- The address that a displacement of a word names (R265). -/
def dispTarget (s : State) (c : Nat) (r : RoleId) (disp : BitVec 32) : Nat :=
  ((getRole s c r).pc.zeroExtend 64 + disp.signExtend 64 * 8).toNat % 2 ^ 57

/-- The address of the word after the current one, as a link. -/
def linkOf (s : State) (c : Nat) (r : RoleId) : Reg := ⟨((getRole s c r).pc + 8).zeroExtend 64, false⟩

/-- Go to a register target; a misaligned one is fatal ALIGN (R231). -/
def goTo (s : State) (a : Word) : Except Stop (State × Flow) :=
  if a.toNat % 8 = 0 then .ok (s, .jump (a.toNat % 2 ^ 57)) else .error (.fatal s (fALIGN (a.toNat % 2 ^ 57)))

/-- br and ret (R265). -/
def branchReg (ra : G6) : Body := fun c r s => do
  checkUse c r s [.g ra] .none
  let (s, a) := readG c r s ra
  goTo s a.val

/-- BRA (R265). -/
def execBra (m : Mark) (disp : BitVec 32) (s : State) : Host.Outcome State Fault Refusal :=
  issue (.bra m disp) m 1 noGuard (fun c r s => .ok (s, .jump (dispTarget s c r disp))) s

/-- BR (R265). -/
def execBr (m : Mark) (ra : G6) (s : State) : Host.Outcome State Fault Refusal :=
  issue (.br m ra) m 1 noGuard (branchReg ra) s

/-- BRC (R265). -/
def execBrc (m : Mark) (cc : Cond) (ra rb : G6) (disp : BitVec 32) (s : State) : Host.Outcome State Fault Refusal :=
  issue (.brc m cc ra rb disp) m 1 noGuard
    (fun c r s => do
      checkUse c r s [.g ra, .g rb] .none
      let (s, a) := readG c r s ra
      let (s, b) := readG c r s rb
      .ok (s, if condHolds cc a.val b.val then .jump (dispTarget s c r disp) else .seq)) s

/-- BRQ (R265): looks at the queue's occupancy; no pop, no wait, no trap. -/
def execBrq (m : Mark) (ne : Bool) (q : BitVec 3) (disp : BitVec 32) (s : State) : Host.Outcome State Fault Refusal :=
  issue (.brq m ne q disp) m 1 noGuard
    (fun c r s => .ok (s, if qFilled (core s c) q.toNat 0 = ne then .jump (dispTarget s c r disp) else .seq)) s

/-- CALL (R265). -/
def execCall (m : Mark) (rd : G6) (disp : BitVec 32) (s : State) : Host.Outcome State Fault Refusal :=
  issue (.call m rd disp) m 1 noGuard
    (fun c r s => do
      checkUse c r s [] (.g rd)
      .ok (writeG c r s rd (linkOf s c r), .jump (dispTarget s c r disp))) s

/-- RET (R265). -/
def execRet (m : Mark) (ra : G6) (s : State) : Host.Outcome State Fault Refusal :=
  issue (.ret m ra) m 1 noGuard (branchReg ra) s

/-- JMP (R265): the target is read before the link is written. -/
def execJmp (m : Mark) (rd ra : G6) (s : State) : Host.Outcome State Fault Refusal :=
  issue (.jmp m rd ra) m 1 noGuard
    (fun c r s => do
      checkUse c r s [.g ra] (.g rd)
      let (s, a) := readG c r s ra
      let (_, fl) ← goTo s a.val
      .ok (writeG c r s rd (linkOf s c r), fl)) s

/-! ## Loop counters (R266) -/

/-- A loop counter of a role. -/
def loopCount (s : State) (c : Nat) (r : RoleId) (n : Nat) : BitVec 32 := tabD (getRole s c r).lc n 0

/-- Set a loop counter. -/
def setLoop (s : State) (c : Nat) (r : RoleId) (n : Nat) (v : BitVec 32) : State :=
  modRole s c r fun x => { x with lc := tabSet x.lc n v }

/-- LOOP (R266). -/
def execLoop (m : Mark) (lc : BitVec 2) (disp : BitVec 32) (s : State) : Host.Outcome State Fault Refusal :=
  issue (.loop m lc disp) m 1 noGuard
    (fun c r s =>
      let v := loopCount s c r lc.toNat - 1
      .ok (setLoop s c r lc.toNat v, if v ≠ 0 then .jump (dispTarget s c r disp) else .seq)) s

/-- LREC (R266). -/
def execLrec (m : Mark) (lc : BitVec 2) (ra : G6) (imm : BitVec 32) (s : State) : Host.Outcome State Fault Refusal :=
  issue (.lrec m lc ra imm) m 1 noGuard
    (fun c r s => do
      checkUse c r s [.g ra] .none
      let (s, a) := readG c r s ra
      done (setLoop s c r lc.toNat ((a.val + imm.signExtend 64).setWidth 32))) s

/-! ## Ending (R200, R267) -/

/-- The segment that runs is the last of its task: always, but in a LOOP task before its epilogue (R415). -/
def lastSegment (t : Task) : Bool := taskKind t != 1 || decide (t.trips < t.seg)

/-- The core runs a LOOP task. -/
def loopTask (s : State) (c : Nat) : Bool :=
  match coreTask s c with
  | none => false
  | some t => taskKind t == 1

/-- The trap state of a role whose handler ends by fin is discarded, its mode with it (R267; log 32). -/
def dropTrapState (x : Role) : Role :=
  if inHandler x then { x with tpc := 0, tcause := 0, tval := 0, vstart := 0, tstat := 0 } else x

/-- A role that has reached fin: in the last segment every register is unbound (R213). -/
def finRole (last : Bool) (x : Role) : Role :=
  { dropTrapState x with
    fin := true
    g := if last then [] else x.g
    v := if last then [] else x.v
    why := none }

/-- The jobs of a role that a SHADOW_FULL stopped, with what its record carries (R392). -/
def stoppedJob (s : State) (c : Nat) (r : RoleId) : Option CJob :=
  (core s c).copy.jobs.find? fun j => j.stopped && j.role == r

/-- PROG of a job (R391): the job-order offset of the first byte not performed, by what the job itself has sent. -/
def jobProg (j : CJob) : Nat := ((j.left.map (·.off)) ++ [j.prog]).min?.getD 0

/-- A contribution of a job. -/
def ofJob (c id : Nat) (x : Contrib) : Bool := x.x.src == .job c id

/-- A request of a job at a peer. -/
def jobAsks (c id : Nat) (p : PeerOut) : Bool :=
  match p.who with
  | .job c' id' _ => c' == c && id' == id
  | _ => false

/-- The offset of the first byte that a job has not performed, none above a bound (R391): what it has sent and what is not yet
acknowledged counts as not performed. -/
def firstUnperformed (s : State) (c id bound : Nat) : Nat :=
  let asked (p : PeerOut) : List Nat := match p.who with
    | .job c' id' off => if c' = c ∧ id' = id then [off] else []
    | _ => []
  ((s.contribs.filter (ofJob c id)).map (·.off) ++ s.peerOut.flatMap asked).foldl min bound

/-- PROG of a job: by what it has not sent, and by what is still to be acknowledged. -/
def jobProgAt (s : State) (c : Nat) (j : CJob) : Nat := firstUnperformed s c j.id (jobProg j)

/-- A contribution that its slice has turned away. -/
def turnedAway (x : Contrib) : Bool :=
  match x.st with
  | .refused _ => true
  | .retry => true
  | _ => false

/-- The fatal ENGINE of a trap still held when its role reaches fin (R373, R392, R441). -/
def heldAtFin (s : State) (c : Nat) (r : RoleId) : Fatal :=
  if bits (getRole s c r).tstat 15 8 = tMISMATCH then
    { fatalAt 0x49 0x16 0 0 with unit := 1, cmd := ((core s c).matrix.pend.map fun p => p.2).toList }
  else
    match stoppedJob s c r with
    | some j => { fatalAt 0x49 0x25 0 0 with unit := 2, cmd := j.words, prog := BitVec.ofNat 64 (jobProgAt s c j) }
    | none => { fatalAt 0x49 0x25 0 0 with unit := 2 }

/-- A handler of SHADOW_FULL that reaches fin abandons the jobs it stopped, and what their slices turned away (R392). -/
def abandonJobs (s : State) (c : Nat) (r : RoleId) : State :=
  let gone (x : Contrib) : Bool := turnedAway x && (core s c).copy.jobs.any fun j => j.stopped && j.role == r && ofJob c j.id x
  modCore { s with contribs := s.contribs.filter fun x => !gone x } c fun k => { k with copy := { k.copy with jobs := k.copy.jobs.filter fun j => !(j.stopped && j.role == r) } }

/-- FIN (R200, R267): the role stops issuing. Its outstanding loads arrive first; its push-after is done with it. -/
def execFin (m : Mark) (s : State) : Host.Outcome State Fault Refusal :=
  issue (.fin m) { m with pa := false } 1 noGuard
    (fun c r s => do
      needWorker c
      let x := getRole s c r
      if trapPending x then .error (.fatal s (heldAtFin s c r))
      else if !x.loads.isEmpty ∨ (m.pa ∧ (!pushReady s c r ∨ 16 ≤ downCount (core s c) r)) then
        .error (.wait (if x.loads.isEmpty ∧ pushReady s c r then .tokPush 1 else .other))
      else
        let s := if m.pa then pushTokens s c r 1 else s
        let s := if inHandler x then abandonJobs s c r else s
        let last := match coreTask s c with
          | some t => lastSegment t
          | none => true
        -- a handler's word leaves WALK as it is (R203)
        if inHandler x then .ok (modRole s c r fun y => { finRole last y with pc := x.pc + 8 }, .stay)
        else done (modRole s c r (finRole last))) s

/-- A register is named in a live mask. -/
def live {n : Nat} (mask : BitVec n) (lo : Nat) (e : Nat) : Bool := decide (lo ≤ e) && mask.getLsbD (e - lo)

/-- An outstanding load is to write a register that the masks unbind. -/
def unbindsAwaited (x : Role) (gmask : BitVec 47) (vmask : BitVec 28) : Bool :=
  x.loads.any fun l =>
    match l.dest with
    | .g n => !live gmask 1 n
    | .v n => !live vmask 0 n
    | _ => false

/-- SAFE (R268): unbinds registers outside the masks; a safe point but in a LOOP task. Bit j − 1 of gmask is gj. -/
def execSafe (m : Mark) (gmask : BitVec 47) (vmask : BitVec 28) (s : State) : Host.Outcome State Fault Refusal :=
  issue (.safe m gmask vmask) m 2 noGuard
    (fun c r s =>
      if unbindsAwaited (getRole s c r) gmask vmask then .error (.wait .other)
      else
        let s' := modRole s c r fun x =>
          { x with g := x.g.filter fun e => live gmask 1 e.1
                   v := x.v.filter fun e => live vmask 0 e.1 }
        .ok (s', if loopTask s c then .seq else .safePoint)) s

/-! ## Timed waits (R269) -/

/-- WAIT (R269): the role issues nothing until WAIT_EXPIRY. -/
def execWait (m : Mark) (ra : G6) (imm : BitVec 32) (s : State) : Host.Outcome State Fault Refusal :=
  issue (.wait m ra imm) m 1 noGuard
    (fun c r s => do
      checkUse c r s [.g ra] .none
      let (s, a) := readG c r s ra
      let t := (a.val + imm.signExtend 64).toInt
      if t > 0 then done (modRole s c r fun x => { x with block := some (.waiting (BitVec.ofNat 17 (min t.toNat 65536))) })
      else done s) s

/-- WAIT_EXPIRY (R269). -/
def execWaitExpiry (c : Nat) (r : RoleId) (s : State) : Host.Outcome State Fault Refusal :=
  if roleExists s c r then
    .next (match (getRole s c r).block with
      | some (.waiting _) => modRole s c r fun x => { x with block := none }
      | _ => s)
  else .next s

/-! ## Traps by instruction (R282, R283) -/

/-- TRAP (R282): TRAPI, with TPC at the following word. -/
def execTrap (t : RoleTag) (imm : BitVec 16) (s : State) : Host.Outcome State Fault Refusal :=
  issue (.trap t imm) ⟨t, false, false⟩ 1 noGuard (fun _ _ s => .ok (s, .trapAfter (imm.zeroExtend 64))) s

/-- BRK (R282, R450): BRK, or a halt of the role at the word under a debugger. -/
def execBrk (t : RoleTag) (imm : BitVec 16) (s : State) : Host.Outcome State Fault Refusal :=
  issue (.brk t imm) ⟨t, false, false⟩ 1 noGuard
    (fun c r s =>
      if (core s c).dbg.brken then .error (.hold (debugStop s c r 3)) else .error (.trap tBRK (imm.zeroExtend 64))) s

/-- ERET (R283, R440). -/
def execEret (m : Mark) (s : State) : Host.Outcome State Fault Refusal :=
  issue (.eret m) m 1 noGuard eretBody s

end Sys2Proof.Machine
end

