-- ==== Sys2Proof/Machine/Handles.lean ====
section
/-! DEFINITION. Sys2Proof/Machine/Handles.lean: circular-buffer handles (R209 to R211), semaphores (R212, R244, R274)
and barrier objects (R96 to R98), as roles and engines use them. -/

namespace Sys2Proof.Machine

/-! ## Handle descriptors -/

/-- A handle's descriptor (R209). `size`: bytes per slot; `slots`: their number. -/
structure Desc where
  size   : Nat
  slots  : Nat
  base   : Nat
  filled : Nat
  widx   : Nat
  ridx   : Nat
  deriving DecidableEq, Repr

/-- The descriptor of two words. -/
def descOf (w0 w1 : Word) : Desc where
  size := 8 * (bits w0 57 41 + 1)
  slots := bits w0 40 29 + 1
  base := bits w0 20 0
  filled := bits w1 44 32
  widx := bits w1 27 16
  ridx := bits w1 11 0

/-- A handle's descriptor. -/
def desc (k : Core) (h : Nat) : Desc := descOf (tabD k.hdesc (2 * h) 0) (tabD k.hdesc (2 * h + 1) 0)

/-- Word 1 of a descriptor. -/
def descWord1 (d : Desc) : Word := ofFields [(32, d.filled), (16, d.widx), (0, d.ridx)]

/-- Change a handle's counts. -/
def setDesc (s : State) (c h : Nat) (d : Desc) : State :=
  modCore s c fun k => { k with hdesc := tabSet k.hdesc (2 * h + 1) (descWord1 d) }

/-- The ring lies in scratch (R209, R276). -/
def descInScratch (k : Core) (d : Desc) : Bool :=
  decide (bnd0 k ≤ d.base ∧ d.base + d.slots * d.size ≤ bnd1 k)

/-- Pool byte of slot i. -/
def slotByte (d : Desc) (i : Nat) : Nat := d.base + i % d.slots * d.size

/-- Publish n slots (R211). -/
def publish (d : Desc) (n : Nat) : Desc := { d with widx := (d.widx + n) % d.slots, filled := d.filled + n }

/-- Free n slots (R211). -/
def freeSlots (d : Desc) (n : Nat) : Desc := { d with ridx := (d.ridx + n) % d.slots, filled := d.filled - n }

/-- Pool bytes of a core. -/
def poolRead (s : State) (c b n : Nat) : List Byte := readBytes s.mem (poolBase c + b) n

def poolWrite (s : State) (c b : Nat) (bs : List Byte) : State :=
  { s with mem := writeBytes s.mem (poolBase c + b) bs }

/-- Word i after the oldest of a command ring. -/
def ringWord (s : State) (c h i : Nat) : Word :=
  let d := desc (core s c) h
  BitVec.ofNat 64 (leNat (poolRead s c (slotByte d (d.ridx + i)) 8))

/-- The published words of a command ring, oldest first. -/
def ringWords (s : State) (c h : Nat) : List Word :=
  (List.range (desc (core s c) h).filled).map fun i => ringWord s c h i

/-! ## Which commands name a handle (R272) -/

/-- Handles that a decoded command names. -/
def namedHandles : Instr → List Nat
  | .mma _ _ _ ha hb _ reuse _ _ => (if reuse then [] else [ha.toNat]) ++ [hb.toNat]
  | .mld _ _ _ _ h _ => [h.toNat]
  | .mdr _ _ _ _ _ h _ _ => [h.toNat]
  | .mcfgLoadFormat _ h _ => [h.toNat]
  | .cpy _ _ a b _ _ _ => [a, b].filterMap side
  | .cpyd _ _ b _ _ => [b].filterMap side
  | .gath _ _ b _ _ _ _ => [b].filterMap side
  | .scat _ a _ _ _ _ _ => [a].filterMap side
  | .fill _ b _ _ _ => [b].filterMap side
  | .redc _ a _ _ _ _ _ _ _ => [a].filterMap side
  | _ => []
where
  side : CopySide → Option Nat
    | .handle h _ => some h.toNat
    | .addr _ => none

/-- Handles a command's words name; a malformed one names none. -/
def wordHandles (d : Except Ill Instr) : List Nat :=
  match d with
  | .ok i => namedHandles i
  | .error _ => []

/-- Handles that the first word of a copy command names (R382). -/
def firstHandles (w : Word) : List Nat :=
  let f := FCpy.parse (FCmd.parse w).body
  let src := [1, 4, 6].contains (FCmd.parse w).cmd.toNat && f.sh == 1
  let dst := [1, 2, 3, 5].contains (FCmd.parse w).cmd.toNat && f.dh == 1
  (if src then [f.shnd.toNat] else []) ++ (if dst then [f.dhnd.toNat] else [])

/-- Handles named by a run of copy command words. A command counts from the step that publishes its first word (R272). -/
def copyRunHandles : (fuel : Nat) → List Word → List Nat
  | 0, _ => []
  | _, [] => []
  | fuel + 1, w :: r =>
    let n := copyWords (FCmd.parse w).cmd
    (if (w :: r).length < n then firstHandles w else wordHandles (decodeCopy ((w :: r).take n))) ++
      copyRunHandles fuel ((w :: r).drop n)

/-- Commands of the matrix engine that have not retired. -/
def matrixLive (s : State) (c : Nat) : List Word :=
  let k := core s c
  (k.matrix.done.map (·.word)) ++ (k.matrix.drain.map (·.word)).toList ++ (k.matrix.array.map (·.cmd.word)).toList ++
    (k.matrix.prep.map (·.word)).toList ++ ringWords s c 14

/-- Commands of the copy engine that have left the ring and have not retired. -/
def copyLive (k : Core) : List (List Word) := k.copy.jobs.map (·.words) ++ (k.copy.adm.map (·.words)).toList

/-- An unretired command of an engine names the handle, or the handle is the ring of one (R210, R272). -/
def handleBusy (s : State) (c h : Nat) : Bool :=
  let ring := ringWords s c 15
  (h == 14 && !(matrixLive s c).isEmpty) || (h == 15 && (!(copyLive (core s c)).isEmpty || !ring.isEmpty)) ||
    ((matrixLive s c).any fun w => (wordHandles (decodeMatrix w)).contains h) ||
    ((copyLive (core s c)).any fun ws => (wordHandles (decodeCopy ws)).contains h) ||
    (copyRunHandles ring.length ring).contains h

/-- An engine holds a command: published, waiting, running or not yet complete. -/
def enginesIdle (s : State) (c : Nat) : Bool :=
  (matrixLive s c).isEmpty && (copyLive (core s c)).isEmpty && (ringWords s c 15).isEmpty

/-! ## Semaphores -/

/-- A semaphore's value. -/
def sem (k : Core) (i : Nat) : Nat := (tabD k.sems i (0 : BitVec 32)).toNat

def setSem (s : State) (c i v : Nat) : State :=
  modCore s c fun k => { k with sems := tabSet k.sems i (BitVec.ofNat 32 v) }

/-- Add with the bound of R274. -/
def semAdd (s : State) (c i n : Nat) : State := setSem s c i (satAdd 0xFFFFFFFF (sem (core s c) i) n)

/-- The wait and signal bytes of a command's first word. -/
def wordWs (w : Word) : WaitSig := (FCmd.parse w).ws

/-- A wait byte is satisfied (R244). -/
def waitMet (k : Core) (w : WaitSig) : Bool :=
  !w.wen ||
    (match w.wcond.toNat with
    | 2 => sem k w.wsem.toNat == 0
    | _ => decide (1 ≤ sem k w.wsem.toNat))

/-- A role that can act waits for semaphore i, and its wait is satisfied. -/
def semOwed (s : State) (c : Nat) (r : RoleId) (i : Nat) : Bool :=
  let k := core s c
  !roleHeld s c r && !trapPending (k.role r) &&
    match (k.role r).why with
    | some (.semGe j n) => j == i && decide (n ≤ sem k i)
    | some (.semEq j n) => j == i && sem k i == n
    | _ => false

/-- No agent of the core before number `me` in the order L, C, S, matrix engine, copy engine is to be served at semaphore i
first (R273, R274). -/
def semTurn (s : State) (c i me : Nat) : Bool :=
  let k := core s c
  !((coreRoles c).any fun r => decide (roleNum r < me) && semOwed s c r i) &&
    !(decide (3 < me) && k.matrix.prep.any fun p =>
      !p.waited && (wordWs p.word).wen && (wordWs p.word).wsem.toNat == i && waitMet k (wordWs p.word))

/-- A command's wait byte is satisfied, and its engine is to be served (R244, R273). -/
def waitTurn (s : State) (c me : Nat) (w : WaitSig) : Bool :=
  waitMet (core s c) w && (!w.wen || semTurn s c w.wsem.toNat me)

/-- Take a satisfied wait byte: WCOND 00b subtracts 1 in the same step (R244). -/
def takeWait (s : State) (c : Nat) (w : WaitSig) : State :=
  if w.wen ∧ w.wcond = 0 then setSem s c w.wsem.toNat (sem (core s c) w.wsem.toNat - 1) else s

/-- A signal byte acts (R244). -/
def signal (s : State) (c : Nat) (w : WaitSig) : State :=
  if w.sen then
    let n := w.ssem.toNat
    let v := sem (core s c) n
    match w.sop.toNat with
    | 0 => setSem s c n (satAdd 0xFFFFFFFF v 1)
    | 1 => setSem s c n (v - 1)
    | 2 => setSem s c n 1
    | _ => setSem s c n 0
  else s

/-! ## Barrier objects -/

/-- The two words of a barrier object, by the memory key of its first byte. -/
def barGet (s : State) (key : Nat) : Word × Word :=
  (BitVec.ofNat 64 (leNat (readBytes s.mem key 8)), BitVec.ofNat 64 (leNat (readBytes s.mem (key + 8) 8)))

def barPut (s : State) (key : Nat) (b : Word × Word) : State :=
  { s with mem := writeBytes (writeBytes s.mem key (wordBytes b.1)) (key + 8) (wordBytes b.2) }

/-- A phase that is complete flips (R97). -/
def barFlip (b : Word × Word) : Word × Word :=
  if bits b.1 47 32 = bits b.1 63 48 ∧ bits b.2 47 0 = 0 then
    (putBit (putBits b.1 47 32 0) 0 (!bit b.1 0), b.2)
  else b

/-- barx: more bytes are expected. -/
def barExpect (b : Word × Word) (v : Nat) : Word × Word := barFlip (b.1, putBits b.2 47 0 ((bits b.2 47 0 + v) % 2 ^ 48))

/-- bartx, or a job's completion of bytes. -/
def barCount (b : Word × Word) (v : Nat) : Word × Word :=
  barFlip (b.1, putBits b.2 47 0 ((bits b.2 47 0 + 2 ^ 48 - v % 2 ^ 48) % 2 ^ 48))

/-- bara on an object whose phase is open. -/
def barArrive (b : Word × Word) : Word × Word := barFlip (putBits b.1 47 32 ((bits b.1 47 32 + 1) % 65536), b.2)

/-- bari. -/
def barInit (b : Word × Word) (v : Nat) : Word × Word :=
  (putBit (putBits (putBits b.1 63 48 v) 47 32 0) 0 false, putBits b.2 47 0 0)

/-- Where a barrier address leads (R275): fatal ALIGN first, then fatal WINDOW outside the cluster's scratch. -/
def barLoc (s : State) (c : Nat) (va : Nat) : Except Fatal Nat :=
  if va % 16 ≠ 0 then .error (fALIGN va)
  else if va < NW then .error (fWINDOW va)
  else
    match nearLoc s c (va - NW) 16 with
    | some (.pool key) => .ok key
    | _ => .error (fWINDOW va)

end Sys2Proof.Machine
end

