-- ==== Sys2Proof/Machine/Fence.lean ====
section
/-! DEFINITION. Sys2Proof/Machine/Fence.lean: pref (R300), probe and unpin (R40 to R43, R301), fences (R302) and drain
(R95, R303). -/

namespace Sys2Proof.Machine

/-! ## Prefetch (R300) -/

/-- Count a dropped speculative access (R44). -/
def specDrop (s : State) (c : Nat) : State :=
  modCore s c fun k => { k with specdrop := BitVec.ofNat 64 (satAdd (2 ^ 64 - 1) k.specdrop.toNat 1) }

/-- Bring one line near, as far as it may be (R44, R54, R62). -/
def prefLine (s : State) (c : Nat) (user dk : Bool) (line : Nat) : State :=
  match coreLoc s c .read user true false line 128 with
  | .error .held => s
  | .error (.data _) => s
  | .error _ => specDrop s c
  | .ok (_, .pool _) => s
  | .ok (_, .dev t leaf) =>
    let n := t.dpa / 128
    let k := core s c
    if leaf.isNone ∨ (t.peer.isNone ∧ lineHeld s n) then s
    else if dk then
      if t.alloc = 2 ∨ t.peer.isSome then s else (sliceRead s .always t.cv n 0 128).1
    else if usesL1 k t ∧ !(k.writes.any fun w => !w.performed && l1Key w.w.tgt == l1Key t) then
      match t.peer with
      | some d =>
        let (s, tag) := peerSend s d (.read (BitVec.ofNat 44 (n * 128)) 128) (.pref c)
        modCore s c fun k => { k with prefs := k.prefs ++ [(tag, lineTarget t)] }
      | none =>
        let (s', d, bad) := sliceRead s (policyOf t) t.cv n 0 128
        if bad then s else l1Fill s' c t d
    else s

/-- A peer's answer to a prefetch: the line fills the L1, unless newer bytes of it have passed there since (R54, R80). -/
def prefAnswer (s : State) (c tag : Nat) (bs : Option (List Byte)) : State :=
  match (core s c).prefs.find? fun e => e.1 == tag with
  | none => s
  | some (_, t) =>
    let s := modCore s c fun k => { k with prefs := k.prefs.filter fun e => e.1 != tag }
    match bs with
    | some bs => stopFill (l1Fill s c t (bytesLine bs)) c (l1Key t)
    | none => s

/-- n lines from the line of an address on. -/
def prefLines (s : State) (c : Nat) (user dk : Bool) (line : Nat) : (n : Nat) → State
  | 0 => s
  | n + 1 => prefLines (prefLine s c user dk (line % 2 ^ 57)) c user dk (line + 128) n

/-- PREF (R300). -/
def execPref (m : Mark) (dk : Bool) (n : BitVec 2) (ea : EA) (g : Guard) (s : State) :
    Host.Outcome State Fault Refusal :=
  issue (.pref m dk n ea g) m 1 (scalarGuard g)
    (fun c r s => do
      checkUse c r s [.g ea.rb, .g ea.ri] .none
      let (s, b) := readG c r s ea.rb
      let (s, i) := readG c r s ea.ri
      let a := effAddr b.val i.val ea.sc ea.off
      done (prefLines s c (!systemMode s c r) dk (a / 128 * 128) (2 ^ n.toNat))) s

/-! ## Probe (R40, R41, R301) -/

/-- What a mode asks of a leaf (R40). -/
def modeWant : AMode → Want
  | .r => .read
  | .w => .write
  | .rw => .both

/-- The mode's code (R41). -/
def modeNum : AMode → Nat
  | .r => 1
  | .w => 2
  | .rw => 3

/-- A leaf permits a mode (R40). -/
def leafPermits (s : State) (leaf : Word) (want : Want) (user : Bool) : Bool :=
  match leafCheck s leaf 0 want user with
  | some (.xlate 2 _) => false
  | some (.xlate 3 _) => false
  | _ => true

/-- What the walk of a probe's range finds. -/
inductive RangeFound where
  /-- The leaf entries and their DPA runs. -/
  | all (l : List (Nat × Word × Nat × Nat))
  /-- The first address of the first page that fails. -/
  | fails (va : Nat)
  /-- An entry waits at its slice (R121). -/
  | held
  /-- An entry lies in an uncorrectable codeword (R73). -/
  | data (va dpa : Nat)
  deriving DecidableEq, Repr

/-- Walk every page of a range afresh (R40 step 2). An address without a leaf lies in a page of 64 KiB, the least size (log
12); of such a page the entry of the first address in the range is judged, since the kernel writes all 16 alike (R34). -/
def walkRange (s : State) (root : Word) (want : Want) (user : Bool) (stop : Nat) :
    (fuel a : Nat) → RangeFound
  | 0, _ => .all []
  | fuel + 1, a =>
    if stop ≤ a then .all []
    else
      match walk s a 7 57 root 0 with
      | .error .held => .held
      | .error (.data p) => .data a p
      | .error _ => .fails (a / 2 ^ 16 * 2 ^ 16)
      | .ok f =>
        if leafPermits s f.leaf want user then
          let next := (a / f.psz + 1) * f.psz
          match walkRange s root want user stop fuel next with
          | .all l => .all ((f.lptr, f.leaf, f.dpa, min next stop - a) :: l)
          | e => e
        else .fails (a / f.psz * f.psz)

/-- Write back and invalidate the L1 lines of the walked pages (R57). -/
def purgeRuns (s : State) (c : Nat) : List (Nat × Word × Nat × Nat) → State
  | [] => s
  | (_, leaf, dpa, n) :: r =>
    let t := leafTarget s leaf dpa
    let hit (l : L1Line) : Bool := l.tgt.peer == t.peer && decide (l.tgt.dpa < dpa + n ∧ dpa < l.tgt.dpa + 128)
    purgeRuns (((core s c).l1.filter fun e => hit e.2).foldl (fun s e => l1Purge s c e.2.tgt) s) c r

/-- Write back and invalidate the L1 lines of every page of a range that translates, when a probe of it is refused (R57). -/
def purgeRange (s : State) (c : Nat) (stop : Nat) : (fuel a : Nat) → State
  | 0, _ => s
  | fuel + 1, a =>
    if stop ≤ a then s
    else
      match walk s a 7 57 (core s c).root 0 with
      | .error _ => purgeRange s c stop fuel ((a / 2 ^ 16 + 1) * 2 ^ 16)
      | .ok f =>
        let next := (a / f.psz + 1) * f.psz
        purgeRange (purgeRuns s c [(f.lptr, f.leaf, f.dpa, min next stop - a)]) c stop fuel next

/-- Set A, and D for a mode that writes, in the leaves of a pinned range (R40). -/
def markLeaves (s : State) (writes : Bool) : List (Nat × Word × Nat × Nat) → State
  | [] => s
  | (lptr, _, _, _) :: r => markLeaves (orEntry s lptr (bitA ||| if writes then bitD else 0)) writes r

/-- Pins of a die (R40). -/
def pinCount (s : State) (d : Nat) : Nat := (s.pins.filter fun p => p.die == d).length

/-- The record of a probe request (R41). `role`: 3 for Collie. CORE of a system core is 960 + die, as R143 numbers it (log
17). -/
def probeRecord (xid : BitVec 16) (c role mode tag va base stop : Nat) : List Word :=
  [ofFields [(48, xid.toNat), (40, 1), (30, c), (28, role), (26, mode), (0, tag % 65536)],
    BitVec.ofNat 64 va, BitVec.ofNat 64 base, BitVec.ofNat 64 stop]

/-- A range as probe and unpin name it (R25, R40). -/
inductive RangeKind where
  | empty | near | bad | walk
  deriving DecidableEq, Repr

def rangeKind (base len : Nat) : RangeKind :=
  if len = 0 then .empty
  else if 2 ^ 57 < base + len then .bad
  else if NW ≤ base then .near
  else if NW < base + len then .bad
  else .walk

/-- A leaf of a range cannot take its A and D bits now (R121, R175). -/
def runsHeld (s : State) (l : List (Nat × Word × Nat × Nat)) : Bool := l.any fun e => entryHeld s e.1

/-- The walk of a probe (R40 steps 2 to 5): completed with a status, or waiting for the kernel. A system core's untranslated
range (R460) has no pages to walk, and is pinned (log 12). -/
def probeWalk (c : Nat) (r : RoleId) (mode : AMode) (s : State) (base len : Nat) : Except Stop (State × Nat) :=
  let d := dieOf c
  let k := core s c
  let w := if untranslated s c then .all [] else
    walkRange s k.root (modeWant mode) (!systemMode s c r) (base + len) (len / 4096 + 2) base
  match w with
  | .held => .error (.wait .other)
  | .data va p => .error (.fatal s (fatalAt 0x44 1 va p))
  | .fails va =>
    if fqCanHold s d then
      let (s, id) := freshId s
      let s := fqPush s d (probeRecord k.xid c r.code.toNat (modeNum mode) id va base (base + len))
      let s := { s with probes := s.probes ++ [{ die := d, tag := id % 65536, who := .role c r, answer := none }] }
      .error (.hold (modRole s c r fun x => { x with block := some (.probe (id % 65536)) }))
    else .error (.wait .other)
  | .all runs =>
    if runsHeld s runs then .error (.wait .other)
    else
    let s := purgeRuns s c runs
    if 4096 ≤ pinCount s d then .ok (s, 0xFF)
    else
      let s := markLeaves s (mode != .r) runs
      .ok ({ s with pins := s.pins ++
        [{ die := d, owner := k.task, base := BitVec.ofNat 57 base, len := len, mode := BitVec.ofNat 2 (modeNum mode) }] }, 0)

/-- PROBE (R40, R301): drained first; a refusal by the kernel comes back as stage 1 + status. -/
def execProbe (m : Mark) (mode : AMode) (rd ra rb : G6) (g : Guard) (s : State) : Host.Outcome State Fault Refusal :=
  issue (.probe m mode rd ra rb g) m 1 (scalarGuard g)
    (fun c r s => do
      checkUse c r s [.g ra, .g rb] (.g rd)
      let pops := fun (s : State) =>
        let (s, b) := readG c r s ra
        let (s, n) := readG c r s rb
        (s, b, n)
      let (_, b, n) := pops s
      let base := b.val.toNat % 2 ^ 57
      let finish := fun (s : State) (v : Nat) => done (writeG c r (pops s).1 rd ⟨BitVec.ofNat 64 v, false⟩)
      if 1 < stage c r s then
        let t := if untranslated s c then s else purgeRange s c (base + n.val.toNat) (n.val.toNat / 4096 + 2) base
        finish t (stage c r s - 1)
      else if !roleDrained s c r ∨ !relSettled s c r then .error (.wait .other)
      else
        match rangeKind base n.val.toNat with
        | .empty => finish s 0
        | .near => finish s 0
        | .bad => finish s 0xFE
        | .walk => do
          let (s, v) ← probeWalk c r mode s base n.val.toNat
          finish s v) s

/-- Remove the newest pin of a context on a range (R301); none when there is none. -/
def unpinRange (s : State) (d : Nat) (owner : Option Nat) (base : VA) (len : Nat) : Option State :=
  let mine (p : Pin) : Bool := p.die == d && p.owner == owner && p.base == base && p.len == len
  let r := s.pins.reverse
  match r.findIdx? mine with
  | none => none
  | some i => some { s with pins := (r.eraseIdx i).reverse }

/-- UNPIN (R301). -/
def execUnpin (m : Mark) (rd ra rb : G6) (g : Guard) (s : State) : Host.Outcome State Fault Refusal :=
  issue (.unpin m rd ra rb g) m 1 (scalarGuard g)
    (fun c r s => do
      checkUse c r s [.g ra, .g rb] (.g rd)
      let (s', b) := readG c r s ra
      let (s', n) := readG c r s' rb
      let base := b.val.toNat % 2 ^ 57
      let len := n.val.toNat
      if !roleDrained s c r ∨ !relSettled s c r then .error (.wait .other)
      else if rangeKind base len = .near then done (writeG c r s' rd ⟨0, false⟩)
      else
        match unpinRange s' (dieOf c) (core s c).task (BitVec.ofNat 57 base) len with
        | some t => done (writeG c r t rd ⟨0, false⟩)
        | none => done (writeG c r s' rd ⟨1, false⟩)) s

/-- The kernel's answer to a probe request (R41): an unknown tag, or a status of 0xFE or 0xFF, is ignored. -/
def probeAnswer (s : State) (d : Nat) (x : Word) : State :=
  let st := bits x 63 56
  let tag := bits x 15 0
  if 0xFE ≤ st then s
  else
    match s.probes.find? fun p => p.die == d && p.tag == tag && p.answer.isNone with
    | none => s
    | some p =>
      match p.who with
      | .role c r =>
        let s := { s with probes := s.probes.filter fun q => q != p }
        if (getRole s c r).block = some (.probe tag) then
          modRole s c r fun x => { x with block := none, mid := if st = 0 then 0 else 1 + st }
        else s
      | .collie _ _ =>
        let g (q : Probe) : Probe := if q = p then { q with answer := some (BitVec.ofNat 8 st) } else q
        { s with probes := s.probes.map g }

/-- PROBEACK_WRITE (R41). -/
def execProbeackWrite (d : Nat) (x : BitVec 64) (s : State) : Host.Outcome State Fault Refusal :=
  if d < 4 then .next (probeAnswer s d x) else .next s

/-! ## Fences (R302) -/

/-- Earlier loads of the role are performed. -/
def loadsDone (s : State) (c : Nat) (r : RoleId) : Bool := (getRole s c r).loads.isEmpty

/-- Begin a release that holds back what the PH column orders (R302). -/
def relBegin (s : State) (c : Nat) (r : RoleId) (x : Scope) : State :=
  let s := beginRelease s c r x
  modRole s c r (boundAt x s.nextId)

/-- PHASE (R302): a release, then an acquire. -/
def execPhase (m : Mark) (x : Scope) (s : State) : Host.Outcome State Fault Refusal :=
  issue (.phase m x) m 1 noGuard
    (fun c r s =>
      if !relReady s c r x then .error (.wait .other)
      else if stage c r s = 0 then .error (.hold (setStage c r (relBegin s c r x) 1))
      else if !relSettled s c r then .error (.wait .other)
      else done (acquire s c x)) s

/-- ACQ (R302). -/
def execAcq (m : Mark) (x : Scope) (s : State) : Host.Outcome State Fault Refusal :=
  issue (.acq m x) m 1 noGuard
    (fun c r s =>
      if !loadsDone s c r ∨ !acqReady s c r x then .error (.wait .other) else done (acquire s c x)) s

/-- REL (R302): the role goes on; what the release holds back waits for it. -/
def execRel (m : Mark) (x : Scope) (s : State) : Host.Outcome State Fault Refusal :=
  issue (.rel m x) m 1 noGuard
    (fun c r s => if !relReady s c r x then .error (.wait .other) else done (relBegin s c r x)) s

/-! ## Drain (R95, R303) -/

/-- Words placed so far in a command ring. -/
def matrixPlaced (k : Core) : Nat := k.matrix.taken + (desc k 14).filled

def copyPlaced (k : Core) : Nat := k.copy.taken + (desc k 15).filled

/-- Every matrix command placed before a mark has retired. -/
def matrixPassed (k : Core) : Option Nat → Bool
  | none => true
  | some n => decide (n ≤ k.matrix.taken) &&
      !(k.matrix.prep.any fun p => decide (p.sq < n)) && !(k.matrix.array.any fun p => decide (p.cmd.sq < n)) &&
      !(k.matrix.drain.any fun p => decide (p.sq < n)) && !(k.matrix.done.any fun p => decide (p.sq < n))

/-- Every copy command placed before a mark has retired. -/
def copyPassed (k : Core) : Option Nat → Bool
  | none => true
  | some n => decide (n ≤ k.copy.taken) &&
      !(k.copy.adm.any fun p => decide (p.sq < n)) && !(k.copy.jobs.any fun p => decide (p.sq < n))

/-- DRAIN (R95): markers are placed and the role's release begins; DRAIN_COMPLETE lets the role go on. -/
def execDrain (m : Mark) (sys : Bool) (mask : BitVec 2) (s : State) : Host.Outcome State Fault Refusal :=
  issue (.drain m sys mask) m 1 noGuard
    (fun c r s =>
      if stage c r s ≠ 0 then done s
      else if !relReady s c r (if sys then .sys else .dev) then .error (.wait .other)
      else
        let k := core s c
        let mm := if bit mask 0 then some (matrixPlaced k) else none
        let cm := if bit mask 1 then some (copyPlaced k) else none
        let s := relBegin s c r (if sys then .sys else .dev)
        .error (.hold (modRole s c r fun x => { x with block := some (.drain sys mm cm none) }))) s

/-- A request of a copy job that writes (R95, R293). -/
def jobWrites (c : Nat) (p : PeerOut) : Bool :=
  match p.who, p.op with
  | .job _ _ _, .read _ _ => false
  | .job c' _ _, _ => c' == c
  | _, _ => false

/-- A write that the core has issued, numbered below the bound, awaits acknowledgement: one of its roles, or of its copy
jobs, a contribution among them (R95, R293). -/
def coreUnacked (s : State) (c bound : Nat) : Bool :=
  ((core s c).writes.any fun w => decide (w.id < bound)) ||
    (s.peerOut.any fun p => jobWrites c p && decide (p.tag < bound)) ||
    s.contribs.any fun x => match x.x.src with
      | .job c' _ => c' == c && decide (x.no < bound)
      | .peer _ _ => false

/-- DRAIN_COMPLETE (R95): once every marker has retired, the writes then issued are waited for. -/
def execDrainComplete (c : Nat) (r : RoleId) (s : State) : Host.Outcome State Fault Refusal :=
  if !roleExists s c r then .next s
  else
    .next (match (getRole s c r).block with
      | some (.drain sys mm cm wm) =>
        let k := core s c
        if !(matrixPassed k mm && copyPassed k cm) then s
        else
          let bound := wm.getD s.nextId
          if coreUnacked s c bound then
            modRole s c r fun x => { x with block := some (.drain sys mm cm (some bound)) }
          else modRole s c r fun x => { x with block := none, mid := 1 }
      | _ => s)

end Sys2Proof.Machine
end

