-- ==== Sys2Proof/Machine/Snap.lean ====
section
/-! DEFINITION. Sys2Proof/Machine/Snap.lean: snapshot instructions (R146 to R148, R164 to R167) and the Deck walker
(R156, R159). The line-level rules stand in Slice.lean. -/

namespace Sys2Proof.Machine

/-! ## Contexts -/

/-- A snapshot context; an unlisted one is free. -/
def snCtx (s : State) (c : Nat) : SnCtx := tabD s.snap c ⟨0, []⟩

def snDepth (s : State) (c : Nat) : Nat := (snCtx s c).levels.length

/-- TVAL of SNAPCONF (R167). -/
def snapTval (reason ctx : Nat) : Word := ofFields [(4, reason), (0, ctx)]

def snapTrap {α : Type} (reason ctx : Nat) : Except Stop α := .error (.trap tSNAPCONF (snapTval reason ctx))

/-- Another XID owns the context (R164). -/
def notOwner (s : State) (core_ c : Nat) : Bool :=
  decide (snDepth s c ≠ 0) && (snCtx s c).owner != (core s core_).xid && !isSystem core_

/-! ## The range walk (R148, R164) -/

/-- A page of a range: leaf entry's address, leaf, DPA, bytes. -/
abbrev PageRun := Option Nat × Word × Nat × Nat

/-- Walk every page of a range as a write would; no bit is set. The error carries the failing address. -/
def writeWalk (s : State) (u : XUnit) (user : Bool) (stop : Nat) :
    (fuel a : Nat) → Except (Nat × XErr) (List (PageRun × Target))
  | 0, _ => .ok []
  | fuel + 1, a =>
    if stop ≤ a then .ok []
    else
      match lookup s u a with
      | .error e => .error (a, e)
      | .ok f =>
        match leafCheck s f.leaf f.dpa .write user with
        | some e => .error (a, e)
        | none =>
          let next := min stop ((a / f.psz + 1) * f.psz)
          match writeWalk s u user stop fuel next with
          | .error e => .error e
          | .ok l => .ok (((some f.lptr, f.leaf, f.dpa, next - a), leafTarget s f.leaf f.dpa) :: l)

/-- The first DPA of a run that has no memory behind it (R31). -/
def firstGap (s : State) (d n : Nat) : Option Nat :=
  if d + n ≤ 2 ^ 40 then none
  else
    let gap (k : Nat) : Option Nat :=
      let lo := 2 ^ 40 + k * 2 ^ 30
      let a := max d (lo + carveLimit s k)
      if a < lo + 2 ^ 30 ∧ a < d + n then some a else none
    match [gap 0, gap 1, gap 2, gap 3].findSome? id with
    | some a => some a
    | none => if 2 ^ 40 + 4 * 2 ^ 30 < d + n then some (max d (2 ^ 40 + 4 * 2 ^ 30)) else none

/-- Some granule of a run of DPAs is registered with an attribute (R68). -/
def runAttr (s : State) (p : Word → Bool) (d n : Nat) : Bool :=
  (List.range ((d % 2 ^ 16 + n + 2 ^ 16 - 1) / 2 ^ 16)).any fun i => p (metaOf s ((d / 2 ^ 16 + i) * 2 ^ 16))

/-- The pages of a range as core c sees it. An untranslated range (R460) has no leaves: it is one page with the attributes
that its granules are registered with (log 12). -/
def rangeWalk (s : State) (c : Nat) (user : Bool) (b n : Nat) : Except (Nat × XErr) (List (PageRun × Target)) :=
  if untranslated s c then
    let d := b % 2 ^ 44
    match firstGap s d n with
    | some a => .error (b + (a - d), .xlate 5 a)
    | none => .ok [((none, 0, d, n), { plainTarget d with cmp := runAttr s metaCmp d n, ver := runAttr s metaVer d n })]
  else writeWalk s (coreUnit (core s c)) user (b + n) (n / 4096 + 1) b

/-- The pages follow each other from a DPA on, all local. -/
def contiguous : Nat → List (PageRun × Target) → Bool
  | _, [] => true
  | d, ((_, _, dpa, n), t) :: r => t.peer.isNone && dpa == d && contiguous (d + n) r

/-- A DPA run overlaps an open level of another context (R148). -/
def overlapsOther (s : State) (d n c : Nat) : Bool :=
  s.snap.any fun e => e.1 != c && e.2.levels.any fun l => decide (l.dpa < d + n ∧ d < l.dpa + l.len)

/-- What snopen opens. -/
structure SnPlan where
  ctx   : Nat
  depth : Nat
  level : SnLevel
  pages : List PageRun
  deriving DecidableEq, Repr

/-- The checks of snopen (R164), in order. -/
def snopenCheck (s : State) (c : Nat) (user : Bool) (b n ctx : Nat) : Except Stop SnPlan :=
  if 15 < ctx then snapTrap 6 0
  else if b % 4096 ≠ 0 ∨ n % 4096 ≠ 0 ∨ n = 0 ∨ 2 ^ 36 < n ∨ NW < b + n then snapTrap 1 ctx
  else
    let x := snCtx s ctx
    let k := x.levels.length
    if notOwner s c ctx then snapTrap 7 ctx
    else if k = 4 then snapTrap 5 ctx
    else if !(match x.levels.getLast? with
        | none => true
        | some l => decide (l.base ≤ b ∧ b + n ≤ l.base + l.len)) then snapTrap 2 ctx
    else
      match rangeWalk s c user b n with
      | .error (va, e) => .error (xStop s va e)
      | .ok ps =>
        let d := match ps with
          | p :: _ => p.1.2.2.1
          | [] => 0
        if !contiguous d ps then snapTrap 4 ctx
        else if ps.any fun p => p.2.cmp then snapTrap 3 ctx
        else if overlapsOther s d n ctx then snapTrap 9 ctx
        else .ok ⟨ctx, k, ⟨b, n, d, ps.any fun p => p.2.ver⟩, ps.map (·.1)⟩

/-! ## The cores' L1s (R163) -/

/-- A target's line lies in a DPA run of this device. -/
def inRun (d n : Nat) (t : Target) : Bool := t.peer.isNone && decide (t.dpa < d + n ∧ d < t.dpa + 128)

/-- Every core writes back and invalidates its lines of a DPA run. -/
def purgeRun (s : State) (d n : Nat) : State :=
  s.cores.foldl (fun s e => (e.2.l1.filter fun l => inRun d n l.2.tgt).foldl (fun s l => l1Purge s e.1 l.2.tgt) s) s

/-- A write-back of a line of the run is still to be performed. -/
def runDirty (s : State) (d n : Nat) : Bool :=
  s.cores.any fun e => e.2.writes.any fun w => !w.performed && w.site == noSite && inRun d n w.w.tgt

/-- Entries of an earlier use of a level, or ones that would be relabelled to it, are pending (R157). -/
def levelPending (s : State) (c l : Nat) : Bool :=
  s.shadows.any fun x => s.marks.any fun m => m.ctx == c && (m.lvl == l || m.lvl == l + 1) && marked m x

/-- Set A and D in the leaves of the range (R39, R164). -/
def dirtyPages (s : State) : List PageRun → State
  | [] => s
  | (some l, _, _, _) :: r => dirtyPages (orEntry s l (bitA ||| bitD)) r
  | (none, _, _, _) :: r => dirtyPages s r

/-- A leaf of the range cannot take its A and D bits now (R121, R175). -/
def pagesHeld (s : State) (l : List PageRun) : Bool := l.any fun p => (p.1.map (entryHeld s)).getD false

/-- Another snapshot instruction is still to complete: one acts at a time (log 25). -/
def snapBusy (s : State) (c : Nat) (r : RoleId) : Bool :=
  match s.snFlight with
  | some f => f.orphan || f.core != c || f.role != r
  | none => false

/-- Open the level. -/
def activate (s : State) (xid : BitVec 16) (ctx : Nat) (v : SnLevel) : State :=
  let x := snCtx s ctx
  let own := if x.levels.isEmpty then xid else x.owner
  { s with snap := tabSet s.snap ctx ⟨own, x.levels ++ [v]⟩ }

/-- Mark the innermost level at every slice and close it. -/
def endLevel (s : State) (ctx : Nat) (rej : Bool) : State :=
  let x := snCtx s ctx
  let k := x.levels.length
  let m : SnMark := { num := s.markNo + 1, ctx := ctx, lvl := k, rej := rej }
  { s with
    marks := s.marks ++ [m]
    markNo := s.markNo + 1
    snap := if k ≤ 1 then tabDel s.snap ctx else tabSet s.snap ctx { x with levels := x.levels.take (k - 1) } }

/-- Begin what a checked snapshot instruction does: its release, and for an opening the L1s' write-backs. -/
def startSnap (s : State) (c : Nat) (r : RoleId) (a : SnAct) : State :=
  let s := relBegin s c r .dev
  let s := match a with
    | .opening _ v => purgeRun s v.dpa v.len
    | .ending _ _ => s
  setStage c r { s with snFlight := some ⟨c, r, (core s c).xid, s.nextId, a, false⟩ } 1

/-- Complete it once its release has, and, for an opening, once no slice holds an older use of the level (R157). Each turn of
an opening writes back and invalidates what the L1s have taken of the range since (R163). -/
def advanceSnap (s : State) (f : SnFlight) : State × Bool :=
  let settled := !unacked (core s f.core) f.role .dev f.bound
  match f.act with
  | .opening ctx v =>
    let t := purgeRun s v.dpa v.len
    if !settled ∨ runDirty t v.dpa v.len ∨ levelPending t ctx (snDepth t ctx + 1) then (t, false)
    else (activate { t with snFlight := none } f.xid ctx v, true)
  | .ending ctx rej => if settled then (endLevel { s with snFlight := none } ctx rej, true) else (s, false)

/-- The snapshot instruction that the role has in progress. -/
def ownFlight (s : State) (c : Nat) (r : RoleId) : Option SnFlight :=
  if snapBusy s c r then none else s.snFlight

/-- SNOPEN (R164): the checks come once, before anything has changed (R167); then the release begins, the L1s write back, and
the level becomes active once both are done. -/
def execSnopen (m : Mark) (rd ra rb rc : G6) (s : State) : Host.Outcome State Fault Refusal :=
  issue (.snopen m rd ra rb rc) m 1 noGuard
    (fun c r s => do
      checkUse c r s [.g ra, .g rb, .g rc] (.g rd)
      let (s', b) := readG c r s ra
      let (s', n) := readG c r s' rb
      let (s', x) := readG c r s' rc
      if stage c r s = 0 then
        if snapBusy s c r then .error (.wait .other)
        else do
          let p ← snopenCheck s c (userRole s c r) (b.val.toNat % 2 ^ 57) n.val.toNat x.val.toNat
          if !relReady s c r .dev ∨ pagesHeld s p.pages then .error (.wait .other)
          else .error (.hold (startSnap (dirtyPages s p.pages) c r (.opening p.ctx p.level)))
      else
        match ownFlight s c r with
        | none => .error (.wait .other)
        | some f =>
          match advanceSnap s' f with
          | (_, false) => .error (.hold (advanceSnap s f).1)
          | (t, true) =>
            let token := 4 * x.val.toNat + (snDepth t x.val.toNat - 1)
            done (writeG c r (acquire t c .dev) rd ⟨BitVec.ofNat 64 token, false⟩)) s

/-! ## Ending a level (R156, R165) -/

/-- The checks of snacc and snrej. -/
def snEndCheck (s : State) (c : Nat) (t : Word) : Except Stop Nat :=
  let ctx := bits t 5 2
  if bits t 63 6 ≠ 0 then snapTrap 8 ctx
  else if notOwner s c ctx then snapTrap 7 ctx
  else if snDepth s ctx ≠ bits t 1 0 + 1 then snapTrap 8 ctx
  else .ok ctx

/-- snacc and snrej: a release, the mark, an acquire. -/
def snEnd (rej : Bool) (ra : G6) : Body := fun c r s => do
  checkUse c r s [.g ra] .none
  let (s', t) := readG c r s ra
  if stage c r s = 0 then
    if snapBusy s c r then .error (.wait .other)
    else do
      let ctx ← snEndCheck s c t.val
      if !relReady s c r .dev then .error (.wait .other)
      else .error (.hold (startSnap s c r (.ending ctx rej)))
  else
    match ownFlight s c r with
    | none => .error (.wait .other)
    | some f =>
      match advanceSnap s' f with
      | (_, false) => .error (.wait .other)
      | (t, true) => done (acquire t c .dev)

/-- SNACC (R165). -/
def execSnacc (m : Mark) (ra : G6) (s : State) : Host.Outcome State Fault Refusal :=
  issue (.snacc m ra) m 1 noGuard (snEnd false ra) s

/-- SNREJ (R165). -/
def execSnrej (m : Mark) (ra : G6) (s : State) : Host.Outcome State Fault Refusal :=
  issue (.snrej m ra) m 1 noGuard (snEnd true ra) s

/-- Shadows of a context's open levels, device-wide. -/
def ctxShadows (s : State) (c : Nat) : Nat :=
  ((openShadows s).filter fun x => x.ctx == c).length

/-- The result of snq (R166). -/
def snqWord (s : State) (c : Nat) : Word :=
  let x := snCtx s c
  ofFields [(32, ctxShadows s c % 2 ^ 24), (16, if x.levels.isEmpty then 0 else x.owner.toNat),
    (3, (x.levels.any (·.ver)).toNat), (0, x.levels.length)]

/-- SNQ (R166). -/
def execSnq (m : Mark) (rd ra : G6) (s : State) : Host.Outcome State Fault Refusal :=
  issue (.snq m rd ra) m 1 noGuard
    (fun c r s => do
      checkUse c r s [.g ra] (.g rd)
      let (s', x) := readG c r s ra
      if 15 < x.val.toNat then snapTrap 6 0
      else done (writeG c r s' rd ⟨snqWord s x.val.toNat, false⟩)) s

/-! ## The Deck walker (R156, R159) -/

/-- The walker has something to do with a shadow: its tag names an aborted generation, or a mark applies to it and its
line does not wait for a decision. -/
def walkerWork (s : State) (d : Nat) (x : Shadow) : Bool :=
  homeDie (128 * x.line) == d &&
    (deadShadow s x || ((s.marks.any fun m => marked m x) && !(lineVer s x.line && s.ks.state == .voted)))

/-- Marks that no entry is left for go, oldest first. -/
def cleanMarks (s : State) : List SnMark → List SnMark
  | [] => []
  | m :: r => if s.shadows.any fun x => marked m x then m :: r else cleanMarks s r

/-- The oldest mark that still applies to a shadow of a line (R157). -/
def oldestMark (s : State) (line : Nat) : Option SnMark :=
  s.marks.find? fun m => s.shadows.any fun x => x.line == line && marked m x

/-- One directory entry: a dead shadow goes; else the line's oldest mark is applied. -/
def walkEntry (s : State) (x : Shadow) : State :=
  if deadShadow s x then { s with shadows := s.shadows.filter fun y => y != x }
  else
    match oldestMark s x.line with
    | none => s
    | some m => applyMark s x.line m

/-- A snapshot instruction whose context has gone completes at the slices (R168, R444). -/
def finishOrphan (s : State) : State :=
  match s.snFlight with
  | some f => if f.orphan then (advanceSnap s f).1 else s
  | none => s

/-- DECK_WALKER_ENTRY (R156): one directory entry of a die's slices. -/
def execDeckWalkerEntry (d : Nat) (s : State) : Host.Outcome State Fault Refusal :=
  if 4 ≤ d then .next s
  else
    let s := finishOrphan s
    let s := match s.shadows.find? fun x => walkerWork s d x with
      | none => s
      | some x => walkEntry s x
    .next { s with marks := cleanMarks s s.marks }

end Sys2Proof.Machine
end

