-- ==== Sys2Proof/Machine/Keystone.lean ====
section
/-! DEFINITION. Sys2Proof/Machine/Keystone.lean: the commit tree (R177, R178, R181 to R187): Keystone's registers, its
state machine, its messages, version repair, and the step-state page's split weights (R194). -/

namespace Sys2Proof.Machine

/-! ## Registers (R173, R181 to R183) -/

def ksRoot (k : Keystone) : Bool := bit k.cfg 63

def ksParent (k : Keystone) : Nat := bits k.cfg 59 56

/-- Child j is present. -/
def ksChild (k : Keystone) (j : Nat) : Bool := bit k.cfg (52 + j)

def ksChildPort (k : Keystone) (j : Nat) : Nat := bits k.cfg (39 + 4 * j) (36 + 4 * j)

/-- Present children. -/
def ksChildren (k : Keystone) : List Nat := [0, 1, 2, 3].filter (ksChild k)

def ksVcnt (k : Keystone) : Nat := bits k.cfg 11 0

def ksTimeout (k : Keystone) : Nat := bits k.cfg 31 16

/-- A mask of children. -/
def childMask (l : List Nat) : BitVec 4 := l.foldl (fun m j => m ||| BitVec.ofNat 4 (2 ^ j)) 0

def ksStateNum : KsState → Nat
  | .idle => 0
  | .open_ => 1
  | .voted => 2
  | .held => 3

/-- KSSTAT as read (R182). -/
def ksstatWord (k : Keystone) : Word :=
  ofFields [(62, ksStateNum k.state), (61, k.err.toNat), (60, k.proto.toNat), (59, k.stopreq.toNat),
    (54, k.miss.toNat), (50, k.dackw.toNat), (42, k.lflags.toNat), (34, k.nflags.toNat), (12, k.votes.toNat),
    (0, k.late.toNat)]

/-- A Keystone register as mfsr reads it; KSCTL reads 0. -/
def ksRead (k : Keystone) (n : Nat) : Word :=
  if n = 0x104 then k.geno.zeroExtend 64
  else if n = 0x105 then k.genc.zeroExtend 64
  else if n = 0x110 then k.cfg
  else if n = 0x111 then ksstatWord k
  else if n = 0x113 then k.lastdec
  else if inBlock n 0x108 8 then
    match tabGet k.abw (n - 0x108) with
    | some g => ofFields [(63, 1), (0, g.toNat)]
    | none => 0
  else 0

/-- A snapshot level over VER pages is open (R159). -/
def snapFlag (s : State) : BitVec 8 := if s.snap.any fun e => e.2.levels.any (·.ver) then 0x20 else 0

/-- LASTDEC of a decision. -/
def decisionWord (gn : BitVec 48) (fl : BitVec 8) (done commit : Bool) : Word :=
  ofFields [(16, gn.toNat), (8, fl.toNat), (2, done.toNat), (0, commit.toNat)]

/-- LASTDEC.DONE := 1. -/
def lastDone (k : Keystone) : Keystone := { k with lastdec := putBit k.lastdec 2 true }

/-- Count a vote or message that came too late. -/
def ksLate (k : Keystone) : Keystone := { k with late := BitVec.ofNat 12 (satAdd 0xFFF k.late.toNat 1) }

/-- Discard a message with PROTO. -/
def ksProto (k : Keystone) : Keystone := { k with proto := true }

/-- Messages at the device's ports, which send them as they can. -/
def toPorts (k : Keystone) (l : List TreeMsg) : Keystone := { k with held := k.held ++ l }

/-- A message to every present child. -/
def toChildren (k : Keystone) (f : Nat → TreeMsg) : Keystone := toPorts k ((ksChildren k).map fun j => f (ksChildPort k j))

/-- The port of a tree message. -/
def treePort : TreeMsg → Nat
  | .vote p _ _ _ => p
  | .decide p _ _ _ _ => p
  | .dack p _ _ => p
  | .opened p _ => p

/-- Each message leaves once its port is UP (R436). -/
def sendTree (s : State) : State :=
  let up (m : TreeMsg) : Bool := portUp s (treePort m)
  { s with ks := { s.ks with out := s.ks.out ++ s.ks.held.filter up, held := s.ks.held.filter fun m => !up m } }

/-- Keystone's next state; what it sends goes to its ports. -/
def setKs (s : State) (k : Keystone) : State := sendTree { s with ks := k }

/-! ## Decisions (R177, R184) -/

/-- The first free entry of the abort window. -/
def abwFree (k : Keystone) : Option Nat := (List.range 8).find? fun i => (tabGet k.abw i).isNone

/-- An abort of GEN.O enters the abort window. -/
def abwPush (k : Keystone) : Keystone :=
  match abwFree k with
  | none => k
  | some i => { k with abw := tabSet k.abw i k.geno, repaired := tabSet k.repaired i [] }

/-- The decision's NEXT opens the next generation, or closes the tree. -/
def nextGen (k : Keystone) (next : BitVec 48) : Keystone :=
  if next = 0 then { k with state := .idle, next := next }
  else
    { k with
      state := .held
      next := next
      geno := next
      votes := 0
      childVotes := []
      lflags := k.nflags
      nflags := 0 }

/-- Take a decision in VOTED, received or the root's own: apply, record, owe a DACK, forward. -/
def applyDecision (k : Keystone) (commit : Bool) (gn next : BitVec 48) (fl : BitVec 8) : Keystone :=
  let k := if commit then { k with genc := k.geno } else abwPush k
  let k :=
    { k with
      lastdec := decisionWord gn fl false commit
      owed := true
      timer := false
      dackw := childMask (ksChildren k) }
  let k := toChildren k fun p => .decide p (if commit then .commit else .abort) gn next fl
  nextGen k next

/-- Take DECIDE START in IDLE. -/
def applyStart (k : Keystone) (next : BitVec 48) : Keystone :=
  let k :=
    { k with
      state := .held
      geno := next
      next := next
      votes := 0
      childVotes := []
      lflags := 0
      lastdec := 0
      left := false
      owed := true
      dackw := childMask (ksChildren k) }
  toChildren k fun p => .decide p .start 0 next 0

/-- Take OPEN in HELD. -/
def applyOpen (k : Keystone) : Keystone := { lastDone k with state := .open_, timer := true }

/-! ## Register writes -/

/-- The RW bits of KSCFG. -/
def kscfgMask : Word := ofFields [(63, 1), (36, 0xFFFFFF), (16, 0xFFFF), (0, 0xFFF)]

/-- A port number or count that KSCFG refuses. -/
def kscfgBad (x : Word) : Bool :=
  decide (2880 < bits x 11 0) || (!bit x 63 && decide (11 < bits x 59 56)) ||
    [0, 1, 2, 3].any fun j => bit x (52 + j) && decide (11 < bits x (39 + 4 * j) (36 + 4 * j))

/-- The write changes nothing outside the masked bits and sets no CHV bit. -/
def onlyClears (old x free : Word) : Bool :=
  let chv : Word := ofFields [(52, 0xF)]
  ((old ^^^ x) &&& ~~~(chv ||| free)) == 0 && (x &&& ~~~old &&& chv) == 0

/-- A write to KSCFG (R181). -/
def kscfgWriteKs (k : Keystone) (x : Word) : Keystone :=
  let x := x &&& kscfgMask
  let ok : Bool := !kscfgBad x && match k.state with
    | .idle => true
    | .held => onlyClears k.cfg x (ofFields [(0, 0xFFF)])
    | _ => onlyClears k.cfg x 0
  if ok then { k with cfg := x, dackw := k.dackw &&& BitVec.ofNat 4 (bits x 55 52) } else { k with err := true }

/-- KSCFG_WRITE (R181). -/
def execKscfgWrite (x : BitVec 64) (s : State) : Host.Outcome State Fault Refusal :=
  .next (setKs s (kscfgWriteKs s.ks x))

/-- START (R182). -/
def startKs (k : Keystone) (x : Word) : Keystone :=
  let g := bits x 47 0
  if ksRoot k ∧ k.state = .idle ∧ k.geno.toNat < g ∧ k.genc.toNat < g ∧ (k.abw.all fun e => decide (e.2.toNat < g)) then
    applyStart k (BitVec.ofNat 48 g)
  else { k with err := true }

/-- START (R182): KSCTL written with OP 01b. -/
def execStart (x : BitVec 64) (s : State) : Host.Outcome State Fault Refusal := .next (setKs s (startKs s.ks x))

/-- STOP (R182). -/
def stopKs (k : Keystone) : Keystone :=
  if ksRoot k ∧ k.state ≠ .idle then { k with stopreq := true } else { k with err := true }

/-- STOP (R182): KSCTL written with OP 10b. -/
def execStop (s : State) : Host.Outcome State Fault Refusal := .next (setKs s (stopKs s.ks))

/-- LOCALABORT (R182): the flags that LASTDEC keeps are those of the vote formed, or those gathered so far. -/
def localAbortKs (k : Keystone) (snap : BitVec 8) : Keystone :=
  if k.state = .idle ∨ (abwFree k).isNone then { k with err := true }
  else
    let fl := if k.state = .voted then k.voteFlags else k.lflags ||| snap
    { abwPush k with
      state := .idle, lastdec := decisionWord k.geno fl true false, left := true, owed := false, dackw := 0, timer := false }

/-- LOCALABORT (R182): KSCTL written with OP 11b. -/
def execLocalAbort (s : State) : Host.Outcome State Fault Refusal :=
  .next (setKs s (localAbortKs s.ks (snapFlag s)))

/-- A write to KSCTL (R182). -/
def ksctlWrite (s : State) (x : Word) : State :=
  match bits x 63 62 with
  | 0 => s
  | 1 => setKs s (startKs s.ks x)
  | 2 => setKs s (stopKs s.ks)
  | _ => setKs s (localAbortKs s.ks (snapFlag s))

/-! ## Forming the vote (R185, R186) -/

/-- A target whose page may be VER: of this device, as its leaf or its block says; of a peer, always, since only the peer knows
(R38; log 27). -/
def maybeVer (s : State) (t : Target) : Bool := t.ver || t.peer.isSome || lineVer s (t.dpa / 128)

/-- A request to a peer that may change its memory. -/
def peerWrites : PeerOp → Bool
  | .read _ _ => false
  | _ => true

/-- A write of a local unit to what may be a VER page of this device or a peer, or a peer's contribution to one of this device,
awaits acknowledgement (R185). -/
def verPending (s : State) : Bool :=
  (s.cores.any fun e =>
    (e.2.writes.any fun w => w.place != .bank && maybeVer s w.w.tgt) ||
      allRoles.any fun r =>
        match (e.2.role r).block with
        | some (.atomic a) => maybeVer s a.tgt && a.reply.isNone
        | _ => false) ||
    (s.contribs.any fun x => maybeVer s x.tgt) || s.peerOut.any fun p => peerWrites p.op

/-- The step-state page may be used (R193). -/
def sspBase (s : State) : Nat := bits (reg s rSspbase) 43 12 * 4096

def sspOn (s : State) : Bool := bit (reg s rSspbase) 0

def sspGood (s : State) : Bool :=
  let ok (a : Nat) : Bool := metaVer (metaOf s a) && !metaCmp (metaOf s a)
  decide (sspBase s < 2 ^ 40) && ok (sspBase s) && ok (sspBase s + 2048)

/-- Write bytes of the step-state page as a local unit. A write that needs a shadow its slice has no room for is dropped, with
SHSTAT.FULL set, and a register operation on the page's granule does not hold the write back (log 27). -/
def sspWrite (s : State) (off : Nat) (bs : List Byte) : State :=
  let a := sspBase s + off
  match sliceWrite s .loc .second false (a / 128) (byteMask (a % 128) bs.length) (bytesAt (a % 128) bs) with
  | .done s => s
  | .full s _ => s
  | _ => s

/-- RATE of a port (R425, R433). -/
def portRate (s : State) (p : Nat) : Nat := bits (reg s (rPortstat p)) 15 0

/-- Keystone writes the measured split into the page (R194, R433). -/
def writeSplit (s : State) : State :=
  if sspOn s && sspGood s then
    (List.range 12).foldl (fun s p =>
      sspWrite s (0x860 + 8 * p)
        (([0, 1, 2, 3] : List Nat).flatMap fun k => leBytes 2 (portRate s ((p + 3 * k) % 12)))) s
  else s

/-- A child has voted. -/
def childVoted (k : Keystone) (j : Nat) : Bool := (tabGet k.childVotes j).isSome

/-- Form the vote (R185): flags, MISS, then VOTE to the parent, or the root's decision (R186). -/
def formVote (s : State) (timeout : Bool) : State :=
  let s := writeSplit s
  let k := s.ks
  let fl := k.childVotes.foldl (fun f e => f ||| e.2) (k.lflags ||| snapFlag s ||| (if timeout then 0x40 else 0))
  let k :=
    { k with
      state := .voted
      voteFlags := fl
      timer := false
      miss := childMask ((ksChildren k).filter fun j => !childVoted k j) }
  let k :=
    if ksRoot k then
      let n := k.geno.toNat + 1
      let next : BitVec 48 := if k.stopreq ∨ n = 2 ^ 48 then 0 else BitVec.ofNat 48 n
      applyDecision { k with stopreq := false } (fl == 0) k.geno next fl
    else toPorts k [.vote (ksParent k) k.geno fl (BitVec.ofNat 12 (devid s))]
  setKs s k

/-- VOTE_FORMED (R185). -/
def execVoteFormed (s : State) : Host.Outcome State Fault Refusal :=
  let k := s.ks
  .next (if k.state = .open_ ∧ k.votes.toNat = ksVcnt k ∧ ((ksChildren k).all (childVoted k)) ∧ !verPending s then
    formVote s false
  else s)

/-- VOTE_TIMEOUT (R185): the timer started at OPEN reaches TIMEOUT. -/
def execVoteTimeout (s : State) : Host.Outcome State Fault Refusal :=
  .next (if s.ks.state = .open_ ∧ s.ks.timer ∧ ksTimeout s.ks ≠ 0 then formVote s true else s)

/-! ## Tree messages (R184, R187) -/

/-- The present child whose port a message came in at. -/
def childAt (k : Keystone) (p : Nat) : Option Nat := (ksChildren k).find? fun j => ksChildPort k j == p

/-- A VOTE arrives. In IDLE its node has formed its vote, unless the step was abandoned (R182) or none was open. -/
def takeVote (k : Keystone) (p : Nat) (gn : BitVec 48) (fl : BitVec 8) : Keystone :=
  match childAt k p with
  | none => ksProto k
  | some j =>
    if gn ≠ k.geno then ksLate k
    else
      match k.state with
      | .open_ => if childVoted k j then ksLate k else { k with childVotes := tabSet k.childVotes j fl }
      | .voted => ksLate k
      | .idle => if k.left ∨ k.geno = 0 then ksProto k else ksLate k
      | .held => ksProto k

/-- A tree message takes effect at a port that is UP (R436). -/
def onTree (s : State) (port : Nat) (f : Keystone → Keystone) : Host.Outcome State Fault Refusal :=
  if port < 12 ∧ portUp s port then .next (setKs s (f s.ks)) else .next s

/-- VOTE_MESSAGE (R187). -/
def execVoteMessage (port : Nat) (gn : BitVec 48) (flags : BitVec 8) (_devid : BitVec 12) (s : State) :
    Host.Outcome State Fault Refusal :=
  onTree s port fun k => takeVote k port gn flags

/-- A message from the parent arrives at the port that PARENT names. -/
def fromParent (k : Keystone) (p : Nat) : Bool := !ksRoot k && ksParent k == p

/-- A DECIDE arrives. -/
def takeDecide (k : Keystone) (p : Nat) (out : TreeOut) (gn next : BitVec 48) (fl : BitVec 8) : Keystone :=
  if !fromParent k p then ksProto k
  else
    match k.state, out with
    | .idle, .start => applyStart k next
    | .voted, .commit => applyDecision k true gn next fl
    | .voted, .abort => applyDecision k false gn next fl
    | _, _ => ksProto k

/-- DECIDE (R184). -/
def execDecideMessage (port : Nat) (out : TreeOut) (gn next : BitVec 48) (flags : BitVec 8) (s : State) :
    Host.Outcome State Fault Refusal :=
  onTree s port fun k => takeDecide k port out gn next flags

/-- A DACK arrives. -/
def takeDack (k : Keystone) (p : Nat) (next : BitVec 48) : Keystone :=
  match childAt k p with
  | none => ksProto k
  | some j =>
    if bit k.dackw j ∧ next = k.next then { k with dackw := k.dackw &&& ~~~BitVec.ofNat 4 (2 ^ j) } else ksProto k

/-- DACK (R187). -/
def execDack (port : Nat) (next : BitVec 48) (_devid : BitVec 12) (s : State) : Host.Outcome State Fault Refusal :=
  onTree s port fun k => takeDack k port next

/-- The DACK conditions are met (R187). -/
def dackReady (k : Keystone) : Bool :=
  k.owed && (k.state == .held || k.state == .idle) && k.dackw == 0 && (k.next == 0 || decide (k.abw.length ≤ 7))

/-- A non-root sends DACK; a root sends OPEN and takes it itself (R184). -/
def sendDack (k : Keystone) (dev : BitVec 12) : Keystone :=
  if ksRoot k then
    let k := toChildren { k with owed := false } fun p => .opened p k.next
    if k.state = .held then applyOpen k else lastDone k
  else toPorts { k with owed := false } [.dack (ksParent k) k.next dev]

/-- DACK_SEND (R187). -/
def execDackSend (s : State) : Host.Outcome State Fault Refusal :=
  .next (if dackReady s.ks then setKs s (sendDack s.ks (BitVec.ofNat 12 (devid s))) else s)

/-- An OPEN arrives. -/
def takeOpen (k : Keystone) (p : Nat) (next : BitVec 48) : Keystone :=
  if !fromParent k p then ksProto k
  else
    let fwd := toChildren k fun p => .opened p next
    match k.state with
    | .held => applyOpen fwd
    | .idle => if next = 0 then lastDone fwd else ksProto k
    | _ => ksProto k

/-- OPEN (R184). -/
def execOpenMessage (port : Nat) (next : BitVec 48) (s : State) : Host.Outcome State Fault Refusal :=
  onTree s port fun k => takeOpen k port next

/-! ## Version repair (R178) -/

/-- The DPA of the block whose metadata word has index i at controller n (R60). -/
def blockOf (n i : Nat) : Nat := (i / 2 ^ 25) * 2 ^ 39 + n * 2 ^ 36 + i % 2 ^ 25 * 2048

/-- Numbers without repeats, the last mention kept. -/
def dedup : List Nat → List Nat
  | [] => []
  | x :: r => if r.contains x then dedup r else x :: dedup r

/-- Blocks of controller n whose metadata word may be other than 0. -/
def knownBlocks (s : State) (n : Nat) : List Nat :=
  let b := bits (reg s (rMdbase n)) 43 29 * 2 ^ 29
  let inR (a : Nat) : Bool := decide (b ≤ a ∧ a < b + 2 ^ 29)
  let cached := ((s.mdCache.filter fun e => e.1 / 2 ^ 44 == n && inR (e.1 % 2 ^ 44)).map fun e => e.1 % 2 ^ 44)
  let inMem := (s.mem.filter fun e => inR e.1).map fun e => e.1 / 8 * 8
  let inDeck := (s.deck.filter fun e => inR (128 * e.1)).flatMap fun e => (List.range 16).map fun i => 128 * e.1 + 8 * i
  (dedup (cached ++ inMem ++ inDeck)).map fun a => blockOf n ((a - b) / 8)

/-- Repair one block against the generations of a pass. -/
def repairBlock (s : State) (gens : List Nat) (blk : Nat) : State :=
  let w := metaOf s blk
  if metaVer w ∧ gens.contains (metaT w) then setMeta s blk (putBits (putBits w 15 15 (committedSlot s w)) 63 16 0) else s

/-- REPAIR_PASS (R178): a controller's pass over its registered VER blocks. -/
def execRepairPass (n : Nat) (s : State) : Host.Outcome State Fault Refusal :=
  if 8 ≤ n then .next s
  else
    let gens := s.ks.abw.map fun e => e.2.toNat
    let s := if bit (reg s (rMdbase n)) 0 then (knownBlocks s n).foldl (fun s b => repairBlock s gens b) s else s
    let add (e : Nat × BitVec 48) : Nat × List Nat :=
      let l := tabD s.ks.repaired e.1 []
      (e.1, if l.contains n then l else n :: l)
    .next { s with ks := { s.ks with repaired := s.ks.abw.map add } }

/-- ABW_RETIRE (R178): every controller's pass and every slice's directory has cleared the entry. -/
def execAbwRetire (k : Nat) (s : State) : Host.Outcome State Fault Refusal :=
  if 8 ≤ k then .next s
  else
    .next (match tabGet s.ks.abw k with
      | none => s
      | some g =>
        let passed := (List.range 8).all fun n => (tabD s.ks.repaired k []).contains n
        let tagged := s.shadows.any fun x => x.tag == some (BitVec.ofNat 8 g.toNat)
        if passed ∧ !tagged then { s with ks := { s.ks with abw := tabDel s.ks.abw k, repaired := tabDel s.ks.repaired k } }
        else s)

end Sys2Proof.Machine
end

