-- ==== Sys2Proof/Machine/Steps.lean ====
section
/-! DEFINITION. Sys2Proof/Machine/Steps.lean: the step instructions vote, vwait, vflag, gen and rand (R188 to R191,
R195, R306), and draws from the step-state page (R193, R195, R319). -/

namespace Sys2Proof.Machine

/-! ## Philox-4x32-10 (R195) -/

/-- Words of 32 bits. -/
abbrev W32 := BitVec 32

/-- The high and low halves of an exact 64-bit product. -/
def mulHi (a b : W32) : W32 := ((a.zeroExtend 64 * b.zeroExtend 64) >>> 32).setWidth 32

def mulLo (a b : W32) : W32 := a * b

/-- A counter of four words, least significant first. -/
structure Ctr where
  c0 : W32
  c1 : W32
  c2 : W32
  c3 : W32
  deriving DecidableEq, Repr

/-- One round. -/
def philoxRound (c : Ctr) (k0 k1 : W32) : Ctr :=
  let a : W32 := 0xD2511F53#32
  let b : W32 := 0xCD9E8D57#32
  ⟨mulHi b c.c2 ^^^ c.c1 ^^^ k0, mulLo b c.c2, mulHi a c.c0 ^^^ c.c3 ^^^ k1, mulLo a c.c0⟩

/-- n rounds, the key stepping between them. -/
def philoxRounds : (n : Nat) → Ctr → W32 → W32 → Ctr
  | 0, c, _, _ => c
  | n + 1, c, k0, k1 => philoxRounds n (philoxRound c k0 k1) (k0 + 0x9E3779B9#32) (k1 + 0xBB67AE85#32)

/-- The counter of a number. -/
def ctrOf (n : Nat) : Ctr :=
  ⟨BitVec.ofNat 32 n, BitVec.ofNat 32 (n / 2 ^ 32), BitVec.ofNat 32 (n / 2 ^ 64), BitVec.ofNat 32 (n / 2 ^ 96)⟩

/-- Philox at a counter number, with an 8-byte key. -/
def philox (n : Nat) (k : Word) : Ctr :=
  philoxRounds 10 (ctrOf n) (k.setWidth 32) ((k >>> 32).setWidth 32)

/-- Word i of a block. -/
def Ctr.word (y : Ctr) : Nat → W32
  | 0 => y.c0
  | 1 => y.c1
  | 2 => y.c2
  | _ => y.c3

/-! ## Reading the page (R193, R195) -/

/-- The target of a line of the page. -/
def sspTarget (a : Nat) : Target :=
  { peer := none, dpa := a, nc := false, cv := false, ver := true, cmp := false, alloc := 0 }

/-- Read n bytes of one line of the page as a plain load at the home slice. -/
def sspLoad (c : Nat) (r : RoleId) (s : State) (off n : Nat) : Except Stop (State × List Byte) :=
  let a := sspBase s + off
  let t := sspTarget a
  if lineBusy s c r t ∨ writeAhead (core s c) t ∨ lineHeld s (a / 128) ∨ !relSettled s c r then .error (.wait .other)
  else
    let (s', l, bad) := sliceRead s .second false (a / 128) (a % 128) n
    if bad then .error (.fatal s (fatalAt 0x44 1 0 a)) else .ok (s', bytesFrom l (a % 128) n)

/-- A stream's counter and the key (R194), under the checks of R193: EN = 0 is ILLEGAL, a page that breaks the rules is
fatal XLATE with detail ATTR. -/
def streamRead (c : Nat) (r : RoleId) (s : State) (stream : Nat) : Except Stop (State × Nat × Word) :=
  if !sspOn s then .error (.trap tILLEGAL 0)
  else if !sspGood s then .error (.fatal s (fatalAt 0x41 4 0 (sspBase s)))
  else do
    let (s, cb) ← sspLoad c r s (16 * stream) 16
    let (s, kb) ← sspLoad c r s 0x400 8
    .ok (s, leNat cb, BitVec.ofNat 64 (leNat kb))

/-- Word i mod 4 of the block at counter C + base + i / 4. -/
def drawAt (ctr : Nat) (key : Word) (base i : Nat) : W32 := (philox ((ctr + base + i / 4) % 2 ^ 128) key).word (i % 4)

/-- RAND (R195). -/
def execRand (m : Mark) (rd ra : G6) (stream : BitVec 6) (s : State) : Host.Outcome State Fault Refusal :=
  issue (.rand m rd ra stream) m 1 noGuard
    (fun c r s => do
      checkUse c r s [.g ra] (.g rd)
      let (t, ctr, key) ← streamRead c r s stream.toNat
      let (t, i) := readG c r t ra
      let y := philox ((ctr + i.val.toNat) % 2 ^ 128) key
      done (writeG c r t rd ⟨y.c0.zeroExtend 64 ||| (y.c1.zeroExtend 64 <<< 32), false⟩)) s

/-! ## vote, vwait, vflag, gen -/

/-- Count a vote at Keystone (R188). -/
def countVote (k : Keystone) (f : BitVec 8) : Keystone :=
  if (k.state = .open_ ∨ k.state = .held) ∧ k.votes.toNat < ksVcnt k then
    { k with lflags := k.lflags ||| f, votes := k.votes + 1 }
  else
    let k := ksLate k
    if k.state = .voted then { k with nflags := k.nflags ||| f } else k

/-- The generation that Keystone has open, or 0. -/
def openGen (k : Keystone) : BitVec 48 := if k.state = .idle then 0 else k.geno

/-- The core's write-acknowledge count still holds a write that its roles had issued below a number (R293). -/
def coreWrites (s : State) (c bound : Nat) : Bool := (core s c).writes.any fun w => decide (w.id < bound)

/-- VOTE (R188): a system-scope release, then, once the core's writes are acknowledged (R293), the vote is counted. -/
def execVote (m : Mark) (ra : G6) (s : State) : Host.Outcome State Fault Refusal :=
  issue (.vote m ra) m 1 noGuard
    (fun c r s => do
      checkUse c r s [.g ra] .none
      let (t, a) := readG c r s ra
      if isSystem c || !voteLinked s c then .error (.trap tILLEGAL 0)
      else if stage c r s = 0 then
        if !relReady s c r .sys then .error (.wait .other) else .error (.hold (setStage c r (relBegin s c r .sys) 1))
      else if !relSettled s c r ∨ coreWrites s c (getRole s c r).relSys then .error (.wait .other)
      else
        let ovf : BitVec 8 := if coreOvf s c then 1 else 0
        let k := countVote t.ks ((a.val.setWidth 8 &&& 0x82) ||| ovf)
        done (modRole { t with ks := k } c r fun x => { x with vgen := openGen k })) s

/-- LASTDEC as vwait returns it: STALE when the generation waited for was overtaken. -/
def vwaitWord (k : Keystone) (g : BitVec 48) : Word :=
  putBit k.lastdec 1 (g != 0 && bits k.lastdec 63 16 != g.toNat)

/-- The decision that a vwait waits for has been taken (R191). -/
def decided (k : Keystone) (g : BitVec 48) : Bool :=
  g == 0 || (bit k.lastdec 2 && (decide (g.toNat ≤ bits k.lastdec 63 16) || k.state == .idle))

/-- The generation that a role's vwait waits for: the one it began to wait for, else VGEN, else the open one (R191). -/
def vwaitGen (s : State) (x : Role) : BitVec 48 :=
  match x.why with
  | some (.vwait g) => g
  | _ => if x.vgen = 0 then openGen s.ks else x.vgen

/-- VWAIT (R191). -/
def execVwait (m : Mark) (rd : G6) (s : State) : Host.Outcome State Fault Refusal :=
  issue (.vwait m rd) m 1 noGuard
    (fun c r s => do
      checkUse c r s [] (.g rd)
      let g := vwaitGen s (getRole s c r)
      if !decided s.ks g ∨ !acqReady s c r .sys then .error (.wait (.vwait g))
      else
        let t := writeG c r s rd ⟨vwaitWord s.ks g, false⟩
        done (modRole (acquire t c .sys) c r fun x => { x with vgen := 0 })) s

/-- VFLAG (R189). -/
def execVflag (m : Mark) (loss sw : Bool) (s : State) : Host.Outcome State Fault Refusal :=
  issue (.vflag m loss sw) m 1 noGuard
    (fun _ _ s => done (raiseFlags s ((if loss then 0x02 else 0) ||| if sw then 0x80 else 0))) s

/-- What gen reads (R190). -/
def genWord (k : Keystone) (sel : BitVec 2) : Word :=
  match sel.toNat with
  | 0 => k.geno.zeroExtend 64
  | 1 => k.genc.zeroExtend 64
  | 2 => ksstatWord k
  | _ => k.lastdec

/-- GEN (R190). -/
def execGen (m : Mark) (rd : G6) (sel : BitVec 2) (s : State) : Host.Outcome State Fault Refusal :=
  issue (.gen m rd sel) m 1 noGuard
    (fun c r s => do
      checkUse c r s [] (.g rd)
      done (writeG c r s rd ⟨genWord s.ks sel, false⟩)) s

end Sys2Proof.Machine
end

