-- ==== Sys2Proof/Machine/Matrix.lean ====
section
/-! DEFINITION. Sys2Proof/Machine/Matrix.lean: the matrix engine (R356 to R376): its ring, its six commands, and their
completion in ring order. A command's work is one step, or one of its acts, as `State.alt` says (log 20). -/

namespace Sys2Proof.Machine

/-! ## Engines and contexts -/

/-- A fatal ENGINE error of an engine (R372, R391): `unit` 1 the matrix engine, 2 the copy engine. -/
def engineFatal (s : State) (c : Nat) (f : Fatal) (unit : Nat) (ws : List Word) (prog : Nat) : State :=
  teardown s c .L { f with unit := unit, cmd := ws, prog := BitVec.ofNat 64 prog } true

/-- ENGINE with a detail. -/
def fENGINE (detail : Nat) : Fatal := fatalAt 0x49 detail 0 0

def modMatrix (s : State) (c : Nat) (f : Matrix → Matrix) : State :=
  modCore s c fun k => { k with matrix := f k.matrix }

/-- A matrix command's fatal error. -/
def matrixFatal (s : State) (c : Nat) (w : Word) (detail : Nat) : State := engineFatal s c (fENGINE detail) 1 [w] 0

/-! ## Accumulators (R356) -/

/-- The state word of a value. -/
def accWord (live ty red : Bool) (st : BitVec 5) : BitVec 10 :=
  (BitVec.ofBool live ++ BitVec.ofBool ty ++ BitVec.ofBool red ++ 0#2) ++ st

def accLive (a : Acc) : Bool := bit a.word 9

def accType (a : Acc) : Bool := bit a.word 8

def accRed (a : Acc) : Bool := bit a.word 7

def accStatus (a : Acc) : BitVec 5 := a.word.extractLsb' 0 5

/-- An accumulator; unlisted: as at dispatch. -/
def acc (m : Matrix) (n : Nat) : Acc := tabD m.accs n { tile := [], second := [], word := 0 }

def setAcc (m : Matrix) (n : Nat) (a : Acc) : Matrix := { m with accs := tabSet m.accs n a }

/-- Element k of a tile. -/
def tileElem (t : List (BitVec 32)) (k : Nat) : BitVec 32 := t.getD k 0

/-! Status bits (R326). -/

abbrev stINV : BitVec 5 := 0x01#5
abbrev stOVF : BitVec 5 := 0x02#5
abbrev stSAT : BitVec 5 := 0x04#5
abbrev stNX : BitVec 5 := 0x08#5
abbrev stRSV : BitVec 5 := 0x10#5

/-- The status that flags of a row or conversion enter; UNF enters none. -/
def statusOf (f : BitVec 5) : BitVec 5 :=
  (if (f &&& fINV) != 0 then stINV else 0) ||| (if (f &&& fOVF) != 0 then stOVF else 0) |||
    (if (f &&& fNX) != 0 then stNX else 0) ||| (if (f &&& fRSV) != 0 then stRSV else 0)

/-- The FLAGS bits that a status enters at drain. -/
def flagsOf (st : BitVec 5) : BitVec 5 :=
  (if (st &&& stINV) != 0 then fINV else 0) ||| (if (st &&& (stOVF ||| stSAT)) != 0 then fOVF else 0) |||
    (if (st &&& stNX) != 0 then fNX else 0) ||| (if (st &&& stRSV) != 0 then fRSV else 0)

/-! ## Formats and slots (R358 to R361) -/

/-- A format entry's parts. -/
def fmtA (e : Word) : DType := DType.ofCode (e.extractLsb' 0 4)

def fmtB (e : Word) : DType := DType.ofCode (e.extractLsb' 4 4)

def fmtNoA (e : Word) : Bool := bit e 8

def fmtNoB (e : Word) : Bool := bit e 9

/-- An entry is legal for mma (R358). -/
def fmtLegal (e : Word) : Bool :=
  let a := bits e 3 0
  let b := bits e 7 4
  decide (1 ≤ a ∧ a ≤ 10 ∧ 1 ≤ b ∧ b ≤ 10) && elemBits (fmtA e) == elemBits (fmtB e) &&
    ((a == 10) == (b == 10)) && bits e 63 10 == 0

/-- Bytes an operand slot needs (R360). -/
def operandBytes (t : DType) (nosc : Bool) : Nat := if isScaled t && !nosc then 13312 else 12288

/-- Elements of a row (R360). -/
def rowLen (t : DType) : Nat := 1536 / elemBits t

/-- Twelve scale bytes of code 127 (R358). -/
def unitScales : Nat := 0x7F7F7F7F7F7F7F7F7F7F7F7F

/-- Row i of an operand slot, with whether a reserved code was read. -/
def operandRow (t : DType) (nosc : Bool) (slot : List Byte) (i : Nat) : List (Val × Bool) :=
  let v := leNat ((slot.drop (192 * i)).take 192)
  let sc := if nosc then unitScales else leNat ((slot.drop (12288 + 16 * i)).take 12)
  (List.range (rowLen t)).map fun k => scaledElem t v sc k

/-- The 64 rows of an operand. -/
def operandRows (t : DType) (nosc : Bool) (slot : List Byte) : List (List (Val × Bool)) :=
  (List.range 64).map fun i => operandRow t nosc slot i

/-- The integer of an INT8 element. -/
def elemInt : Val → Int
  | .fin neg m _ _ => if neg then -(m : Int) else m
  | _ => 0

/-- One output element (R328, R331, R332): its code and status. -/
def mmaElem (t u : DType) (ra rb : List (Val × Bool)) (old : BitVec 32) : BitVec 32 × BitVec 5 :=
  let rsv : BitVec 5 := if ra.any (·.2) || rb.any (·.2) then stRSV else 0
  if t = .i8 then
    let (v, cl) := intRow ((ra.zip rb).map fun p => (elemInt p.1.1, elemInt p.2.1)) old.toNat
    (BitVec.ofNat 32 v, if cl then stSAT else 0)
  else
    let (v, f) := dotRow t u (groupSize t) ((ra.zip rb).map fun p => (p.1.1, p.2.1)) old.toNat
    (BitVec.ofNat 32 v, statusOf f ||| rsv)

/-- The 8 × 8 block of element k. -/
def tileBlock (k : Nat) : Nat := 8 * (k / 512) + k % 64 / 8

/-- A tile after the blocks that `p` selects of one K slice, with the status of their elements. -/
def mmaTile (p : Nat → Bool) (t u : DType) (a b : List (List (Val × Bool))) (tile : List (BitVec 32)) :
    List (BitVec 32) × BitVec 5 :=
  let elem (x y : List (Val × Bool) × Nat) : BitVec 32 × BitVec 5 :=
    let k := 64 * x.2 + y.2
    if p (tileBlock k) then mmaElem t u x.1 y.1 (tileElem tile k) else (tileElem tile k, 0)
  let r := a.zipIdx.flatMap fun x => b.zipIdx.map fun y => elem x y
  (r.map (·.1), r.foldl (fun s x => s ||| x.2) 0)

/-! ## Commands in the ring -/

/-- A handle field that the checks refuse (R372 HANDLE). -/
def handleBad (k : Core) (h : BitVec 4) : Bool := decide (14 ≤ h.toNat) || !descInScratch k (desc k h.toNat)

/-- Free one slot of a handle. -/
def popHandle (s : State) (c : Nat) (h : BitVec 4) (pop : Bool) : State :=
  if pop then setDesc s c h.toNat (freeSlots (desc (core s c) h.toNat) 1) else s

/-- The first n bytes of the slot at a handle's read index. -/
def headSlot (s : State) (c : Nat) (h : BitVec 4) (n : Nat) : List Byte :=
  let d := desc (core s c) h.toNat
  poolRead s c (slotByte d d.ridx) n

/-- MATRIX_COMMAND_START (R362 step 1): the head of h14 is read and its slot freed; a malformed word is fatal. -/
def execMatrixCommandStart (c : Nat) (s : State) : Host.Outcome State Fault Refusal :=
  if !coreExists s c then .next s
  else
    let k := core s c
    let d := desc k 14
    if k.matrix.prep.isSome ∨ d.filled = 0 then .next s
    else
      let w := ringWord s c 14 0
      let n := k.matrix.taken
      let s := setDesc s c 14 (freeSlots d 1)
      let s := modMatrix s c fun m =>
        { m with
          prep := some { word := w, role := tabD m.owners n .C, waited := false, sq := n, loaded := none }
          taken := n + 1
          owners := tabDel m.owners n }
      match decodeMatrix w with
      | .error _ => .next (matrixFatal s c w 0x10)
      | .ok _ => .next s

/-- How a turn of a matrix command ends. -/
inductive MatrixRes where
  /-- A check of R372 fails. -/
  | fail (detail : Nat)
  /-- Another fatal error of the command's reads. -/
  | fatal (f : Fatal)
  /-- Its handles, its stage, or an earlier command, hold it. -/
  | wait
  /-- It has made an act, and goes on at a later turn. -/
  | on (s : State)
  /-- Done: the state, FLAGS bits beyond its accumulator's status, and a mismatch. -/
  | done (s : State) (flags : BitVec 5) (mm : Option (BitVec 9))

/-- A decoded word is the given command. -/
def isCommand (d : Except Ill Instr) (i : Instr) : Bool :=
  match d with
  | .ok j => j == i
  | .error _ => false

/-- The command whose turn it is when the engine acts on command word i, with its stage and its blocks done: the array's, else the
drain's, else that in prepare. -/
def stageTurn (m : Matrix) (i : Instr) : Option (MStage × MCmd × Nat) :=
  let mine (p : MCmd) : Bool := isCommand (decodeMatrix p.word) i
  match m.array.filter fun a => mine a.cmd with
  | some a => some (.array, a.cmd, a.blk)
  | none =>
    match m.drain.filter mine with
    | some p => some (.drain, p, 0)
    | none => (m.prep.filter mine).map fun p => (.prepare, p, 0)

/-- A finished command waits for completion in ring order. -/
def insertDone (x : MDone) : List MDone → List MDone
  | [] => [x]
  | y :: r => if x.sq < y.sq then x :: y :: r else y :: insertDone x r

/-- The command of a ring number leaves its stage. -/
def leaveStage (m : Matrix) (n : Nat) : Matrix :=
  { m with
    prep := m.prep.filter fun p => p.sq != n
    array := m.array.filter fun a => a.cmd.sq != n
    drain := m.drain.filter fun p => p.sq != n }

/-- The end of a turn of command p. -/
def endTurn (s : State) (c : Nat) (p : MCmd) : MatrixRes → State
  | .fail n => matrixFatal s c p.word n
  | .fatal e => engineFatal s c e 1 [p.word] 0
  | .wait => s
  | .on t => t
  | .done t fl mm =>
    modMatrix t c fun m =>
      let m := leaveStage m p.sq
      { m with done := insertDone ⟨p.word, p.role, p.sq, fl, mm⟩ m.done }

/-- A turn of the engine at a command (R362): its wait byte first, then its work. `f` does what the command can in the stage that
it is in: all that is left, or, when the step goes the other way (`State.alt`), one act (log 20). An arm that is not the
command of a stage changes nothing. -/
def runMatrix (i : Instr) (s : State) (f : MStage → Nat → MCmd → Nat → State → MatrixRes) : Host.Outcome State Fault Refusal :=
  let c := s.cur.1
  if !coreExists s c then .next s
  else
    match stageTurn (core s c).matrix i with
    | none => .next s
    | some (.prepare, p, n) =>
      if !p.waited ∧ !waitTurn s c 3 (wordWs p.word) then .next s
      else
        let q := { p with waited := true }
        let t := modMatrix (if p.waited then s else takeWait s c (wordWs p.word)) c fun m => { m with prep := some q }
        .next (if s.alt ∧ !p.waited then t else endTurn t c p (f .prepare c q n t))
    | some (st, p, n) => .next (endTurn s c p (f st c p n s))

/-- The work of a command that finishes in prepare (R362). -/
def inPrepare (f : Nat → State → MatrixRes) : MStage → Nat → MCmd → Nat → State → MatrixRes
  | .prepare, c, _, _, s => f c s
  | _, _, _, _, _ => .wait

/-- The accumulator that a word drains. -/
def drains (w : Word) : Option Nat :=
  match decodeMatrix w with
  | .ok (.mdr _ a _ _ _ _ _ _) => some a.toNat
  | _ => none

/-- The word is an mdr with FREE. -/
def drainsFree (w : Word) : Bool :=
  match decodeMatrix w with
  | .ok (.mdr _ _ _ _ _ _ _ free) => free
  | _ => false

/-- The accumulator that a word of the array stage writes. -/
def arrayAcc (w : Word) : Option Nat :=
  match decodeMatrix w with
  | .ok (.mma _ _ _ _ _ a _ _ _) => some a.toNat
  | .ok (.mzr _ a _ _) => some a.toNat
  | .ok (.mld _ a _ _ _ _) => some a.toNat
  | _ => none

/-- The array stage may take a command on accumulator n (R362 step 6): it is free, and no mdr has still to read that tile. -/
def arrayFree (m : Matrix) (n : Nat) : Bool := m.array.isNone && !(m.drain.any fun p => drains p.word == some n)

/-- The drain stage may take an mdr of accumulator n: it is free, and no command of the array is still to write that tile. -/
def drainFree (m : Matrix) (n : Nat) : Bool := m.drain.isNone && !(m.array.any fun a => arrayAcc a.cmd.word == some n)

/-- No command is in the array or the drain stage, and none waits to complete. -/
def noneEarlier (m : Matrix) : Bool := m.array.isNone && m.drain.isNone && m.done.isEmpty

/-- An accumulator as the commands in its stages will leave it, for the checks of a later command: an mdr with FREE makes it not
live. -/
def laterAcc (m : Matrix) (n : Nat) : Acc :=
  let x := acc m n
  if m.drain.any fun p => drains p.word == some n && drainsFree p.word then
    { x with word := accWord false (accType x) (accRed x) (accStatus x) }
  else x

/-- The bytes that one turn reads of an operand slot when the step goes the other way (R363). -/
def pieceBytes : Nat := 512

/-- The next piece of a slot of n bytes, after the bytes already read, read now (R363). -/
def nextPiece (s : State) (c : Nat) (h : BitVec 4) (n : Nat) (got : List Byte) : List Byte :=
  let d := desc (core s c) h.toNat
  got ++ poolRead s c (slotByte d d.ridx + got.length) (min (if s.alt then pieceBytes else n) (n - got.length))

/-! ## The commands -/

/-- MNOP (R371). -/
def execMnop (ws : WaitSig) (s : State) : Host.Outcome State Fault Refusal :=
  runMatrix (.mnop ws) s (inPrepare fun _ s => .done s 0 none)

/-- MZR (R367): a cleared accumulator; in redundant mode with a second copy. -/
def zeroAcc (m : Matrix) (n : Nat) (ty cs : Bool) : Matrix :=
  setAcc m n { tile := [], second := [], word := accWord true ty m.red (if cs then 0 else accStatus (acc m n)) }

/-- MZR (R367). -/
def execMzr (ws : WaitSig) (a : BitVec 3) (ty cs : Bool) (s : State) : Host.Outcome State Fault Refusal :=
  runMatrix (.mzr ws a ty cs) s (inPrepare fun c s =>
    if !arrayFree (core s c).matrix a.toNat then .wait
    else .done (modMatrix s c fun m => zeroAcc m a.toNat ty cs) 0 none)

/-- A tile of a slot's bytes, element by element (R361). -/
def tileOf (bs : List Byte) : List (BitVec 32) :=
  let v := leNat bs
  (List.range 4096).map fun k => BitVec.ofNat 32 (packed v 32 k)

/-- An accumulator loaded bit for bit (R368). -/
def loadAcc (m : Matrix) (n : Nat) (ty cs : Bool) (t : List (BitVec 32)) : Matrix :=
  setAcc m n
    { tile := t, second := if m.red then t else [],
      word := accWord true ty m.red (if cs then 0 else accStatus (acc m n)) }

/-- The tile of an accumulator that a load has opened (R368). -/
def fillAcc (m : Matrix) (n : Nat) (t : List (BitVec 32)) : Matrix :=
  let x := acc m n
  setAcc m n { x with tile := t, second := if accRed x then t else [] }

/-- The array stage of an mld (R368): the slot's bytes in the order in which they are read. -/
def mldArray (a : BitVec 3) (h : BitVec 4) (pop : Bool) (c : Nat) (p : MCmd) (s : State) : MatrixRes :=
  let bs := nextPiece s c h 16384 (p.loaded.getD [])
  if bs.length < 16384 then .on (modMatrix s c fun m => { m with array := some ⟨{ p with loaded := some bs }, 0⟩ })
  else .done (popHandle (modMatrix s c fun m => fillAcc m a.toNat (tileOf bs)) c h pop) 0 none

/-- MLD (R368). -/
def execMld (ws : WaitSig) (a : BitVec 3) (ty cs : Bool) (h : BitVec 4) (pop : Bool) (s : State) :
    Host.Outcome State Fault Refusal :=
  runMatrix (.mld ws a ty cs h pop) s fun st c p _ s =>
    match st with
    | .prepare =>
      let k := core s c
      if handleBad k h then .fail 0x11
      else if (desc k h.toNat).size < 16384 then .fail 0x12
      else if (desc k h.toNat).filled < 1 ∨ !arrayFree k.matrix a.toNat then .wait
      else
        let s := modMatrix s c fun m => { loadAcc m a.toNat ty cs [] with prep := none, array := some ⟨p, 0⟩ }
        if s.alt then .on s else mldArray a h pop c p s
    | .array => mldArray a h pop c p s
    | .drain => .wait

/-- The accumulator of an mma as its command enters the array stage (R365, R373): live, of its class when it was not, and with a
second copy only when both are kept. -/
def openAcc (red ty : Bool) (x : Acc) : Acc :=
  { tile := if accLive x then x.tile else []
    second := if red && accRed x && accLive x then x.second else []
    word := accWord true (if accLive x then accType x else ty) (red && accRed x) (accStatus x) }

/-- The accumulator after the blocks of an mma that `p` selects: both copies when both are kept (R365, R373). -/
def mmaAcc (p : Nat → Bool) (t u : DType) (a b : List (List (Val × Bool))) (x : Acc) : Acc :=
  let (tile, st) := mmaTile p t u a b x.tile
  { tile := tile
    second := if accRed x then (mmaTile p t u a b x.second).1 else []
    word := x.word ||| st.zeroExtend 10 }

/-- The checks of an mma (R372), in the order of its details but that an entry is judged before the slots its types
size (log 31). -/
def mmaCheck (k : Core) (e : Word) (ha hb : BitVec 4) (a : BitVec 3) (reuse : Bool) : Option Nat :=
  let x := laterAcc k.matrix a.toNat
  let t := fmtA e
  if (!reuse && handleBad k ha) || handleBad k hb then some 0x11
  else if !fmtLegal e then some 0x13
  else if (!reuse && decide ((desc k ha.toNat).size < operandBytes t (fmtNoA e))) ||
      decide ((desc k hb.toNat).size < operandBytes (fmtB e) (fmtNoB e)) then some 0x12
  else if accLive x && accType x != (t == .i8) then some 0x13
  else if reuse && !(match k.matrix.abuf with
      | none => false
      | some b => b.ty.toNat == bits e 3 0 && b.nosc == fmtNoA e) then some 0x14
  else none

/-- The array stage of an mma from block n on (R365): each block reads B afresh. -/
def mmaArray (e : Word) (hb : BitVec 4) (a : BitVec 3) (popb : Bool) (c : Nat) (p : MCmd) (n : Nat) (s : State) : MatrixRes :=
  let m := (core s c).matrix
  let ra := operandRows (fmtA e) (fmtNoA e) ((m.abuf.map (·.bytes)).getD [])
  let rb := operandRows (fmtB e) (fmtNoB e) (headSlot s c hb (operandBytes (fmtB e) (fmtNoB e)))
  let turn (b : Nat) : Bool := if s.alt then b == n else decide (n ≤ b)
  let t := modMatrix s c fun m => setAcc m a.toNat (mmaAcc turn (fmtA e) (fmtB e) ra rb (acc m a.toNat))
  if s.alt ∧ n < 63 then .on (modMatrix t c fun m => { m with array := some ⟨p, n + 1⟩ })
  else .done (popHandle t c hb popb) 0 none

/-- An mma in prepare (R365): its checks, its A load, and its entry into the array stage once its B slot is filled, with A's slot
freed. -/
def mmaPrepare (e : Word) (ha hb : BitVec 4) (a : BitVec 3) (reuse popa popb : Bool) (c : Nat) (p : MCmd) (s : State) :
    MatrixRes :=
  let k := core s c
  let need := operandBytes (fmtA e) (fmtNoA e)
  let two := !reuse && ha == hb && popa
  match mmaCheck k e ha hb a reuse with
  | some d => .fail d
  | none =>
    if !reuse ∧ (desc k ha.toNat).filled < 1 then .wait
    else if s.alt ∧ !reuse ∧ (p.loaded.getD []).length < need then
      .on (modMatrix s c fun m => { m with prep := some { p with loaded := some (nextPiece s c ha need (p.loaded.getD [])) } })
    else if (desc k hb.toNat).filled < (if two then 2 else 1) ∨ !arrayFree k.matrix a.toNat then .wait
    else
      let ab := nextPiece s c ha need (p.loaded.getD [])
      let q := { p with loaded := none }
      let s := popHandle s c ha (!reuse && popa)
      let s := modMatrix s c fun m =>
        let m := setAcc { m with prep := none, array := some ⟨q, 0⟩ } a.toNat (openAcc m.red (fmtA e == .i8) (acc m a.toNat))
        if reuse then m
        else { m with abuf := some { bytes := ab, ty := BitVec.ofNat 4 (bits e 3 0), nosc := fmtNoA e } }
      if s.alt then .on s else mmaArray e hb a popb c q 0 s

/-- MMA (R365). -/
def execMma (ws : WaitSig) (lp : Bool) (fidx ha hb : BitVec 4) (a : BitVec 3) (reuse popa popb : Bool) (s : State) :
    Host.Outcome State Fault Refusal :=
  runMatrix (.mma ws lp fidx ha hb a reuse popa popb) s fun st c p n s =>
    let e := tabD (core s c).matrix.fmt fidx.toNat 0
    match st with
    | .prepare => mmaPrepare e ha hb a reuse popa popb c p s
    | .array => mmaArray e hb a popb c p n s
    | .drain => .wait

/-- The target types of a drain (R369). -/
def drainType (ty : Bool) (dt : DType) : Bool :=
  if ty then dt == .i32 || dt == .i8
  else [DType.f32, .bf16, .f16, .e4m3, .e5m2].contains dt

/-- Convert one element (R369, R318 to R321): code, status, and the UNF flag. To .f32 it is copied, but a NaN becomes
0x7FC0_0000. -/
def drainElem (ty : Bool) (dt : DType) (rm : RM) (sat : Bool) (u : Nat) (x : BitVec 32) : Nat × BitVec 5 × BitVec 5 :=
  if ty then
    if dt = .i8 then
      let v := signedOf 32 x.toNat
      let w : Int := max (-128) (min v 127)
      ((w % 256).toNat, if v = w then 0 else if sat then stSAT else stINV, 0)
    else (x.toNat, 0, 0)
  else if dt = .f32 then (if isNan (fmtF32.val x.toNat) then 0x7FC00000 else x.toNat, 0, 0)
  else
    match elemFmt dt with
    | none => (0, 0, 0)
    | some f =>
      let v := fmtF32.val x.toNat
      let (code, fl) := roundTo f rm sat u v
      let cl : BitVec 5 := if sat ∧ ((fl &&& fOVF) != 0 ∨ isInf v) then stSAT else 0
      (code, statusOf fl ||| cl, fl &&& fUNF)

/-- The slot bytes of a drain, its status, and UNF. -/
def drainTile (ty : Bool) (dt : DType) (rm : RM) (sat : Bool) (draw : Nat → Nat) (t : List (BitVec 32)) :
    List Byte × BitVec 5 × BitVec 5 :=
  let r := (List.range 4096).map fun k => drainElem ty dt rm sat (draw k) (tileElem t k)
  (r.flatMap fun x => leBytes (elemBits dt / 8) x.1, r.foldl (fun s x => s ||| x.2.1) 0,
    r.foldl (fun s x => s ||| x.2.2) 0)

/-- The first block, in block order, where two tiles differ (R373). -/
def firstDiff (a b : List (BitVec 32)) : Option Nat :=
  (((List.range 4096).filter fun k => tileElem a k != tileElem b k).map tileBlock).min?

/-- The draws of an mdr (R369): the page is read only for .sr to a float target. -/
def mdrDraw (s : State) (c : Nat) (ty : Bool) (rm : RM) : Except MatrixRes (State × (Nat → Nat)) :=
  if ty ∨ rm ≠ .sr then .ok (s, fun _ => 0)
  else if !sspGood s then .error (.fatal (fatalAt 0x41 4 0 (sspBase s)))
  else if lineHeld s (sspBase s / 128) ∨ lineHeld s ((sspBase s + 0x400) / 128) then .error .wait
  else
    let (s, l, b1) := sliceRead s .second false (sspBase s / 128) 0 16
    let (s, l2, b2) := sliceRead s .second false ((sspBase s + 0x400) / 128) 0 8
    if b1 || b2 then .error (.fatal (fatalAt 0x44 1 0 (sspBase s)))
    else
      let base := 2 ^ 42 * bits (core s c).rect 5 0 + 3 * 2 ^ 40 + 2 ^ 10 * (core s c).matrix.mdrcnt.toNat
      .ok (s, fun j => (drawAt (leNat (bytesFrom l 0 16)) (BitVec.ofNat 64 (leNat (bytesFrom l2 0 8))) base j).toNat)

/-- The accumulator that an mdr leaves (R369). -/
def drainedAcc (x : Acc) (st : BitVec 5) (clr free : Bool) : Acc :=
  { tile := if clr || free then [] else x.tile
    second := if clr || free then [] else x.second
    word := accWord (accLive x && !free) (accType x) (accRed x) (accStatus x ||| st) }

/-- The drain stage of an mdr (R369): its tile is compared, converted and written, and its slot published. -/
def mdrDrain (a : BitVec 3) (t : DType) (rm : RM) (sat : Bool) (h : BitVec 4) (clr free : Bool) (c : Nat) (s : State) :
    MatrixRes :=
  let x := acc (core s c).matrix a.toNat
  let d := desc (core s c) h.toNat
  match mdrDraw s c (accType x) rm with
  | .error e => e
  | .ok (s, draw) =>
    let tile := if accLive x then x.tile else []
    let mm : Option (BitVec 9) :=
      if accRed x ∧ accLive x then (firstDiff x.tile x.second).map fun b => BitVec.ofNat 6 b ++ a else none
    let (out, st, unf) := drainTile (accType x) t rm sat draw tile
    let s := poolWrite s c (slotByte d d.widx) out
    let s := setDesc s c h.toNat (publish d 1)
    let s := modMatrix s c fun m =>
      { setAcc m a.toNat (drainedAcc x st clr free) with mdrcnt := m.mdrcnt + 1 }
    .done s unf mm

/-- MDR (R369). -/
def execMdr (ws : WaitSig) (a : BitVec 3) (dt : BitVec 4) (rm : RM) (sat : Bool) (h : BitVec 4) (clr free : Bool)
    (s : State) : Host.Outcome State Fault Refusal :=
  runMatrix (.mdr ws a dt rm sat h clr free) s fun st c p _ s =>
    let k := core s c
    let x := laterAcc k.matrix a.toNat
    let t := DType.ofCode dt
    let d := desc k h.toNat
    match st with
    | .prepare =>
      if handleBad k h then .fail 0x11
      else if !drainType (accType x) t then .fail 0x13
      else if d.size < 512 * elemBits t then .fail 0x12
      else if rm = .sr ∧ !accType x ∧ !sspOn s then .fail 0x15
      else if d.slots ≤ d.filled ∨ !drainFree k.matrix a.toNat then .wait
      else if s.alt then .on (modMatrix s c fun m => { m with prep := none, drain := some p })
      else mdrDrain a t rm sat h clr free c s
    | .drain => if d.slots ≤ d.filled then .wait else mdrDrain a t rm sat h clr free c s
    | .array => .wait

/-- MCFG with SUB 00b (R370): it waits for every earlier command. -/
def execMcfgRedundant (ws : WaitSig) (red : Bool) (s : State) : Host.Outcome State Fault Refusal :=
  runMatrix (.mcfgRedundant ws red) s (inPrepare fun c s =>
    if !noneEarlier (core s c).matrix then .wait
    else .done (modMatrix s c fun m => { m with red := red, abuf := none }) 0 none)

/-- Sixteen format entries of 128 bytes. -/
def fmtTable (bs : List Byte) : Tab Word := (wordsOf 16 bs).zipIdx.map fun p => (p.2, p.1)

/-- MCFG with SUB 01b (R370). -/
def execMcfgLoadFormat (ws : WaitSig) (h : BitVec 4) (pop : Bool) (s : State) : Host.Outcome State Fault Refusal :=
  runMatrix (.mcfgLoadFormat ws h pop) s (inPrepare fun c s =>
    let k := core s c
    if handleBad k h then .fail 0x11
    else if (desc k h.toNat).size < 128 then .fail 0x12
    else if !noneEarlier k.matrix ∨ (desc k h.toNat).filled < 1 then .wait
    else
      let t := fmtTable (headSlot s c h 128)
      .done (popHandle (modMatrix s c fun m => { m with fmt := t }) c h pop) 0 none)

/-! ## Completion (R362 step 7, R373) -/

/-- A mismatch is reported to the C role (R373): held for delivery, or MORE is set; with C at fin it is fatal. -/
def reportMismatch (s : State) (c : Nat) (w : Word) (mm : BitVec 9) : State :=
  if (getRole s c .C).fin then matrixFatal s c w 0x16
  else
    match (core s c).matrix.pend with
    | some (v, o) => modMatrix s c fun m => { m with pend := some (v ||| 0x200#10, o) }
    | none =>
      let s := modMatrix s c fun m => { m with pend := some (mm.zeroExtend 10, w) }
      if trapPending (getRole s c .C) then s else holdAsync s c .C tMISMATCH

/-- MATRIX_COMMAND_COMPLETION (R362): the oldest finished command completes once no earlier one is in a stage: an mdr's status enters FLAGS of its
placing role (R325, R357), its signal byte acts, and a mismatch is reported. -/
def execMatrixCommandCompletion (c : Nat) (s : State) : Host.Outcome State Fault Refusal :=
  if !coreExists s c then .next s
  else
    match (core s c).matrix.done with
    | [] => .next s
    | p :: rest =>
      if (core s c).matrix.array.any (fun a => decide (a.cmd.sq < p.sq)) ∨
          (core s c).matrix.drain.any (fun q => decide (q.sq < p.sq)) then .next s
      else
      let st : BitVec 5 := match drains p.word with
        | some a => flagsOf (accStatus (acc (core s c).matrix a))
        | none => 0
      let s := orFlags s c p.role (st ||| p.orFlags)
      let s := signal s c (wordWs p.word)
      let s := modMatrix s c fun m => { m with done := rest }
      match p.mismatch with
      | none => .next s
      | some mm => .next (reportMismatch s c p.word mm)

end Sys2Proof.Machine
end

