-- ==== Sys2Proof/Machine/Collie.lean ====
section
/-! DEFINITION. Sys2Proof/Machine/Collie.lean: spawn and tsig (R277, R278), submission, the Kennel and continuations (R401
to R405, R141 to R143), successor lists and nodes (R408 to R411), dispatch (R412 to R414), segments and retirement (R415,
R416), pre-emption (R419 to R422). -/

namespace Sys2Proof.Machine

/-! ## Submission (R401 to R405) -/

/-- Slots of the Kennel ring; 0 with EN = 0 (R405). -/
def kennelCap (s : State) (d : Nat) : Nat :=
  let b := reg s (rKnbase d)
  if bit b 63 then 2 ^ bits b 4 0 else 0

/-- Slots of the Kennel ring as its indices run, whether it is in use or not: LSIZE stands while records are held (R405). -/
def kennelSlots (s : State) (d : Nat) : Nat := 2 ^ bits (reg s (rKnbase d)) 4 0

def kennelRoom (s : State) (d : Nat) : Bool := decide ((collie s d).kennel.length < kennelCap s d)

/-- The high-water mark (R406). -/
def highWater (s : State) (d : Nat) : Nat := bits (reg s (rClcfg d)) 9 0

/-- Instances in use: those with a task in the pool (R403, R405; log 23). -/
def instUsed (x : Collie) : Nat :=
  (x.insts.filter fun i => x.pool.any fun (t : Task) => t.xid == i.xid && t.gi == i.gi).length

/-- A task of the instance would open a 257th instance (R403). -/
def opensTooMany (x : Collie) (xid gi : BitVec 16) : Bool :=
  gi != 0 && decide (256 ≤ instUsed x) && !(x.pool.any fun (t : Task) => t.xid == xid && t.gi == gi)

/-- A task of a submission, before it joins its instance. -/
def newTask (x : Collie) (u : Submission) (slice : Nat) (l : Option Launch) (gi : BitVec 16) (parent : Option Nat) : Task where
  id := x.nextId
  words := u.words
  xid := u.xid
  origin := u.origin
  core := u.core
  role := u.role
  cw := u.cw
  recVa := u.recVa
  slice := slice
  launch := l
  gi := gi
  pos := 0
  expl := bits (u.words.getD 0 0) 63 54
  edges := []
  parent := parent
  st := .waiting
  level := bits (u.words.getD 0 0) 5 4
  readyNo := 0
  place := none
  seg := 0
  trips := bits (u.words.getD 1 0) 63 32
  acted := 0
  todo := []
  decided := false
  probes := 0
  saved := none

/-- Join an instance: the next position, footprint edges, credits (R403, R407, R409). -/
def joinInst (s : State) (d : Nat) (t : Task) : State × Task :=
  if t.gi = 0 then (s, t)
  else
    let x := collie s d
    let x := if (instOf x t.xid t.gi).isSome then x
      else { x with insts := x.insts ++ [{ xid := t.xid, gi := t.gi, next := 0, failed := false, credits := [] }] }
    match instOf x t.xid t.gi with
    | none => (s, t)
    | some i =>
      let pos := i.next
      let cr := tabD i.credits pos 0
      let edges := ((newest x t.xid t.gi).filter fun u => conflict u.words t.words).map (·.id)
      let s := modInst (setCollie s d x) d t.xid t.gi fun i =>
        { i with next := pos + 1, credits := tabDel i.credits pos }
      let s := if t.expl < cr then countReg s (rClstat d) 47 32 (cr - t.expl) else s
      (s, { t with pos := pos, expl := t.expl - cr, edges := edges })

/-- The bytes of a Kennel slot (R405). -/
def kennelBytes (t : Task) : List Byte :=
  let origin : Nat := match t.origin with
    | .spawn => 1
    | .host => 2
    | .cont => 3
    | .succ => 4
  wordsBytes t.words ++ wordsBytes
    [ofFields [(48, t.xid.toNat), (40, origin), (0, if t.origin = .cont then t.slice else 0)],
      BitVec.ofNat 64 t.cw.toNat, ofFields [(10, t.role.toNat), (0, t.core.toNat)]] ++ List.replicate 104 0

/-- Put a task into the Kennel. -/
def toKennel (s : State) (d : Nat) (t : Task) : State :=
  let x := collie s d
  let slot := (x.knRd + x.kennel.length) % kennelSlots s d
  let s := rawWrite s (bits (reg s (rKnbase d)) 43 12 * 4096 + 256 * slot) (kennelBytes t)
  let s := setCollie s d { x with kennel := x.kennel ++ [t], nextId := x.nextId + 1 }
  putReg s (rKnstat d) 20 0 (max (bits (reg s (rKnstat d)) 20 0) (x.kennel.length + 1))

/-- Put a task into the pool; it may be ready at once. -/
def toPool (s : State) (d : Nat) (t : Task) : State :=
  let x := collie s d
  setCollie s d { x with pool := x.pool ++ [t], nextId := x.nextId + 1 }

/-- Where R403 and R404 put a submission. -/
inductive Placing where
  | pool | reserve | kennel | refused
  deriving DecidableEq, Repr

/-- The first row of R404 that applies. -/
def placing (s : State) (d : Nat) (xid gi : BitVec 16) (wait : Bool) : Placing :=
  let x := collie s d
  let full := opensTooMany x xid gi
  if !full ∧ x.kennel.isEmpty ∧ x.pool.length < highWater s d then .pool
  else if !full ∧ wait ∧ x.pool.length < 1024 then .reserve
  else if kennelRoom s d then .kennel
  else .refused

/-- The outcome code of a placing (R277). -/
def placingCode : Placing → Nat
  | .pool => 0
  | .kennel => 1
  | .reserve => 2
  | .refused => 0x80

/-- Accept a task where it has been placed (R403, R407). -/
def accept (s : State) (d : Nat) (t : Task) (p : Placing) : State :=
  let (s, t) := joinInst s d t
  match p with
  | .refused => s
  | .kennel => traceEvent (toKennel s d t) d 1 t
  | _ => settleTasks (traceEvent (toPool s d t) d 1 t) d

/-- Submit a record (R399, R404): the state and the outcome code. `gi`: the instance it joins. -/
def submit (s : State) (d : Nat) (u : Submission) (gi : BitVec 16) (parent : Option Nat) : State × Nat :=
  let t := newTask (collie s d) u 0 none gi parent
  match recordFault u.words false with
  | some off => (launchFault s d t 5 1 off, 0x81)
  | none =>
    let p := placing s d u.xid gi u.wait
    (if p = .refused then s else accept s d t p, placingCode p)

/-- The instance a record names. -/
def recordGi (ws : List Word) : BitVec 16 := BitVec.ofNat 16 (bits (ws.getD 0 0) 53 38)

/-- The submitter learns the outcome: a spawn's role goes on, a host launch sets LSTAT.CODE (R402). -/
def answerSubmission (s : State) (d : Nat) (u : Submission) (code : Nat) : State :=
  match u.from_ with
  | some (c, r) =>
    match (getRole s c r).block with
    | some (.spawn _) => modRole s c r fun x => { x with block := none, mid := 2 + code }
    | _ => s
  | none => if u.origin = .host then putReg s (rLstat d) 7 0 code else s

/-- TASK_SUBMISSION (R404): the oldest submission is checked and placed. -/
def execTaskSubmission (d : Nat) (s : State) : Host.Outcome State Fault Refusal :=
  if 4 ≤ d then .next s
  else
    match (collie s d).subs with
    | [] => .next s
    | u :: rest =>
      let s := setCollie s d { collie s d with subs := rest }
      let (s, code) := submit s d u (recordGi u.words) none
      .next (answerSubmission s d u code)

/-- HOST_LAUNCH (R402). -/
def execHostLaunch (d off : Nat) (bytes : List (BitVec 8)) (s : State) : Host.Outcome State Fault Refusal :=
  if 4 ≤ d then .next s
  else .next (hostGate s fun s =>
    if off ≠ 0 ∨ bytes.length ≠ 128 then countReg s (rLstat d) 63 48 1
    else
    let u : Submission :=
      { words := wordsOf 16 bytes, xid := BitVec.ofNat 16 (bits (reg s rHxid) 15 0), origin := .host, core := 1023, role := 3,
        cw := 0, recVa := 0, wait := false, from_ := none }
    setCollie s d { collie s d with subs := (collie s d).subs ++ [u] })

/-! ## The Kennel (R405) -/

/-- Slots at the head whose records have been cancelled go. -/
def trimKennel (s : State) (d : Nat) : State :=
  let x := collie s d
  let n := x.kennel.length - (x.kennel.dropWhile (·.decided)).length
  if n = 0 then s
  else setCollie s d { x with kennel := x.kennel.drop n, knRd := (x.knRd + n) % kennelSlots s d }

/-- KENNEL_MOVE (R405): the oldest record moves into the pool when it may. -/
def execKennelMove (d : Nat) (s : State) : Host.Outcome State Fault Refusal :=
  if 4 ≤ d then .next s
  else
    let s := trimKennel s d
    let x := collie s d
    match x.kennel with
    | [] => .next s
    | t :: rest =>
      if x.pool.length < highWater s d ∧ !opensTooMany x t.xid t.gi then
        let s := setCollie s d
          { x with kennel := rest, knRd := (x.knRd + 1) % kennelSlots s d, pool := x.pool ++ [t] }
        .next (settleTasks (traceEvent s d 9 t) d)
      else .next s

/-! ## Continuations (R141 to R143, R404) -/

/-- A continuation as a submission. -/
def launchSubmission (l : Launch) : Submission :=
  { words := l.words, xid := l.xid, origin := .cont, core := l.core, role := l.role, cw := 0, recVa := 0, wait := false,
    from_ := none }

/-- Remove the first filled entry of a launch queue. -/
def dropFilled : List LaunchEntry → List LaunchEntry
  | [] => []
  | e :: r => if e.fill.isSome then r else e :: dropFilled r

/-- CONTINUATION_ACCEPT (R141, R143): the oldest launch of a slice is taken, refused, or stays. -/
def execContinuationAccept (sl : Nat) (s : State) : Host.Outcome State Fault Refusal :=
  if 256 ≤ sl then .next s
  else
    let d := sl / 64
    let x := slice s sl
    match x.queue.findSome? (·.fill) with
    | none => .next s
    | some l =>
      let freed := setSlice s sl { x with queue := dropFilled x.queue }
      let t := newTask (collie s d) (launchSubmission l) sl (some l) 0 none
      if (recordFault l.words true).isSome then .next (launchFault freed d t 5 1 0)
      else
        let behind := (collie s d).kennel.any fun u => !u.decided && u.origin == .cont && u.slice == sl
        let p := placing s d l.xid 0 false
        if p = .refused ∨ (behind ∧ !kennelRoom s d) then .next s
        else .next (accept freed d t (if behind then .kennel else p))

/-! ## Successor lists (R408, R409) -/

/-- How acting on an entry ends. -/
inductive Acted where
  | done (s : State)
  /-- A record waits for room, its line is held, or a peer has yet to give it. -/
  | waits (s : State)
  /-- The STATUS of a read that failed. -/
  | fails (status : Nat)

/-- The LOOPNODE pass that what a task submits belongs to (R411). -/
def passOf (t : Task) : Option Nat := if taskKind t = 3 then some t.id else t.parent

/-- Act on an entry of a task's list (R409). -/
def actEntry (s : State) (d : Nat) (t : Task) (e : Word) : Acted :=
  if bit e 62 then
    let a := bits e 56 7 * 128
    if collieWaits s d t.id t.xid a 128 then .waits (collieAsk s d t.id t.xid a 128)
    else
      match collieRead s d t.id t.xid a 128 with
      | none => .fails 4
      | some (s, bs) =>
        let u : Submission :=
          { words := wordsOf 16 bs, xid := t.xid, origin := .succ, core := 1022, role := 3, cw := 0,
            recVa := BitVec.ofNat 57 a, wait := false, from_ := none }
        let (s', code) := submit s d u t.gi (passOf t)
        if code = 0x80 then .waits s else .done (forgetRemote s' d t.id)
  else .done (releasePos s d t.xid t.gi (t.pos + bits e 7 0))

/-- Act on entries in list order, as far as room allows: what is left, and the STATUS of a failed read. -/
def actTodo (d id : Nat) : List (Nat × Word) → State → State × List (Nat × Word) × Option Nat
  | [], s => (s, [], none)
  | (j, e) :: r, s =>
    match findTask (collie s d) id with
    | none => (s, [], none)
    | some t =>
      match actEntry s d t e with
      | .fails st => (s, (j, e) :: r, some st)
      | .waits s => (s, (j, e) :: r, none)
      | .done s => actTodo d id r (modTask s d id fun u => { u with acted := u.acted ||| BitVec.ofNat 64 (2 ^ j) })

/-- A task ends: completion word, then its pool entry is freed (R416 steps 5 and 6). It stays while the word waits. An edge that a
task submitted in the meantime has got on it goes as well (R409). -/
def finishTask (s : State) (d : Nat) (t : Task) : State :=
  if completionWaits s t then s
  else settleTasks (dropTask (releaseEdges (traceEvent (writeCompletion s d t 1) d 6 t) d t.id) d t.id) d

/-- Go on with the entries that a task still has to act on. -/
def advanceTask (s : State) (d id : Nat) : State :=
  match findTask (collie s d) id with
  | none => s
  | some t =>
    let (s, rest, err) := actTodo d id t.todo s
    let s := modTask s d id fun u => { u with todo := rest }
    match err with
    | some st =>
      if t.st = .running then settleTasks (modTask s d id fun u => { u with todo := [] }) d
      else taskFails (launchFault s d t 5 st 0) d id 2
    | none =>
      if rest.isEmpty ∧ t.st = .acting then
        if taskKind t = 3 ∧ !t.decided then settleTasks (modTask s d id fun u => { u with st := .body }) d
        else
          match findTask (collie s d) id with
          | none => s
          | some u => finishTask s d u
      else settleTasks s d

/-- Completion words that waited at a held line are written once it is free. -/
def retryLate (s : State) (d : Nat) : State :=
  let l := (collie s d).late
  let s := setCollie s d { collie s d with late := [] }
  l.foldl (fun s e =>
    if completionWaits s e.1 then setCollie s d { collie s d with late := (collie s d).late ++ [e] }
    else writeCompletion s d e.1 e.2) s

/-- Ended tasks whose list a peer has now given: the successors that it holds are cancelled (R417). -/
def retryOrphans (s : State) (d : Nat) : State :=
  (collie s d).orphans.foldl (fun s t =>
    let s := askList s d t
    if listWaits s d t then s
    else
      let (s, held) := heldByEntry s d t
      let x := collie s d
      let s := setCollie s d
        { x with orphans := x.orphans.filter fun u => u.id != t.id, remote := x.remote.filter fun e => e.id != t.id }
      settleTasks (cancelTasks d (cancelFuel s d) s held) d) s

/-- SUCCESSOR_SUBMIT (R404, R409): entries that wait for room are tried again. -/
def execSuccessorSubmit (d : Nat) (s : State) : Host.Outcome State Fault Refusal :=
  if 4 ≤ d then .next s
  else
    let s := retryOrphans (retryLate s d) d
    let ids := ((collie s d).pool.filter fun t => t.st == .acting || !t.todo.isEmpty).map (·.id)
    .next (ids.foldl (fun s id => advanceTask s d id) s)

/-- Entries j of a list with a property, with their words. -/
def pickEntries (es : List Word) (f : Nat → Bool) : List (Nat × Word) :=
  (es.zipIdx.filter fun p => f p.2).map fun p => (p.2, p.1)

/-- The early release of list entries by tsig (R278). -/
def tsigEntries (s : State) (d : Nat) (t : Task) (mask : Word) : State :=
  match readList s d t with
  | .error _ => forgetRemote s d t.id
  | .ok (s, es, _) =>
    let s := forgetRemote s d t.id
    let l := pickEntries es fun j => bit mask j && !bit t.acted j && !(t.todo.any fun e => e.1 == j)
    advanceTask (modTask s d t.id fun u => { u with todo := u.todo ++ l }) d t.id

/-- TSIG (R278). -/
def execTsig (m : Mark) (ra : G6) (s : State) : Host.Outcome State Fault Refusal :=
  issue (.tsig m ra) m 1 noGuard
    (fun c r s => do
      checkUse c r s [.g ra] .none
      let (t, a) := readG c r s ra
      if stage c r s = 0 then
        if !relReady s c r .dev then .error (.wait .other) else .error (.hold (setStage c r (relBegin s c r .dev) 1))
      else if !relSettled s c r then .error (.wait .other)
      else
        match coreTask s c with
        | none => done t
        | some k =>
          if listWaits s (dieOf c) k then
            let u := askList s (dieOf c) k
            .error (if u.peerOut.length = s.peerOut.length then .wait .other else .hold u)
          else done (tsigEntries t (dieOf c) k a.val)) s

/-! ## Spawn (R277) -/

/-- Hand a spawn's record to Collie; the role waits for the outcome. -/
def handRecord (s : State) (c : Nat) (r : RoleId) (u : Submission) : State :=
  let d := dieOf c
  let s := setCollie s d { collie s d with subs := (collie s d).subs ++ [u] }
  modRole s c r fun x => { x with block := some (.spawn 0) }

/-- The record is read at once, as a load of the role (R277). -/
def spawnRecord (c : Nat) (r : RoleId) (s : State) (w : Bool) (rec_ cw : Nat) : Except Stop (State × Flow) := do
  let user := !systemMode s c r
  let (s, l) ← orFatal s rec_ (coreLoc s c .read user false false rec_ 128)
  let s ← if cw = 0 then (.ok s : Except Stop State) else do
    let (s, _) ← if NW ≤ cw then .error (.fatal s (fWINDOW cw)) else
      orFatal s cw (coreLoc s c .write user false true cw 8)
    .ok s
  let u : Submission :=
    { words := [], xid := (core s c).xid, origin := .spawn, core := BitVec.ofNat 10 c, role := r.code,
      cw := BitVec.ofNat 57 cw, recVa := BitVec.ofNat 57 rec_, wait := w, from_ := some (c, r) }
  let (s, p) := makePart s c r false rec_ (BitVec.allOnes 128) 128 0 l
  match p.got with
  | some bs => .error (.hold (handRecord s c r { u with words := wordsOf 16 bs }))
  | none =>
    match p.tgt.peer with
    | some d =>
      let (s, tag) := peerSend s d (.read (BitVec.ofNat 44 p.tgt.dpa) 128) (.record u)
      .error (.hold (modRole s c r fun x => { x with block := some (.spawn tag) }))
    | none =>
      if lineHeld s (p.tgt.dpa / 128) then .error (.wait .other)
      else
        let (s, d, bad) := sliceRead s (policyOf p.tgt) p.tgt.cv (p.tgt.dpa / 128) 0 128
        if bad then .error (.fatal s (fatalAt 0x44 1 rec_ p.tgt.dpa))
        else
          let (s, bs) := takePart s c p d
          .error (.hold (handRecord s c r { u with words := wordsOf 16 bs }))

/-- spawn and spawn.w (R277): stage 1 once the release has begun, 2 + outcome once Collie has answered. -/
def spawnBody (w : Bool) (rd ra rb : G6) : Body := fun c r s => do
  checkUse c r s [.g ra, .g rb] (.g rd)
  let (s1, a) := readG c r s ra
  let (s2, b) := readG c r s1 rb
  let rec_ := a.val.toNat % 2 ^ 57
  let cw := b.val.toNat % 2 ^ 57
  if 2 ≤ stage c r s then done (writeG c r s2 rd ⟨BitVec.ofNat 64 (stage c r s - 2), false⟩)
  else if rec_ % 128 ≠ 0 then .error (.fatal s (fALIGN rec_))
  else if cw % 8 ≠ 0 then .error (.fatal s (fALIGN cw))
  else if w ∧ cw = 0 then done (writeG c r s2 rd ⟨0x82, false⟩)
  else if stage c r s = 0 then
    if !relReady s c r .dev then .error (.wait .other) else .error (.hold (setStage c r (relBegin s c r .dev) 1))
  else if !relSettled s c r then .error (.wait .other)
  else spawnRecord c r s w rec_ cw

/-- SPAWN (R277). -/
def execSpawn (m : Mark) (rd ra rb : G6) (s : State) : Host.Outcome State Fault Refusal :=
  issue (.spawn m rd ra rb) m 1 noGuard (spawnBody false rd ra rb) s

/-- SPAWN_W (R277). -/
def execSpawnW (m : Mark) (rd ra rb : G6) (s : State) : Host.Outcome State Fault Refusal :=
  issue (.spawnW m rd ra rb) m 1 noGuard (spawnBody true rd ra rb) s

/-! ## Nodes (R411) -/

/-- Tasks of a list by the order they became ready. -/
def byReady (t : Task) : List Task → List Task
  | [] => [t]
  | u :: r => if t.readyNo < u.readyNo then t :: u :: r else u :: byReady t r

def isNode (t : Task) : Bool := taskKind t == 2 || taskKind t == 3

/-- Decide (R411). -/
def decideNode (s : State) (d : Nat) (t : Task) : State :=
  match collieRead s d t.id t.xid (bits (taskWord t 7) 56 0) 8 with
  | none => taskFails (launchFault s d t 5 4 0) d t.id 2
  | some (s, pb) =>
    match readList s d t with
    | .error st => taskFails (launchFault s d t 5 st 0) d t.id 2
    | .ok (s, es, na) =>
      let s := forgetRemote s d t.id
      let a := leNat pb != 0
      let l := pickEntries es fun j => decide (j < na) == a
      advanceTask (modTask s d t.id fun u =>
        { u with st := .acting, todo := l, decided := !(a && taskKind t == 3) }) d t.id

/-- NODE_DECIDE (R411): the node that became ready first. -/
def execNodeDecide (d : Nat) (s : State) : Host.Outcome State Fault Refusal :=
  if 4 ≤ d then .next s
  else
    match ((collie s d).pool.filter fun t => isNode t && t.st == .ready).foldl (fun l t => byReady t l) [] with
    | [] => .next s
    | t :: _ =>
      let a := bits (taskWord t 7) 56 0
      if collieWaits s d t.id t.xid a 8 || listWaits s d t then .next (askList (collieAsk s d t.id t.xid a 8) d t)
      else .next (decideNode s d t)

/-! ## Dispatch decisions (R412, R413) -/

/-- A task goes before another in Collie's order (R412). -/
def before (t u : Task) : Bool := decide (u.level < t.level) || (t.level == u.level && decide (t.readyNo < u.readyNo))

def byOrder (t : Task) : List Task → List Task
  | [] => [t]
  | u :: r => if before t u then t :: u :: r else u :: byOrder t r

/-- An older continuation of the same slice is not yet dispatched (R142). -/
def behindOlder (x : Collie) (t : Task) : Bool :=
  t.origin == .cont && t.saved.isNone && (allTasks x).any fun u =>
    u.origin == .cont && u.slice == t.slice && decide (u.id < t.id) && u.saved.isNone &&
      (u.st == .waiting || u.st == .ready || u.st == .held)

/-- Ready tasks in Collie's order. -/
def readyOrder (x : Collie) : List Task :=
  (x.pool.filter fun t => t.st == .ready && !isNode t && !behindOlder x t).foldl (fun l t => byOrder t l) []

/-- The clusters of a die that Collie may place on: present (R9) and not gated (R465). -/
def openCluster (s : State) (d k : Nat) : Bool :=
  !s.absent.contains (5 * d + k) && clusterLevel s d k != 0

/-- Legal origins of a shape, in ascending 8 Y0 + X0 (R217). -/
def origins (w h : Nat) : List (Nat × Nat) :=
  (List.range (6 / h)).flatMap fun y => (List.range (8 / w)).map fun x => (x * w, y * h)

/-- An element moved to the front of a list. -/
def toFront {α : Type} [DecidableEq α] (a : α) (l : List α) : List α := if a ∈ l then a :: l.filter (fun b => b ≠ a) else l

/-- The positions of a task, in the order R413 gives. A pre-empted task has its own only (R422). -/
def positions (s : State) (d : Nat) (t : Task) : List (Nat × Nat × Nat) :=
  if t.saved.isSome then t.place.toList
  else
    let w0 := taskWord t 0
    let aen := bit w0 20
    let aclu := bits w0 19 17
    let os := origins (widthOf (bits w0 8 7)) (heightOf (bits w0 10 9))
    let ks := (List.range 5).filter (openCluster s d)
    let ks := if aen then (if bit w0 21 then ks.filter (· == aclu) else toFront aclu ks) else ks
    ks.flatMap fun k =>
      let os := if aen ∧ k = aclu then toFront (bits w0 16 14, bits w0 13 11) os else os
      os.map fun o => (5 * d + k, o.1, o.2)

/-- The cores of a task at a position. -/
def coresAt (t : Task) (p : Nat × Nat × Nat) : List Nat :=
  rectCores p.1 p.2.1 p.2.2 (bits (taskWord t 0) 8 7) (bits (taskWord t 0) 10 9)

/-- A core holds a context, or is held for a task. -/
def coreTaken (s : State) (d c : Nat) : Bool :=
  (core s c).task.isSome || (collie s d).pool.any fun t => t.st == .held && (taskCores t).contains c

/-- A reservation: a task and its position. -/
abbrev Resv := Nat × Nat × Nat × Nat

/-- The cores of reservations. -/
def resvCores (x : Collie) (l : List Resv) : List Nat :=
  l.flatMap fun e => match findTask x e.1 with
    | none => []
    | some t => coresAt t e.2

/-- Go through the order: each task takes its first free position, the first that finds one is chosen; the others reserve.
`acc`: reservations of earlier tasks in the order. -/
def choose (s : State) (d : Nat) (old : List Resv) : List Task → List Resv → List Resv × Option (Task × (Nat × Nat × Nat))
  | [], acc => (acc, none)
  | t :: r, acc =>
    let x := collie s d
    let taken := resvCores x acc
    let clear (p : Nat × Nat × Nat) : Bool := (coresAt t p).all fun c => !taken.contains c
    let ps := positions s d t
    match ps.find? fun p => clear p && (coresAt t p).all fun c => !coreTaken s d c with
    | some p => (acc ++ old.filter (fun e => e.1 != t.id && !(acc.any fun a => a.1 == e.1)), some (t, p))
    | none =>
      let mine : Option Resv := match old.find? fun e => e.1 == t.id with
        | some e => some e
        | none => (ps.find? clear).map fun p => (t.id, p)
      choose s d old r (acc ++ mine.toList)

/-- DISPATCH_DECISION (R413): at most one task is given a position, which is then held for it. -/
def execDispatchDecision (d : Nat) (s : State) : Host.Outcome State Fault Refusal :=
  if 4 ≤ d then .next s
  else
    let x := collie s d
    let (res, pick) := choose s d x.reserve (readyOrder x) []
    let s := setCollie s d { x with reserve := res }
    match pick with
    | none => .next s
    | some (t, p) => .next (modTask s d t.id fun u => { u with st := .held, place := some p })

/-- LEVEL_RISE (R412): a task has waited AGE × 1024 clocks at its level. -/
def execLevelRise (d id : Nat) (s : State) : Host.Outcome State Fault Refusal :=
  if 4 ≤ d then .next s
  else
    .next (match findTask (collie s d) id with
      | none => s
      | some t =>
        if t.st = .ready ∧ !isNode t ∧ t.level < 3 ∧ bits (reg s (rClcfg d)) 31 16 ≠ 0 then
          modTask s d id fun u => { u with level := u.level + 1 }
        else s)

/-! ## Dispatch (R410, R414) -/

/-- A task's launch fails: its pins go, and it fails with an outcome. -/
def launchFails (s : State) (d : Nat) (t : Task) (status outcome : Nat) : State :=
  taskFails (dropPins (launchFault s d t 5 status 0) d (some t.id)) d t.id outcome

/-- How the probe of a region ends. -/
inductive Probed where
  | pinned (s : State)
  | waits (s : State)
  | fails (status : Nat)

/-- The mode of a footprint region, as probe names it. -/
def regionAMode (ws : List Word) (k : Nat) : AMode :=
  match regionMode ws k with
  | 1 => .r
  | 2 => .w
  | _ => .rw

/-- Probe footprint region k of a task (R40, R42), judged in user mode. -/
def probeRegion (s : State) (d : Nat) (t : Task) (k : Nat) : Probed :=
  if regionMode t.words k = 0 then .pinned s
  else
    let (base, len) := region t.words k
    let mode := regionAMode t.words k
    match walkRange s (rootEntry s t.xid.toNat) (modeWant mode) true (base + len) (len / 4096 + 2) base with
    | .held => .waits s
    | .data _ _ => .fails 2
    | .fails va =>
      if fqCanHold s d then
        let (s, id) := freshId s
        let s := fqPush s d
          (probeRecord t.xid ((taskCores t).headD 0) 3 (modeNum mode) id va base (base + len))
        .waits { s with probes := s.probes ++ [{ die := d, tag := id % 65536, who := .collie d t.id, answer := none }] }
      else .waits s
    | .all runs =>
      if runsHeld s runs then .waits s
      else if 4096 ≤ pinCount s d then .fails 3
      else
        let s := markLeaves s (mode != .r) runs
        .pinned { s with pins := s.pins ++
          [{ die := d, owner := some t.id, base := BitVec.ofNat 57 base, len := len,
             mode := BitVec.ofNat 2 (modeNum mode) }] }

/-- The clock of a worker core's island is gated (R465). -/
def gatedCore (s : State) (c : Nat) : Bool := !openCluster s (dieOf c) (clusterOf c % 5)

/-- A core may take a context: nothing of an earlier one is left at it, and its island runs (R465). -/
def coreFree (s : State) (c : Nat) : Bool :=
  let k := core s c
  !gatedCore s c && k.task.isNone && k.writes.isEmpty && allRoles.all fun r => (k.role r).block.isNone

/-- RECT as stored (R218). -/
def rectBits (t : Task) (p : Nat × Nat × Nat) (rank : Nat) : BitVec 16 :=
  (ofFields [(13, p.2.1), (10, p.2.2), (8, bits (taskWord t 0) 8 7), (6, bits (taskWord t 0) 10 9), (0, rank)]).setWidth 16

/-- A role at dispatch (R414, R438): at its entry, arguments in g1 to g4. -/
def startRole (t : Task) (tvec : Word) : Role :=
  { Role.reset with
    pc := BitVec.ofNat 57 (bits (taskWord t 3) 56 0)
    g := [(1, ⟨taskWord t 12, false⟩), (2, ⟨taskWord t 13, false⟩), (3, ⟨taskWord t 14, false⟩), (4, ⟨taskWord t 15, false⟩)]
    tvec := tvec }

/-- The slots of the arguments bound at dispatch: a frame for each role (R215, R414; log 46). -/
def startSlots : List RSlot := allRoles.flatMap fun r => [1, 2, 3, 4].map fun n => ⟨r, false, n, some (roleNum r)⟩

/-- A core at dispatch (R414). Its counters, instruction cache and translation caches stay. -/
def startCore (t : Task) (p : Nat × Nat × Nat) (fmt : Tab Word) (tvec : Word) (rank : Nat) (k : Core) : Core :=
  let w1 := taskWord t 1
  let b (lo : Nat) (v : Nat) : BitVec 7 := BitVec.ofNat 7 (if bits w1 30 0 = 0 then v else bits w1 (lo + 6) lo)
  let win := bits (taskWord t 0) 37 22
  { k with
    bnd0 := b 8 0x08
    bnd1 := b 16 0x40
    bnd2 := b 24 0x50
    win := BitVec.ofNat 16 (if win = 0 then 1024 else win)
    rect := rectBits t p rank
    qctl := qctlReset
    queues := []
    vqueues := []
    tokLC := 0
    tokCS := 0
    tokSL := 0
    hdesc := []
    sems := []
    roleL := startRole t tvec
    roleC := startRole t tvec
    roleS := startRole t tvec
    task := some t.id
    l1 := []
    matrix := { Matrix.reset with fmt := fmt }
    copy := Copy.reset
    wake := false
    halted := false
    slots := startSlots
    prefs := []
    image := [] }

/-- Set the cores of a rectangle. -/
def startCores (s : State) (t : Task) (p : Nat × Nat × Nat) (fmt : Tab Word) (tvec : Word) : List (Nat × Nat) → State
  | [] => s
  | (c, rank) :: r =>
    startCores (acquire (modCore (loadXid s c t.xid) c (startCore t p fmt tvec rank)) c .sys) t p fmt tvec r

/-- The format table of a task: its 128 bytes at FMTP, or zeros (R414). -/
def formatTable (bs : List Byte) : Tab Word :=
  ((wordsOf 16 bs).zipIdx.filter fun p => p.1 != 0).foldl (fun t p => tabSet t p.2 p.1) []

/-- The task's first word may issue: its cores are set (R414). -/
def startTask (s : State) (d : Nat) (t : Task) : State :=
  let a := bits (taskWord t 2) 56 0
  let p := t.place.getD (0, 0, 0)
  if !((taskCores t).all (coreFree s)) then s
  else if a ≠ 0 ∧ collieWaits s d t.id t.xid a 128 then collieAsk s d t.id t.xid a 128
  else
    match (if a = 0 then some (s, []) else collieRead s d t.id t.xid a 128) with
    | none => launchFails s d t 5 2
    | some (s, bs) =>
      let s := startCores (forgetRemote s d t.id) t p (formatTable bs) (reg s (rTvdef d)) (taskCores t).zipIdx
      traceEvent (modTask s d t.id fun u => { u with st := .running }) d 3 t

/-- Probe the regions still to be probed, then start the task. -/
def probeTask (d : Nat) : (fuel : Nat) → State → Task → State
  | 0, s, _ => s
  | fuel + 1, s, t =>
    if 4 ≤ t.probes then startTask s d t
    else
      match probeRegion s d t t.probes with
      | .waits s => s
      | .fails st => launchFails s d t st 4
      | .pinned s =>
        probeTask d fuel (modTask s d t.id fun u => { u with probes := t.probes + 1 }) { t with probes := t.probes + 1 }

/-- DISPATCH (R410, R414): a held task whose probe awaits no answer goes on with its probes, or starts. -/
def execDispatch (d : Nat) (s : State) : Host.Outcome State Fault Refusal :=
  if 4 ≤ d then .next s
  else
    let asked (t : Task) : Option Probe := s.probes.find? fun p => p.who == .collie d t.id
    let may (t : Task) : Bool := t.st == .held && t.saved.isNone &&
      (match asked t with
      | some p => p.answer.isSome
      | none => true)
    match (collie s d).pool.find? may with
    | none => .next s
    | some t =>
      let refused := match asked t with
        | some p => p.answer != some 0
        | none => false
      let s := { s with probes := s.probes.filter fun p => p.who != .collie d t.id }
      .next (if refused then launchFails s d t 2 4 else probeTask d 5 s t)

/-! ## Segments and retirement (R415, R416) -/

/-- Every role of every core of a task has reached fin. -/
def allFin (s : State) (t : Task) : Bool := (taskCores t).all fun c => allRoles.all fun r => (getRole s c r).fin

/-- The next segment of a LOOP task. -/
def nextSegment (s : State) (d : Nat) (t : Task) : State :=
  let a := bits (taskWord t (if t.trips < t.seg + 1 then 5 else 4)) 56 0
  let go (x : Role) : Role := { x with fin := false, pc := BitVec.ofNat 57 a, safecnt := 0 }
  let s := (taskCores t).foldl (fun s c =>
    modCore s c fun k => { k with roleL := go k.roleL, roleC := go k.roleC, roleS := go k.roleS }) s
  modTask s d t.id fun u => { u with seg := t.seg + 1 }

/-- A pre-emption request for the task is in progress. -/
def preempting (s : State) (d id : Nat) : Bool :=
  match (collie s d).pre with
  | none => false
  | some p => p.id == id

/-- SEGMENT_END (R415). A request for pre-emption takes the task at this boundary instead (R420). -/
def execSegmentEnd (d id : Nat) (s : State) : Host.Outcome State Fault Refusal :=
  if 4 ≤ d then .next s
  else
    .next (match findTask (collie s d) id with
      | none => s
      | some t =>
        if t.st = .running ∧ !lastSegment t ∧ allFin s t ∧ !preempting s d id then nextSegment s d t else s)

/-- A request for pre-emption ends with a result (R419). -/
def endPreempt (s : State) (d result : Nat) : State :=
  putReg (setCollie s d { collie s d with pre := none }) (rClpre d) 60 58 result

/-- Retirement from step 2 on (R416). -/
def retireTask (s : State) (d : Nat) (t : Task) : State :=
  let s := if taskVote t ∧ (taskCores t).any (coreOvf s) then raiseFlags s 1 else s
  let s := dropPins s d (some t.id)
  let s := (taskCores t).foldl (fun s c => modCore (dropFetches s c) c clearCore) s
  let s := if preempting s d t.id then endPreempt s d 2 else s
  let s := releaseEdges s d t.id
  match readList s d t with
  | .error st => taskFails (launchFault s d t 5 st 0) d t.id 2
  | .ok (s, es, _) =>
    advanceTask (modTask (forgetRemote s d t.id) d t.id fun u =>
      { u with st := .acting, todo := pickEntries es fun j => !bit t.acted j }) d t.id

/-- TASK_RETIREMENT (R104, R416): first the L1s are written back and every write is acknowledged. -/
def execTaskRetirement (d id : Nat) (s : State) : Host.Outcome State Fault Refusal :=
  if 4 ≤ d then .next s
  else
    .next (match findTask (collie s d) id with
      | none => s
      | some t =>
        let cs := taskCores t
        if t.st = .running ∧ lastSegment t ∧ allFin s t ∧ cs.all (enginesIdle s) then
          let s := cs.foldl l1Flush s
          if cs.all fun c => (core s c).writes.isEmpty then
            if listWaits s d t then askList s d t else retireTask s d t
          else s
        else s)

/-! ## Pre-emption (R419 to R422) -/

/-- PREEMPT_REQUEST (R419): a write to CLPRE. -/
def preemptWrite (s : State) (d : Nat) (x : Word) : State :=
  let err := putReg s (rClstat d) 63 63 1
  if (collie s d).pre.isSome ∨ 2 ≤ bits x 63 62 then err
  else if bits x 63 62 = 0 then s
  else
    let at_ := (5 * d + bits x 57 55, bits x 54 52, bits x 51 49)
    match (collie s d).pool.find? fun t => t.st == .running && t.place == some at_ with
    | none => putReg s (rClpre d) 60 58 1
    | some t => setCollie s d { collie s d with pre := some { id := t.id, save := bits x 43 21 * 2 ^ 21 } }

/-- PREEMPT_REQUEST (R419). -/
def execPreemptRequest (d : Nat) (x : BitVec 64) (s : State) : Host.Outcome State Fault Refusal :=
  if 4 ≤ d then .next s else .next (preemptWrite s d x)

/-- Copy jobs have run to completion or to a stop, and none has an access outstanding (R393). -/
def jobsStopped (s : State) (c : Nat) : Bool :=
  (core s c).copy.jobs.all (·.stopped) &&
    !(s.contribs.any fun x =>
      (match x.x.src with
      | .job c' _ => c' == c
      | .peer _ _ => false) && (x.st == .sent || x.st == .held)) &&
    !(s.peerOut.any fun p => match p.who with
      | .job c' _ _ => c' == c
      | _ => false)

/-- A collective that the task issued is still in progress (R435). -/
def collectiveOpen (s : State) (d id : Nat) : Bool :=
  s.ports.any fun e => e.2.posted.any fun p => p.task == some id && dieOf p.core == d

/-- The core can be stopped and saved, but for its L1 and its writes (R420). -/
def coreStoppable (s : State) (loop : Bool) (c : Nat) : Bool :=
  let k := core s c
  k.dbg.halt == 0 && (loop || allRoles.all fun r => stoppable (k.role r)) &&
    noneEarlier k.matrix && jobsStopped s c

/-- A role as it is saved (R421): a probe under way is undone, a waiting word will be executed afresh. -/
def savedRole (x : Role) : Role :=
  { x with block := none, mid := 0, why := none, safecnt := 0, relBound := 0, relDev := 0, relSys := 0, popDone := false }

/-- The token that a waiting word of a role has taken goes back, since the word will be executed afresh (R241, R421). -/
def tokenBack (k : Core) (r : RoleId) : Core := if (k.role r).popDone then setUp k r (upCount k r + 1) else k

/-- A core as it is saved (R375, R421): the command in prepare restarts at its checks, with its wait byte satisfied and its A load
undone. -/
def savedCore (k : Core) : Core :=
  let k := tokenBack (tokenBack (tokenBack k .L) .C) .S
  { k with
    roleL := savedRole k.roleL
    roleC := savedRole k.roleC
    roleS := savedRole k.roleS
    matrix := { k.matrix with prep := k.matrix.prep.map fun p => { p with waited := true, loaded := none } } }

/-- Write a core's scratch to its slot of the save area (R421). -/
def saveScratch (s : State) (save c rank : Nat) : State :=
  let k := core s c
  rawWrite s (save + rank * 2 ^ 21 + bnd0 k) (readBytes s.mem (poolBase c + bnd0 k) (bnd1 k - bnd0 k))

/-- Save a task's cores and free its rectangle (R420). -/
def saveTask (s : State) (d : Nat) (t : Task) (save : Nat) : State :=
  let cs := taskCores t
  let s := { s with probes := s.probes.filter fun p => match p.who with
    | .role c _ => !cs.contains c
    | _ => true }
  let s := cs.zipIdx.foldl (fun s p => saveScratch s save p.1 p.2) s
  let kept := cs.map fun c => savedCore (core s c)
  let s := cs.foldl (fun s c => modCore (dropFetches s c) c clearCore) s
  let s := if taskVote t then raiseFlags s 0x10 else s
  let y := collie s d
  let s := setCollie s d { y with readyNo := y.readyNo + 1 }
  let s := modTask s d t.id fun u =>
    { u with st := .ready, readyNo := y.readyNo, level := bits (taskWord t 0) 5 4, saved := some (save, kept) }
  endPreempt (traceEvent s d 4 t) d 0

/-- PREEMPT_SAVE (R420): once every role is stoppable and the engines have finished, the L1 is written back; once that is
acknowledged, the state is saved. -/
def execPreemptSave (d : Nat) (s : State) : Host.Outcome State Fault Refusal :=
  if 4 ≤ d then .next s
  else
    .next (match (collie s d).pre with
      | none => s
      | some p =>
        match findTask (collie s d) p.id with
        | none => s
        | some t =>
          let cs := taskCores t
          let loop := taskKind t == 1
          let atEnd := !loop || (allFin s t && !lastSegment t)
          if t.st = .running ∧ atEnd ∧ cs.all (coreStoppable s loop) ∧ !collectiveOpen s d t.id then
            let s := cs.foldl l1Flush s
            if cs.all fun c => (core s c).writes.isEmpty then
              let s := if loop then nextSegment s d t else s
              saveTask s d t p.save
            else s
          else s)

/-- A core as it is restored (R421, R422). -/
def restoreCore (id : Nat) (v : Core) (k : Core) : Core :=
  { k with
    bnd0 := v.bnd0
    bnd1 := v.bnd1
    bnd2 := v.bnd2
    win := v.win
    rect := v.rect
    qctl := v.qctl
    queues := v.queues
    vqueues := v.vqueues
    tokLC := v.tokLC
    tokCS := v.tokCS
    tokSL := v.tokSL
    hdesc := v.hdesc
    sems := v.sems
    roleL := v.roleL
    roleC := v.roleC
    roleS := v.roleS
    task := some id
    slots := v.slots
    l1 := []
    matrix := v.matrix
    copy := v.copy }

/-- Restore cores and their scratch. -/
def restoreCores (s : State) (t : Task) (save : Nat) : List ((Nat × Nat) × Core) → State
  | [] => s
  | ((c, rank), v) :: r =>
    let s := modCore (loadXid s c t.xid) c (restoreCore t.id v)
    let b0 := bnd0 v
    let bs := viewBytes s (save + rank * 2 ^ 21 + b0) (bnd1 v - b0)
    let s := { s with mem := writeBytes s.mem (poolBase c + b0) bs }
    restoreCores (acquire s c .sys) t save r

/-- RESUME (R422). -/
def execResume (d : Nat) (s : State) : Host.Outcome State Fault Refusal :=
  if 4 ≤ d then .next s
  else
    let may (t : Task) : Bool := t.st == .held && t.saved.isSome && (taskCores t).all (coreFree s)
    match (collie s d).pool.find? may with
    | none => .next s
    | some t =>
      match t.saved with
      | none => .next s
      | some (save, kept) =>
        let s := restoreCores s t save ((taskCores t).zipIdx.zip kept)
        .next (traceEvent (modTask s d t.id fun u => { u with st := .running, saved := none }) d 5 t)

end Sys2Proof.Machine
end

