-- ==== Sys2Proof/Machine/Copy.lean ====
section
/-! DEFINITION. Sys2Proof/Machine/Copy.lean: the copy engine (R377 to R393): start and admission, slot claims, the eight
commands row by row, stops, and completion. -/

namespace Sys2Proof.Machine

def modCopy (s : State) (c : Nat) (f : Copy → Copy) : State := modCore s c fun k => { k with copy := f k.copy }

/-- A job of a core by its number. -/
def findJob (k : Core) (id : Nat) : Option CJob := k.copy.jobs.find? fun j => j.id == id

/-- Replace a job. -/
def putJob (s : State) (c : Nat) (j : CJob) : State :=
  modCopy s c fun x => { x with jobs := x.jobs.map fun i => if i.id = j.id then j else i }

/-- A fatal error of a job's command (R391). -/
def copyFatal (s : State) (c : Nat) (ws : List Word) (f : Fatal) (prog : Nat) : State := engineFatal s c f 2 ws prog

/-- What a job has sent is still to be answered (R444): by a peer, or by a slice that a contribution has yet to reach. -/
def jobAwaits (s : State) (c id : Nat) : Bool :=
  s.peerOut.any (jobAsks c id) || s.contribs.any fun x => ofJob c id x && x.st == .sent

/-- A job with a fatal fault ends its context once what it has sent is answered (R391, R444). -/
def endFailed (s : State) (c id : Nat) : State :=
  match findJob (core s c) id with
  | none => s
  | some j =>
    match j.failed with
    | none => s
    | some (f, prog) => if jobAwaits s c id then s else copyFatal s c j.words f (firstUnperformed s c id prog)

/-- A job meets a fatal fault of its accesses at a job-order offset; the first fault is the one recorded (R391). -/
def failJob (s : State) (c id : Nat) (f : Fatal) (prog : Nat) : State :=
  match findJob (core s c) id with
  | none => s
  | some j =>
    let e := match j.failed with
      | none => (f, prog)
      | some (g, p) => (g, min p prog)
    endFailed (putJob s c { j with failed := some e }) c id

/-! ## What the words of a command say -/

/-- Source and destination sides of a job (R383). -/
def copySides : Instr → Option CopySide × Option CopySide
  | .cpy _ _ a b _ _ _ => (some a, some b)
  | .cpyd _ a b _ _ => (some (.addr a), some b)
  | .gath _ _ b _ _ _ _ => (none, some b)
  | .scat _ a _ _ _ _ _ => (some a, none)
  | .fill _ b _ _ _ => (none, some b)
  | .redc _ a _ _ _ _ _ _ _ => (some a, none)
  | _ => (none, none)

/-- The handle of a side. -/
def sideHandle : Option CopySide → Option (Nat × Bool)
  | some (.handle h p) => some (h.toNat, p)
  | _ => none

/-- Options of a job; none for cnop and bartx. -/
def copyOptions : Instr → Option CopyOpts
  | .cpy _ _ _ _ x _ _ => some x
  | .cpyd _ _ _ x _ => some x
  | .gath _ _ _ x _ _ _ => some x
  | .scat _ _ _ x _ _ _ => some x
  | .fill _ _ x _ _ => some x
  | .redc _ _ _ x _ _ _ _ _ => some x
  | _ => none

/-- The barrier a command names: core of the cluster, pool byte (R381, R390). -/
def copyBarrier (i : Instr) : Option (Nat × Nat) :=
  match i with
  | .bartx _ c b _ => some (c.toNat, 16 * b.toNat)
  | i =>
    match copyOptions i with
    | some x => if x.ben then some (x.bcore.toNat, 16 * x.boff.toNat) else none
    | none => none

/-- The memory key of a barrier object in the scratch of a present core of the cluster. -/
def barrierKey (s : State) (c : Nat) (b : Nat × Nat) : Option Nat :=
  let c' := 48 * clusterOf c + b.1
  if b.1 < 48 then
    match poolLoc s c' b.2 16 with
    | some (.pool key) => some key
    | _ => none
  else none

/-- Bytes of an element of redc. -/
def redcWidth (dbl : Bool) : Nat := if dbl then 8 else 4

/-- The field values that R391 calls malformed. -/
def copyMalformed (i : Instr) : Bool :=
  match i with
  | .cpy _ _ _ _ _ len _ => len == 0
  | .cpyd _ _ _ _ len => len == 0
  | .gath _ _ _ _ _ e _ => decide (11 < e.toNat)
  | .scat _ _ _ _ _ e _ => decide (11 < e.toNat)
  | .fill _ _ _ len _ => len == 0 || len.toNat % 8 != 0
  | .redc _ _ _ _ len op dbl _ _ =>
    len == 0 || len.toNat % redcWidth dbl != 0 ||
      (match SliceOp.ofCode op with
      | none => true
      | some o => dbl && (o == .fadd || o == .fadd2))
  | _ => false

/-- The shape record's pool byte (R385). -/
def shapeByte : Instr → Option Nat
  | .cpy _ dims _ _ _ _ shp => if dims = 0 then none else some (8 * shp.toNat)
  | _ => none

/-- Two dimensions only (R385). -/
def twoDims : Instr → Bool
  | .cpy _ dims _ _ _ _ _ => dims == 1
  | _ => false

/-- Word i of a shape record as a signed stride, of which 57 bits count (R385). -/
def strideOf (shape : List Word) (i : Nat) : Int := ((shape.getD i 0).setWidth 57).toInt

/-- Rows of dimensions 1 and 2. -/
def rowCounts (shape : List Word) : Nat × Nat :=
  match shape with
  | [] => (1, 1)
  | w :: _ => (bits w 31 0, bits w 63 32)

/-- The index list: first pool byte and number of elements (R387). -/
def indexList : Instr → Option (Nat × Nat)
  | .gath _ _ _ _ n _ x => some (4 * x.toNat, n.toNat + 1)
  | .scat _ _ _ _ n _ x => some (4 * x.toNat, n.toNat + 1)
  | _ => none

/-- Pool bytes [b, b + n) lie in the core's own scratch. -/
def ownScratch (k : Core) (b n : Nat) : Bool := decide (bnd0 k ≤ b ∧ b + n ≤ bnd1 k)

/-- Lowest and highest byte, relative to a side's start, of LEN-byte rows on strides. -/
def extent (n1 n2 : Nat) (s1 s2 : Int) (len : Nat) : Int × Int :=
  let a : Int := ((n1 - 1 : Nat) : Int) * s1
  let b : Int := ((n2 - 1 : Nat) : Int) * s2
  (min 0 a + min 0 b, max 0 a + max 0 b + (len : Int))

/-- The stretch that a command touches on its source and destination sides, relative to their starts. -/
def sideExtents (i : Instr) (shape : List Word) : (Int × Int) × (Int × Int) :=
  let (n1, n2) := rowCounts shape
  match i with
  | .cpy _ _ _ _ _ len _ =>
    (extent n1 n2 (strideOf shape 1) (strideOf shape 3) len.toNat,
      extent n1 n2 (strideOf shape 2) (strideOf shape 4) len.toNat)
  | .cpyd _ _ _ _ len => ((0, len.toNat), (0, len.toNat))
  | .gath _ _ _ _ n e _ => ((0, 0), (0, ((n.toNat + 1) * 2 ^ e.toNat : Nat)))
  | .scat _ _ _ _ n e _ => ((0, ((n.toNat + 1) * 2 ^ e.toNat : Nat)), (0, 0))
  | .fill _ _ _ len _ => ((0, 0), (0, len.toNat))
  | .redc _ _ _ _ len _ _ _ _ => ((0, len.toNat), (0, 0))
  | _ => ((0, 0), (0, 0))

/-- A stretch lies inside a slot. -/
def inSlot (k : Core) (side : Option (Nat × Bool)) (e : Int × Int) : Bool :=
  match side with
  | none => true
  | some (h, _) => decide (0 ≤ e.1 ∧ e.2 ≤ ((desc k h).size : Int))

/-- The cpyd checks of R386 and R391. -/
def cpydBad (s : State) (c : Nat) : Instr → Bool
  | .cpyd _ sa dst _ len =>
    sa.toNat % 2048 != 0 || len.toNat % 2048 != 0 ||
      (match dst with
      | .handle _ _ => false
      | .addr d =>
        if d.toNat < NW then true
        else
          match nearLoc s c (d.toNat - NW) len.toNat with
          | some (.pool key) => !decide (poolBase c ≤ key ∧ key < poolBase (c + 1))
          | _ => true)
  | _ => false

/-- A handle side names h14 or h15, or a descriptor outside scratch (R391). -/
def sideBad (k : Core) (side : Option (Nat × Bool)) : Bool :=
  match side with
  | none => false
  | some (h, _) => decide (14 ≤ h) || !descInScratch k (desc k h)

/-- The admission checks (R391): fields, handles, shape, slots, index list, barrier. -/
def copyCheck (s : State) (c : Nat) (i : Instr) (shape : List Word) : Option Fatal :=
  let k := core s c
  let (a, b) := copySides i
  let sh := sideHandle a
  let dh := sideHandle b
  let (n1, n2) := rowCounts shape
  let (xs, xd) := sideExtents i shape
  if copyMalformed i then some (fENGINE 0x20)
  else if cpydBad s c i then some (fENGINE 0x26)
  else if sideBad k sh || sideBad k dh then some (fENGINE 0x21)
  else if (match shapeByte i with
      | some o => !ownScratch k o 40 || (twoDims i && n2 != 1)
      | none => false) then some (fENGINE 0x23)
  else if n1 = 0 ∨ n2 = 0 then some (fENGINE 0x20)
  else if !inSlot k sh xs || !inSlot k dh xd then some (fENGINE 0x22)
  else if (match indexList i with
      | some (o, n) => !ownScratch k o (4 * n)
      | none => false) then some (fENGINE 0x23)
  else
    match copyBarrier i with
    | none => none
    | some b => if (barrierKey s c b).isNone then some (fWINDOW 0) else none

/-! ## Start and admission (R377, R379) -/

/-- The head command of h15, if it may start: its words, and whether they are framed (R245). -/
def copyHead (s : State) (c : Nat) : Option (List Word × Bool) :=
  let d := desc (core s c) 15
  if d.filled = 0 then none
  else
    let w := ringWord s c 15 0
    let marker (x : Word) : Bool := bits x 63 56 == 0xFF
    if marker w || decide (7 < (FCmd.parse w).cmd.toNat) then some ([w], false)
    else
      let n := copyWords (FCmd.parse w).cmd
      if d.filled < n then none
      else
        let ws := (List.range n).map fun i => ringWord s c 15 i
        some (ws, ws.tail.all marker)

/-- Take the words out of the ring. -/
def copyStart (s : State) (c : Nat) : State :=
  if (core s c).copy.adm.isSome then s
  else
    match copyHead s c with
    | none => s
    | some (ws, ok) =>
      let n := (core s c).copy.taken
      let s := setDesc s c 15 (freeSlots (desc (core s c) 15) ws.length)
      let s := modCopy s c fun x =>
        { x with
          adm := some { words := ws, role := tabD x.owners n .L, waited := false, sq := n }
          taken := n + ws.length
          owners := x.owners.filter fun e => decide (n + ws.length ≤ e.1) }
      if ok then s else copyFatal s c ws (fENGINE 0x20) 0

/-- Claims on source slots of a handle, not yet freed. -/
def srcClaims (k : Core) (h : Nat) : Nat :=
  (k.copy.jobs.filter fun j =>
    match j.src with
    | some (h', _, cl) => h' == h && cl && !j.freed
    | none => false).length

/-- Destination slots of a handle claimed and not yet published. -/
def dstClaims (k : Core) (h : Nat) : Nat :=
  (k.copy.jobs.filter fun j =>
    match j.dst with
    | some (h', _) => h' == h && !j.pubd
    | none => false).length

/-- The slots that a command waits for are there (R379); a handle that the checks refuse is not waited for. -/
def slotsReady (k : Core) (i : Instr) : Bool :=
  let (a, b) := copySides i
  let sh := sideHandle a
  let dh := sideHandle b
  (match sh with
    | some (h, _) => sideBad k sh || decide (srcClaims k h < (desc k h).filled)
    | none => true) &&
    (match dh with
    | some (h, _) => sideBad k dh || decide ((desc k h).filled + dstClaims k h < (desc k h).slots)
    | none => true)

/-- A stop holds up admission (R392). -/
def engineStopped (k : Core) : Bool := k.copy.jobs.any fun j => j.stopped || j.refused.isSome

/-- The five words of a shape record. -/
def shapeWords (s : State) (c : Nat) (i : Instr) : List Word :=
  match shapeByte i with
  | some o => wordsOf 5 (poolRead s c o 40)
  | none => []

/-- The wait byte of a command whose words do not decode is still waited for, but a reserved condition is not. -/
def admissionWaits (k : Core) (w : Word) : Bool := (wordWs w).wcond != 3 && !waitMet k (wordWs w)

/-- The wait byte of a command is satisfied, and the copy engine is to be served (R244, R273). -/
def admissionTurn (s : State) (c : Nat) (w : Word) : Bool := (wordWs w).wcond == 3 || waitTurn s c 4 (wordWs w)

/-- Admit the command that waits, if it may be admitted. -/
def copyAdmit (s : State) (c : Nat) : State :=
  let k := core s c
  match k.copy.adm with
  | none => s
  | some p =>
    let w := p.words.headD 0
    if 8 ≤ k.copy.jobs.length ∨ engineStopped k ∨ !admissionTurn s c w then s
    else
      match decodeCopy p.words with
      | .error _ => copyFatal s c p.words (fENGINE 0x20) 0
      | .ok i =>
        if !slotsReady k i then s
        else
          let shape := shapeWords s c i
          match copyCheck s c i shape with
          | some f => copyFatal s c p.words f 0
          | none =>
            let (a, b) := copySides i
            let src : Option (Nat × Nat × Bool) := match sideHandle a with
              | some (h, pop) => some (h, ((desc k h).ridx + srcClaims k h) % (desc k h).slots, pop)
              | none => none
            let dst : Option (Nat × Nat) := match sideHandle b with
              | some (h, _) => some (h, ((desc k h).widx + dstClaims k h) % (desc k h).slots)
              | none => none
            let s := takeWait s c (wordWs w)
            let (s, id) := freshId s
            let j : CJob :=
              { id := id, sq := p.sq, words := p.words, role := p.role, shape := shape, src := src, dst := dst,
                row := 0, prog := 0, left := [], fetched := [], refused := none, failed := none, readDone := false, accessed := false, freed := false,
                pubd := false, stopped := false, flags := 0 }
            modCopy s c fun x => { x with adm := none, jobs := x.jobs ++ [j] }

/-- COPY_JOB_ADMISSION (R377): the head command starts, and the command in admission is admitted. -/
def execCopyJobAdmission (c : Nat) (s : State) : Host.Outcome State Fault Refusal :=
  if !coreExists s c then .next s else .next (copyAdmit (copyStart s c) c)

/-! ## Sending a row (R378, R380, R381) -/

/-- Bytes of a mask. -/
def maskCount (m : BitVec 128) : Nat := ((List.range 128).filter fun i => m.getLsbD i).length

/-- Count performed bytes against a job's barrier. -/
def countBytes (s : State) (bar : Option Nat) (n : Nat) : State :=
  match bar with
  | none => s
  | some key => barPut s key (barCount (barGet s key) n)

/-- How far the writes of a row have come. -/
inductive Sent where
  | done (s : State)
  | blocked (s : State) (rest : List JobLine)
  | refused (s : State) (rest : List JobLine) (tval : Word)

/-- The sixteen lines of a whole block as one request; none when it must be taken line by line. -/
def sendBlock : State → List JobLine → Option State
  | s, [] => some s
  | s, l :: r =>
    match sliceWrite s .loc (policyOf l.w.tgt) true (l.w.tgt.dpa / 128) l.w.mask l.w.data with
    | .done s => sendBlock s r
    | _ => none

/-- A block waits at its slice. -/
def blockHeld (s : State) (ls : List JobLine) : Bool :=
  ls.any fun l => lineHeld s (l.w.tgt.dpa / 128) || (lineVer s (l.w.tgt.dpa / 128) && s.ks.state == .voted)

/-- The data of a whole block (R378). -/
def blockData (ls : List JobLine) : BitVec 16384 := BitVec.ofNat 16384 (leNat (ls.flatMap fun l => lineBytes l.w.data))

/-- Lines of a block that is written line by line. -/
def lineByLine (ls : List JobLine) : List JobLine := ls.map fun l => { l with blk := false }

/-- Send ready lines in order. `bar`: the job's barrier. -/
def sendLines (c id : Nat) (bar : Option Nat) : (fuel : Nat) → State → List JobLine → Sent
  | 0, s, ls => .blocked s ls
  | _, s, [] => .done s
  | fuel + 1, s, l :: rest =>
    match l.op with
    | some x =>
      match l.w.tgt.peer with
      | some d => sendLines c id bar fuel (peerSend s d (.contribute x) (.job c id l.off)).1 rest
      | none =>
        let (s, no) := freshId s
        sendLines c id bar fuel
          { s with contribs := s.contribs ++ [{ no := no, x := x, off := l.off, st := .sent, tgt := l.w.tgt, gn := 0 }] } rest
    | none =>
      if l.w.tgt.peer = some 4096 then
        sendLines c id bar fuel (countBytes (poolMasked s l.w.tgt.dpa l.w.mask l.w.data) bar (maskCount l.w.mask)) rest
      else
        let blk := (l :: rest).take 16
        match l.w.tgt.peer with
        | some d =>
          if l.blk then
            sendLines c id bar fuel
              (peerSend s d (.block (BitVec.ofNat 44 l.w.tgt.dpa) (blockData blk)) (.job c id l.off)).1 (rest.drop 15)
          else
            sendLines c id bar fuel
              (peerSend s d (.write (BitVec.ofNat 44 l.w.tgt.dpa) l.w.mask l.w.data) (.job c id l.off)).1 rest
        | none =>
          if l.blk ∧ blockHeld s blk then .blocked s (l :: rest)
          else
            match (if l.blk then sendBlock s blk else none) with
            | some t => sendLines c id bar fuel (countBytes t bar 2048) (rest.drop 15)
            | none =>
              let line := l.w.tgt.dpa / 128
              if lineHeld s line then .blocked s (l :: rest)
              else
                match sliceWrite s .loc (policyOf l.w.tgt) false line l.w.mask l.w.data with
                | .done s => sendLines c id bar fuel (countBytes s bar (maskCount l.w.mask)) rest
                | .full s v => .refused s (if l.blk then lineByLine blk ++ rest.drop 15 else l :: rest) v
                | _ => .blocked s (l :: rest)

/-! ## Reading a row -/

/-- A row of a job: where it is read (none: the pattern of a fill), where it is written, its length and its job-order
offset. -/
structure Row where
  src : Option Nat
  dst : Nat
  n   : Nat
  off : Nat
  deriving DecidableEq, Repr

/-- How a row's reads end. -/
inductive Fetched where
  | bytes (s : State) (bs : List Byte)
  | wait (s : State)
  | fatal (s : State) (f : Fatal)

/-- "Do not allocate" for a streaming job (R378). -/
def jobTarget (strm : Bool) (t : Target) : Target := if strm then { t with alloc := 2 } else t

/-- The bytes a peer has answered for a piece of the row. -/
def peerBytes (j : CJob) (d dpa n : Nat) : Option (List Byte) :=
  (j.fetched.find? fun e => e.1 == d && e.2.1 == dpa && e.2.2.length == n).map (·.2.2)

/-- Ask a peer for a piece of the row, once. -/
def askPeer (s : State) (c : Nat) (j : CJob) (d dpa n : Nat) : State :=
  let op : PeerOp := .read (BitVec.ofNat 44 dpa) n
  if s.peerOut.any fun p => p.dev == d && p.op == op && p.who == .job c j.id j.prog then s
  else (peerSend s d op (.job c j.id j.prog)).1

/-- Ask for every piece that a peer holds and that has not come. -/
def askPeers (c : Nat) (j : CJob) : State → List (Nat × Nat × Loc) → State
  | s, [] => s
  | s, (_, n, .dev t _) :: r =>
    match t.peer with
    | some d => askPeers c j (if (peerBytes j d t.dpa n).isSome then s else askPeer s c j d t.dpa n) r
    | none => askPeers c j s r
  | s, _ :: r => askPeers c j s r

/-- A piece of the row cannot be read now. -/
def pieceWaits (s : State) (j : CJob) : Nat × Nat × Loc → Bool
  | (_, n, .dev t _) =>
    match t.peer with
    | some d => (peerBytes j d t.dpa n).isNone
    | none => lineHeld s (t.dpa / 128)
  | _ => false

/-- Read the pieces of a row in order. -/
def readPieces (strm : Bool) (j : CJob) : State → List (Nat × Nat × Loc) → Fetched
  | s, [] => .bytes s []
  | s, (a, n, l) :: r =>
    let (s, bs, bad) : State × List Byte × Option Nat := match l with
      | .pool key => (s, readBytes s.mem key n, none)
      | .dev t _ =>
        match t.peer with
        | some d => (s, (peerBytes j d t.dpa n).getD [], none)
        | none =>
          let (s, d, bad) := sliceRead s (policyOf (jobTarget strm t)) t.cv (t.dpa / 128) (t.dpa % 128) n
          (s, bytesFrom d (t.dpa % 128) n, if bad then some t.dpa else none)
    match bad with
    | some dpa => .fatal s (fatalAt 0x44 1 a dpa)
    | none =>
      match readPieces strm j s r with
      | .bytes s ds => .bytes s (bs ++ ds)
      | e => e

/-- The mode that a job's accesses are judged in: a worker's job belongs to its user context (log 33). -/
def jobUser (c : Nat) : Bool := !isSystem c

/-- Locate the lines that a row is read from; the error carries the failing address. -/
def jobLocate (c : Nat) : State → List (Nat × Nat) → Except (Nat × XErr) (State × List (Nat × Nat × Loc))
  | s, [] => .ok (s, [])
  | s, (a, n) :: r =>
    match coreLoc s c .read (jobUser c) false false a n with
    | .error e => .error (a, e)
    | .ok (s, l) =>
      match jobLocate c s r with
      | .error e => .error e
      | .ok (s, ls) => .ok (s, (a, n, l) :: ls)

/-- Locate the lines that write a row up to the first that fails, and that failure with its address. A contribution asks its
leaf for W alone (R36, R123); its line in a pool slot fails as well (R29). -/
def writeLocs (c : Nat) (red : Bool) :
    State → List (Nat × Nat) → State × List (Nat × Nat × Loc) × Option (Nat × XErr)
  | s, [] => (s, [], none)
  | s, (a, n) :: r =>
    match coreLoc s c .write (jobUser c) false true a n with
    | .error e => (s, [], some (a, e))
    | .ok (t, l) =>
      let inPool : Bool := match l with
        | .pool _ => true
        | .dev _ _ => false
      if red && inPool then (s, [], some (a, .window))
      else
        let (t, ls, f) := writeLocs c red t r
        (t, (a, n, l) :: ls, f)

/-- Read a row whole (R380). -/
def readRow (s : State) (c : Nat) (strm : Bool) (j : CJob) (pat : Word) (r : Row) : Fetched :=
  match r.src with
  | none => .bytes s (((List.replicate (r.n / 8 + 1) (wordBytes pat)).flatten).take r.n)
  | some a =>
    match jobLocate c s (linesOf a r.n) with
    | .error (va, e) => if e = .held then .wait s else .fatal s (xFatal va e)
    | .ok (t, ls) =>
      if ls.any (pieceWaits t j) then .wait (askPeers c j t ls) else readPieces strm j t ls

/-! ## The lines of a row -/

/-- A contribution's body. -/
structure RedcBody where
  op    : SliceOp
  dbl   : Bool
  group : BitVec 8
  srcid : BitVec 16
  deriving DecidableEq, Repr

/-- The lines that write a row, in ascending order. -/
def rowLines (c : Nat) (j : CJob) (strm : Bool) (red : Option RedcBody) (r : Row) (bs : List Byte) :
    List (Nat × Nat × Loc) → List JobLine
  | [] => []
  | (a, n, l) :: rest =>
    let t := match l with
      | .pool key => { poolTarget key with dpa := key / 128 * 128 }
      | .dev t _ => lineTarget (jobTarget strm t)
    let o := match l with
      | .pool key => key % 128
      | .dev t _ => t.dpa % 128
    let mask := byteMask o n
    let data := bytesAt o ((bs.drop (a - r.dst)).take n)
    let b := a / 2048 * 2048
    let op : Option Contribution := red.map fun x =>
      { op := x.op, dbl := x.dbl, group := x.group, srcid := x.srcid, line := t.dpa / 128, mask := mask, data := data,
        src := .job c j.id }
    { w := ⟨t, mask, data⟩, op := op, off := r.off + (a - r.dst),
      blk := red.isNone && t.peer != some 4096 && decide (r.dst ≤ b ∧ b + 2048 ≤ r.dst + r.n) } ::
      rowLines c j strm red r bs rest

/-! ## Running a job -/

/-- What a command does row by row. -/
structure Plan2 where
  rows : Nat
  row  : State → Nat → Except Fatal Row
  strm : Bool
  pat  : Word
  red  : Option RedcBody

/-- Where a job's accesses stand after a turn. -/
inductive JobRes where
  | fatal (s : State) (f : Fatal) (prog : Nat)
  | on (s : State) (j : CJob)

/-- Send what is ready, then read row after row and send it, until something holds the job. A row whose write fails at a line
is written below it (R46; log 20). -/
def runRows (c : Nat) (bar : Option Nat) (p : Plan2) : (fuel : Nat) → State → CJob → JobRes
  | 0, s, j => .on s j
  | fuel + 1, s, j =>
    match sendLines c j.id bar (j.left.length + 1) s j.left with
    | .blocked s rest => .on s { j with left := rest }
    | .refused s rest v => .on s { j with left := rest, refused := some v }
    | .done s =>
      let j := { j with left := [] }
      if p.rows ≤ j.row then .on s { j with accessed := true }
      else
        match p.row s j.row with
        | .error f => .fatal s f j.prog
        | .ok r =>
          match readRow s c p.strm j p.pat r with
          | .fatal s f => .fatal s f r.off
          | .wait s => .on s j
          | .bytes s bs =>
            let (t, ls, bad) := writeLocs c p.red.isSome s (linesOf r.dst r.n)
            let out := rowLines c j p.strm p.red r bs ls
            match bad with
            | some (va, e) =>
              if e = .held then .on s j
              else
                match sendLines c j.id bar (out.length + 1) t out with
                | .done t => .fatal t (xFatal va e) (r.off + (va - r.dst))
                | .refused t rest _ => .fatal t (xFatal va e) ((rest.head?.map (·.off)).getD r.off)
                | .blocked _ _ => .on s j
            | none =>
              runRows c bar p fuel t
                { j with left := out, row := j.row + 1, prog := r.off + r.n, fetched := [],
                         readDone := decide (p.rows ≤ j.row + 1) }

/-- The virtual base of a side: its address, or its claimed slot (R379). -/
def sideBase (k : Core) (side : CopySide) (slot : Option (Nat × Nat)) : Nat :=
  match side, slot with
  | .addr a, _ => a.toNat
  | .handle _ _, some (h, i) => NW + slotByte (desc k h) i
  | .handle _ _, none => 0

def srcSlot (j : CJob) : Option (Nat × Nat) := j.src.map fun x => (x.1, x.2.1)

/-- Earlier jobs of the list hold back a source slot's freeing (R379). -/
def freeBlocked (before : List CJob) (h idx : Nat) : Bool :=
  before.any fun i =>
    match i.src with
    | some (h', x, cl) => h' == h && ((cl && !i.freed) || (x == idx && !i.readDone))
    | none => false

/-- Earlier jobs of the list hold back a publish (R379). -/
def pubBlocked (before : List CJob) (h : Nat) : Bool :=
  before.any fun i =>
    match i.dst with
    | some (h', _) => h' == h && !i.pubd
    | none => false

/-- The handle operations that jobs may now make, in admission order (R379). -/
def settleJobs (c : Nat) : State → List CJob → List CJob → State
  | s, done, [] => modCopy s c fun x => { x with jobs := done }
  | s, done, j :: rest =>
    let (s, j) : State × CJob := match j.src with
      | some (h, idx, true) =>
        if j.readDone ∧ !j.freed ∧ !freeBlocked done h idx then
          (setDesc s c h (freeSlots (desc (core s c) h) 1), { j with freed := true })
        else (s, j)
      | _ => (s, j)
    let (s, j) : State × CJob := match j.dst with
      | some (h, _) =>
        if j.accessed ∧ !j.pubd ∧ !pubBlocked done h then
          (setDesc s c h (publish (desc (core s c) h) 1), { j with pubd := true })
        else (s, j)
      | none => (s, j)
    settleJobs c s (done ++ [j]) rest

def settle (s : State) (c : Nat) : State := settleJobs c s [] (core s c).copy.jobs

/-- The turn of a command: the oldest job in flight of these words (log 20). -/
def copyTurn (i : Instr) (s : State) (f : Nat → CJob → State → JobRes) : Host.Outcome State Fault Refusal :=
  let c := s.cur.1
  if !coreExists s c then .next s
  else
    let mine (j : CJob) : Bool :=
      !j.accessed && !j.stopped && j.refused.isNone && j.failed.isNone && isCommand (decodeCopy j.words) i
    match (core s c).copy.jobs.find? mine with
    | none => .next s
    | some j =>
      match f c j s with
      | .fatal s e prog => .next (failJob s c j.id e prog)
      | .on s j => .next (settle (putJob s c j) c)

/-- The turn of a command that makes accesses. -/
def accessTurn (i : Instr) (s : State) (plan : Core → CJob → Plan2) : Host.Outcome State Fault Refusal :=
  copyTurn i s fun c j s =>
    let bar := match copyBarrier i with
      | some b => barrierKey s c b
      | none => none
    let p := plan (core s c) j
    runRows c bar p (p.rows + 1 - j.row) s j

/-! ## The commands -/

/-- Every earlier command of the ring has completed (R384, R390). -/
def earliest (k : Core) (j : CJob) : Bool := !(k.copy.jobs.any fun i => decide (i.sq < j.sq))

/-- CNOP (R384). -/
def execCnop (ws : WaitSig) (s : State) : Host.Outcome State Fault Refusal :=
  copyTurn (.cnop ws) s fun c j s => .on s { j with accessed := earliest (core s c) j }

/-- BARTX (R390). -/
def execBartx (ws : WaitSig) (bcore : BitVec 6) (boff : BitVec 17) (bytes : BitVec 48) (s : State) :
    Host.Outcome State Fault Refusal :=
  copyTurn (.bartx ws bcore boff bytes) s fun c j s =>
    if earliest (core s c) j then
      .on (countBytes s (barrierKey s c (bcore.toNat, 16 * boff.toNat)) bytes.toNat) { j with accessed := true }
    else .on s j

/-- An address 2^57 apart is the same (R385). -/
def strideAddr (b : Nat) (i1 i2 : Nat) (s1 s2 : Int) : Nat :=
  (((b : Int) + (i1 : Int) * s1 + (i2 : Int) * s2) % (2 ^ 57 : Nat)).toNat

/-- CPY (R385). -/
def execCpy (ws : WaitSig) (dims : BitVec 2) (src dst : CopySide) (x : CopyOpts) (len : BitVec 24) (shp : BitVec 18)
    (s : State) : Host.Outcome State Fault Refusal :=
  accessTurn (.cpy ws dims src dst x len shp) s fun k j =>
    let (n1, n2) := rowCounts j.shape
    let a := sideBase k src (srcSlot j)
    let b := sideBase k dst j.dst
    { rows := n1 * n2
      row := fun _ i =>
        .ok { src := some (strideAddr a (i % n1) (i / n1) (strideOf j.shape 1) (strideOf j.shape 3))
              dst := strideAddr b (i % n1) (i / n1) (strideOf j.shape 2) (strideOf j.shape 4)
              n := len.toNat, off := i * len.toNat }
      strm := x.strm, pat := 0, red := none }

/-- CPYD (R386): block by block; a CMP block's data is what a plain load returns. -/
def execCpyd (ws : WaitSig) (sa : BitVec 57) (dst : CopySide) (x : CopyOpts) (len : BitVec 24) (s : State) :
    Host.Outcome State Fault Refusal :=
  accessTurn (.cpyd ws sa dst x len) s fun k j =>
    let b := sideBase k dst j.dst
    { rows := len.toNat / 2048
      row := fun _ i =>
        .ok { src := some ((sa.toNat + 2048 * i) % 2 ^ 57), dst := b + 2048 * i, n := 2048, off := 2048 * i }
      strm := x.strm, pat := 0, red := none }

/-- The address of an indexed element (R387): the index is read as the element is issued. -/
def indexedAddr (c : Nat) (t e : Nat) (idx : Nat) (s : State) (i : Nat) : Except Fatal Nat :=
  let x := leNat (poolRead s c (4 * idx + 4 * i) 4)
  let a := (t + x * 2 ^ e) % 2 ^ 57
  if a % min (2 ^ e) 8 ≠ 0 then .error (fALIGN a) else .ok a

/-- GATH (R387). -/
def execGath (ws : WaitSig) (table : BitVec 57) (dst : CopySide) (x : CopyOpts) (nm1 : BitVec 16) (esz : BitVec 4)
    (idx : BitVec 19) (s : State) : Host.Outcome State Fault Refusal :=
  let c := s.cur.1
  accessTurn (.gath ws table dst x nm1 esz idx) s fun k j =>
    let b := sideBase k dst j.dst
    let z := 2 ^ esz.toNat
    { rows := nm1.toNat + 1
      row := fun s i => do
        let a ← indexedAddr c table.toNat esz.toNat idx.toNat s i
        .ok { src := some a, dst := (b + i * z) % 2 ^ 57, n := z, off := i * z }
      strm := x.strm, pat := 0, red := none }

/-- SCAT (R387). -/
def execScat (ws : WaitSig) (src : CopySide) (table : BitVec 57) (x : CopyOpts) (nm1 : BitVec 16) (esz : BitVec 4)
    (idx : BitVec 19) (s : State) : Host.Outcome State Fault Refusal :=
  let c := s.cur.1
  accessTurn (.scat ws src table x nm1 esz idx) s fun k j =>
    let a := sideBase k src (srcSlot j)
    let z := 2 ^ esz.toNat
    { rows := nm1.toNat + 1
      row := fun s i => do
        let d ← indexedAddr c table.toNat esz.toNat idx.toNat s i
        .ok { src := some ((a + i * z) % 2 ^ 57), dst := d, n := z, off := i * z }
      strm := x.strm, pat := 0, red := none }

/-- FILL (R388). -/
def execFill (ws : WaitSig) (dst : CopySide) (x : CopyOpts) (len : BitVec 24) (pat : BitVec 64) (s : State) :
    Host.Outcome State Fault Refusal :=
  accessTurn (.fill ws dst x len pat) s fun k j =>
    let b := sideBase k dst j.dst
    { rows := 1
      row := fun _ _ =>
        if b % 8 ≠ 0 then .error (fALIGN b) else .ok { src := none, dst := b, n := len.toNat, off := 0 }
      strm := x.strm, pat := pat, red := none }

/-- REDC (R389). -/
def execRedc (ws : WaitSig) (src : CopySide) (da : BitVec 57) (x : CopyOpts) (len : BitVec 24) (op : BitVec 4)
    (dbl : Bool) (group : BitVec 8) (srcid : BitVec 16) (s : State) : Host.Outcome State Fault Refusal :=
  accessTurn (.redc ws src da x len op dbl group srcid) s fun k j =>
    let a := sideBase k src (srcSlot j)
    { rows := 1
      row := fun _ _ =>
        if da.toNat % redcWidth dbl ≠ 0 then .error (fALIGN da.toNat)
        else .ok { src := some a, dst := da.toNat, n := len.toNat, off := 0 }
      strm := x.strm, pat := 0
      red := some { op := (SliceOp.ofCode op).getD .add, dbl := dbl, group := group, srcid := srcid } }

/-! ## Stop and completion (R377, R392) -/

/-- The TVAL of a job's refused write or contribution to a line. -/
def refusedAt (s : State) (c : Nat) (j : CJob) (line : Nat) : Option Word :=
  match j.refused.filter fun _ => j.left.any fun l => l.w.tgt.dpa / 128 == line with
  | some v => some v
  | none =>
    s.contribs.findSome? fun x =>
      match x.st with
      | .refused v => if ofJob c j.id x ∧ x.x.line = line then some v else none
      | _ => none

/-- A line that was not performed goes back among a job's lines, in job order (R380, R392). -/
def backLine (l : JobLine) : List JobLine → List JobLine
  | [] => [l]
  | x :: r => if x.off < l.off then x :: backLine l r else l :: x :: r

/-- COPY_JOB_STOP (R392): the job sends no further requests; what its slices refused is among its unperformed lines; its
placing role takes SHADOW_FULL, or is fatal at fin. -/
def execCopyJobStop (c id line : Nat) (s : State) : Host.Outcome State Fault Refusal :=
  if !coreExists s c then .next s
  else
    match findJob (core s c) id with
    | none => .next s
    | some j =>
      match refusedAt s c j line with
      | none => .next s
      | some v =>
        let back := s.contribs.filter fun x => ofJob c id x && turnedAway x
        let lines : List JobLine := back.map fun x =>
          { w := ⟨x.tgt, x.x.mask, x.x.data⟩, op := some x.x, off := x.off, blk := false }
        let joined := (core s c).copy.jobs.any fun i => i.stopped && i.role == j.role
        let s := { s with contribs := s.contribs.filter fun x => !(ofJob c id x && turnedAway x) }
        let j := { j with left := lines.foldl (fun ls l => backLine l ls) j.left, refused := none, stopped := true, accessed := false }
        let s := settle (putJob s c j) c
        if joined then .next s
        else if (getRole s c j.role).fin then .next (copyFatal s c j.words (fENGINE 0x25) (jobProgAt s c j))
        else
          let s := modCopy s c fun x => { x with stopTval := tabSet x.stopTval (roleNum j.role) (putBits v 5 0 0) }
          if trapPending (getRole s c j.role) then .next s else .next (holdAsync s c j.role tSHADOW)

/-- Requests of a job are still in flight. -/
def jobOutstanding (s : State) (c id : Nat) : Bool :=
  s.contribs.any (ofJob c id) || s.peerOut.any (jobAsks c id)

/-- The handle operations of a job are made. -/
def handlesDone (j : CJob) : Bool :=
  (match j.src with
    | some (_, _, cl) => !cl || j.freed
    | none => true) && (j.dst.isNone || j.pubd)

/-- COPY_JOB_COMPLETION (R377): every write is acknowledged and every handle operation made; the group-0 flags enter
FLAGS of the placing role (R389) and the signal byte acts. -/
def execCopyJobCompletion (c id : Nat) (s : State) : Host.Outcome State Fault Refusal :=
  if !coreExists s c then .next s
  else
    let s := settle s c
    match findJob (core s c) id with
    | none => .next s
    | some j =>
      if !j.accessed ∨ !j.left.isEmpty ∨ j.stopped ∨ j.refused.isSome ∨ j.failed.isSome ∨ jobOutstanding s c id ∨ !handlesDone j then .next s
      else
        let s := orFlags s c j.role j.flags
        let s := signal s c (wordWs (j.words.headD 0))
        .next (modCopy s c fun x => { x with jobs := x.jobs.filter fun i => i.id != id })

/-! ## Resending (R132) -/

/-- CONTRIBUTION_RESEND (R132): the oldest contribution of a job that a slice turned away with a retry status goes out
again; a stopped job sends nothing. -/
def execContributionResend (c id : Nat) (s : State) : Host.Outcome State Fault Refusal :=
  if !coreExists s c then .next s
  else
    match findJob (core s c) id with
    | none => .next s
    | some j =>
      match s.contribs.find? fun x => ofJob c id x && x.st == .retry with
      | none => .next s
      | some x =>
        if j.stopped ∨ j.failed.isSome then .next s
        else
          match x.tgt.peer with
          | some d =>
            let s := { s with contribs := s.contribs.filter fun y => y != x }
            .next (peerSend s d (.contribute x.x) (.job c id x.off)).1
          | none =>
            let (s, no) := freshId s
            .next { s with contribs := s.contribs.filter (· != x) ++ [{ x with no := no, st := .sent }] }

end Sys2Proof.Machine
end

