-- ==== Sys2Proof/Machine/Device.lean ====
section
/-! DEFINITION. Sys2Proof/Machine/Device.lean: the device's memory-side registers: XID writes (R27, R33), the second-touch
filter (R63), carve-outs (R64, R65, R155), metadata registration (R70, R172) and the patrol scrubber (R74 to R76). -/

namespace Sys2Proof.Machine

/-! ## Filter (R63) -/

/-- SECOND_TOUCH_FILTER_CLEAR (R63): at 2^20 misses the filter and the count are cleared. -/
def execSecondTouchFilterClear (sl : Nat) (s : State) : Host.Outcome State Fault Refusal :=
  if 256 ≤ sl then .next s
  else
    let x := slice s sl
    .next (if 2 ^ 20 ≤ x.misses then setSlice s sl { x with fbits := [], misses := 0 } else s)

/-! ## XID registers (R27, R33) -/

/-- A write to HXID: the host window takes the XID and its root entry. -/
def hxidWrite (s : State) (x : Word) : State :=
  let s := setReg s rHxid (BitVec.ofNat 64 (bits x 15 0))
  { s with hostRoot := rootEntry s (bits x 15 0) }

/-- XID_WRITE (R33): unit u is core u, or the host window for 964. -/
def execXidWrite (u : Nat) (x : BitVec 64) (s : State) : Host.Outcome State Fault Refusal :=
  if u = 964 then .next (hxidWrite s x)
  else if coreExists s u then .next (loadXid s u (BitVec.ofNat 16 (bits x 15 0)))
  else .next s

/-! ## Carve-outs (R64, R65, R155) -/

/-- A write lowers SHADOW below what a slice of the Deck holds (R155). -/
def shadowsOver (s : State) (d new : Nat) : Bool :=
  (List.range 64).any fun k => decide (1024 * new < shadowCount s (64 * d + k))

/-- A write to CARVE: granules of 8 MiB, up to R10's 48 of a die (R155). -/
def carveSet (s : State) (d : Nat) (x : Word) : State :=
  let old := reg s (rCarve d)
  let size := bits x 5 0
  let sh := bits x 13 8
  if 48 < size + sh ∨ bit old 63 ∨ (sh < bits old 13 8 ∧ shadowsOver s d sh) then putReg s (rCarve d) 62 62 1
  else
    let s := setReg s (rCarve d) (ofFields [(63, 1), (8, sh), (0, size)])
    { s with carveOld := tabSet s.carveOld d (bits old 5 0, bits old 13 8) }

/-- CARVE_WRITE (R64). -/
def execCarveWrite (d : Nat) (x : BitVec 64) (s : State) : Host.Outcome State Fault Refusal :=
  if 4 ≤ d then .next s else .next (carveSet s d x)

/-- Evict n lines of a slice's cache. -/
def evictLines (sl : Nat) : (n : Nat) → State → State
  | 0, s => s
  | n + 1, s =>
    match deckUse s sl with
    | [] => s
    | l :: r => evictLines sl n (nextTick (deckEvict s ((l :: r).getD (Config.deckVictim s.tick % (r.length + 1)) l)))

/-- A slice's cache fits its capacity again. -/
def fitCache (s : State) (sl : Nat) : State := evictLines sl ((deckUse s sl).length - deckCap s sl) s

/-- CARVE_RESIZE_DONE (R65): lines of the capacity taken are gone; granules added read zero and granules removed are
discarded. -/
def execCarveResizeDone (d : Nat) (s : State) : Host.Outcome State Fault Refusal :=
  if 4 ≤ d then .next s
  else if !bit (reg s (rCarve d)) 63 then .next s
  else
    let new := bits (reg s (rCarve d)) 5 0
    let old := (tabD s.carveOld d (new, 0)).1
    let a := 2 ^ 40 + d * 2 ^ 30 + 2 ^ 23 * min old new
    let b := 2 ^ 40 + d * 2 ^ 30 + 2 ^ 23 * max old new
    let inside (k : Nat) : Bool := decide (a ≤ k ∧ k < b)
    let s := { s with
      mem := s.mem.filter fun c => !inside c.1
      poison := s.poison.filter fun w => !inside (64 * w)
      carveOld := tabDel s.carveOld d }
    let s := putReg s (rCarve d) 63 63 0
    .next ((List.range 64).foldl (fun s k => fitCache s (64 * d + k)) s)

/-! ## Metadata registration (R70, R172) -/

/-- The blocks of a controller's granule. -/
def granuleBlocks (n g : Nat) : List Nat := (List.range 32).map fun i => blockOf n (32 * g + i)

/-- A word of the granule at a block is registered. -/
def blockRegistered (s : State) (blk : Nat) : Bool := metaCmp (metaOf s blk) || metaVer (metaOf s blk)

/-- A level that is being opened (R164). -/
def openingLevel (s : State) : List SnLevel :=
  match s.snFlight with
  | some ⟨_, _, _, _, .opening _ l, _⟩ => [l]
  | _ => []

/-- Some byte of a controller's granule lies in the DPA range of an open level, or of one that is being opened (R160). -/
def granuleOpen (s : State) (n g : Nat) : Bool :=
  let levels := openingLevel s ++ s.snap.flatMap fun e => e.2.levels
  (granuleBlocks n g).any fun b => levels.any fun l => decide (b < l.dpa + l.len ∧ l.dpa < b + 2048)

/-- A write to MDREG is refused (R70, R160, R172): with EN = 0 or BUSY = 1 whatever its OP. -/
def mdregRefused (s : State) (n : Nat) (x : Word) : Bool :=
  let old := reg s (rMdreg n)
  let blk := blockOf n (32 * bits x 36 16)
  let has := blockRegistered s blk
  let pair := blk ^^^ 2 ^ 39
  !bit (reg s (rMdbase n)) 0 || bit old 61 ||
    (match bits x 63 62 with
    | 1 => (!bit x 59 && !bit x 58) || has || (bit x 58 && blockRegistered s pair) || metaVer (metaOf s pair) ||
        granuleOpen s n (bits x 36 16)
    | 2 => !has || (metaVer (metaOf s blk) && !ksIdle s)
    | 0 => false
    | _ => true)

/-- A write to MDREG: a command runs while BUSY is 1; OP 00b does nothing more than clear ERR. -/
def mdregSet (s : State) (n : Nat) (x : Word) : State :=
  if mdregRefused s n x then putReg s (rMdreg n) 60 60 1
  else if bits x 63 62 = 0 then putReg s (rMdreg n) 60 60 0
  else
    setReg s (rMdreg n) (ofFields [(62, bits x 63 62), (61, 1), (59, bits x 59 59), (58, bits x 58 58), (16, bits x 36 16)])

/-- MDREG_REGISTER (R70): MDREG written with OP 01b. -/
def execMdregRegister (n : Nat) (x : BitVec 64) (s : State) : Host.Outcome State Fault Refusal :=
  if 8 ≤ n then .next s else .next (mdregSet s n (putBits x 63 62 1))

/-- MDREG_DEREGISTER (R70): MDREG written with OP 10b. -/
def execMdregDeregister (n : Nat) (x : BitVec 64) (s : State) : Host.Outcome State Fault Refusal :=
  if 8 ≤ n then .next s else .next (mdregSet s n (putBits x 63 62 2))

/-- Register a block (R70). -/
def registerBlock (cmp ver : Bool) (s : State) (blk : Nat) : State :=
  setMeta s blk (ofFields [(12, if cmp && ver then 7 else 0), (9, if cmp then 7 else 0), (1, cmp.toNat), (0, ver.toNat)])

/-- Deregister a block (R70, R172). -/
def deregisterBlock (s : State) (blk : Nat) : State :=
  let w := metaOf s blk
  let s := if metaVer w ∧ committedSlot s w = 1 then copyForward s blk 1 0 0 false else s
  setMeta s blk 0

/-- MDREG_DONE (R70). -/
def execMdregDone (n : Nat) (s : State) : Host.Outcome State Fault Refusal :=
  if 8 ≤ n then .next s
  else
    let r := reg s (rMdreg n)
    if !bit r 61 then .next s
    else
      let bs := granuleBlocks n (bits r 36 16)
      let s := setReg s (rMdreg n) 0
      .next (if bits r 63 62 = 1 then bs.foldl (registerBlock (bit r 59) (bit r 58)) s else bs.foldl deregisterBlock s)

/-! ## Patrol scrubbing (R74 to R76) -/

/-- What the scrubber does about a codeword of HBM: a correctable one is rewritten corrected, an uncorrectable one is marked
poisoned in place (log 15). -/
def scrubOne (n : Nat) (s : State) (x : ScrubFinding) : State :=
  if 2 ^ 40 ≤ x.dpa ∨ ctrlOf x.dpa ≠ n then s
  else
    let s := ehLog s n (if x.correctable then 1 else 2) x.dpa x.pc.toNat x.bank.toNat x.row.toNat x.nsym.toNat
    if x.correctable || s.poison.contains (x.dpa / 64) then s else { s with poison := s.poison ++ [x.dpa / 64] }

/-- PATROL_SCRUB (R74): a row is read; the last row ends a pass. -/
def execPatrolScrub (n : Nat) (found : List ScrubFinding) (lastRow : Bool) (s : State) :
    Host.Outcome State Fault Refusal :=
  if 8 ≤ n then .next s
  else if !bit (reg s (rScrubctl n)) 63 then .next s
  else
    let s := found.foldl (scrubOne n) s
    .next (if lastRow then countReg s (rScrubctl n) 47 32 1 else s)

/-- A write to SCRUBCTL: PERIOD 0 leaves the field unchanged (R74). -/
def scrubctlWrite (s : State) (n : Nat) (x : Word) : State :=
  let s := putReg s (rScrubctl n) 63 63 (bits x 63 63)
  if bits x 7 0 = 0 then s else putReg s (rScrubctl n) 7 0 (bits x 7 0)

end Sys2Proof.Machine
end

