-- ==== Sys2Proof/Machine/Reduce.lean ====
section
/-! DEFINITION. Sys2Proof/Machine/Reduce.lean: ordered reductions at the home slices (R129 to R133): contributions,
rounds, the early-arrival buffer, and the group registers. -/

namespace Sys2Proof.Machine

/-! ## Groups (R130) -/

def groupOn (s : State) (n : Nat) : Bool := bit (reg s (rRgrp n)) 63

def groupBusy (s : State) (n : Nat) : Bool := bit (reg s (rRgrp n)) 61

def groupLast (s : State) (n : Nat) : Nat := bits (reg s (rRgrp n)) 59 54

/-- The slot of a source in its group's table, if it is in a used slot. -/
def slotOf (s : State) (n : Nat) (src : BitVec 16) : Option Nat :=
  let t := (tabD s.slotTabs n []).take (groupLast s n + 1)
  let i := t.findIdx fun x => x == src
  if i < t.length then some i else none

/-- OR flags into RGRPn.FLAGS, whose bits 50 to 53 are INV, OVF, UNF, NX (log 34). -/
def groupFlags (s : State) (n : Nat) (f : BitVec 5) : State :=
  let r := reg s (rRgrp n)
  putReg s (rRgrp n) 53 50 (bits r 53 50 ||| bits f 3 0)

/-! ## Rounds (R131) -/

/-- The cursor of a line's open round. -/
def roundAt (s : State) (g line : Nat) : Option Nat :=
  (s.rounds.find? fun r => r.group == g && r.line == line).map (·.cursor)

/-- Set or close a line's round after slot `k` has been applied. -/
def stepRound (s : State) (g line k : Nat) : State :=
  let rest := s.rounds.filter fun r => !(r.group == g && r.line == line)
  if k = groupLast s g then { s with rounds := rest }
  else { s with rounds := rest ++ [{ group := g, line := line, cursor := k + 1 }] }

/-- Rounds open at a slice. -/
def roundsAt (s : State) (sl : Nat) : Nat := (s.rounds.filter fun r => homeSlice (128 * r.line) == sl).length

/-- Contributions held at a slice. -/
def heldAt (s : State) (sl : Nat) : Nat :=
  (s.contribs.filter fun x => x.st == .held && homeSlice (128 * x.x.line) == sl).length

/-! ## Applying a contribution (R129) -/

/-- New bytes of a line, element by element from element `i` on, and the flags. -/
def applyElems (op : SliceOp) (w : Nat) (mask : BitVec 128) (old x : Nat) : (n i : Nat) → Nat × BitVec 5
  | 0, _ => (0, 0)
  | n + 1, i =>
    let o := (old >>> (8 * w * i)) % 2 ^ (8 * w)
    let y := (x >>> (8 * w * i)) % 2 ^ (8 * w)
    let (v, f) := if mask.getLsbD (w * i) then sliceOp op (8 * w) o y else (o, 0)
    let (r, g) := applyElems op w mask old x n (i + 1)
    (v <<< (8 * w * i) ||| r, f ||| g)

/-- How a slice answers a contribution that it applies. -/
inductive Applied where
  | done (s : State) (fl : BitVec 5)
  | full (s : State) (tval : Word)
  | poisoned
  | mismatch
  | wait

/-- Apply a contribution as one serial step. A local write held for Keystone, or a line that waits, leaves it for later. -/
def applyLine (s : State) (src : WriteSrc) (t : Target) (x : Contribution) : Applied :=
  let w := if x.dbl then 8 else 4
  let s := resolvePending (fetchMeta s (128 * x.line)) x.line
  if lineHeld s x.line ∨ (src = .loc ∧ lineVer s x.line ∧ s.ks.state = .voted) then .wait
  else
    let p := viewLine s false x.line
    let s := tagCheck s p
    let bad := metaBad s (128 * x.line) ||
      (List.range 128).any fun i => x.mask.getLsbD i && isPoisoned s (metaCmp (metaOf s (128 * x.line))) p i 1
    if bad then .poisoned
    else
      let (v, fl) := applyElems x.op w x.mask (rawLine s p).toNat x.data.toNat (128 / w) 0
      match sliceWrite s src (policyOf t) false x.line x.mask (BitVec.ofNat 1024 v) with
      | .done s => .done s fl
      | .full s v => .full s v
      | .genMismatch => .mismatch
      | .voted => .wait

/-- Set what a contribution has come to. -/
def markContrib (s : State) (x : Contrib) (st : ContribSt) : State :=
  { s with contribs := s.contribs.map fun y => if y = x then { y with st := st } else y }

/-- Take a contribution out. -/
def dropContrib (s : State) (x : Contrib) : State := { s with contribs := s.contribs.filter fun y => y != x }

/-- Answer an incoming peer request. -/
def answerPeer (s : State) (tag : Nat) (st : PeerStatus) (bs : List Byte) : State :=
  { s with peerIn := s.peerIn ++ [(tag, st, bs)] }

/-- A performed contribution is acknowledged: its job counts its bytes (R381) and, for group 0, its flags (R389). -/
def ackJob (s : State) (c id : Nat) (x : Contribution) (fl : BitVec 5) : State :=
  match findJob (core s c) id with
  | none => s
  | some j =>
    let bar : Option Nat := match decodeCopy j.words with
      | .ok i => (copyBarrier i).bind (barrierKey s c)
      | .error _ => none
    let s := countBytes s bar (maskCount x.mask)
    putJob s c { j with flags := if x.group = 0 then j.flags ||| fl else j.flags }

def ackContrib (s : State) (x : Contrib) (fl : BitVec 5) : State :=
  let s := dropContrib s x
  match x.x.src with
  | .job c id => endFailed (ackJob s c id x.x fl) c id
  | .peer _ tag => answerPeer s tag .ok [fl.zeroExtend 8]

/-- A contribution that its slice turns away; of a job that has been abandoned nothing is left (R392). -/
def turnAway (s : State) (x : Contrib) (st : ContribSt) : State :=
  match x.x.src with
  | .job c id => if (findJob (core s c) id).isSome then endFailed (markContrib s x st) c id else dropContrib s x
  | .peer _ tag =>
    match st with
    | .refused v => answerPeer (dropContrib s x) tag .shadowFull (wordBytes v)
    | _ => answerPeer (dropContrib s x) tag .retry []

/-- A contribution that its slice answers with an error: its job's context is fatal, or its peer is told. -/
def failContrib (s : State) (x : Contrib) (f : Fatal) (st : PeerStatus) : State :=
  match x.x.src with
  | .job c id =>
    match findJob (core s c) id with
    | none => dropContrib s x
    | some j => failJob (dropContrib s x) c id f (min x.off (jobProg j))
  | .peer _ tag => answerPeer (dropContrib s x) tag st []

/-- What becomes of a contribution that is applied now. `g`: its group when ordered, with its slot. -/
def applyContrib (s : State) (x : Contrib) (g : Option (Nat × Nat)) : State × Bool :=
  let src : WriteSrc := match x.x.src with
    | .job _ _ => .loc
    | .peer _ _ => .peer x.gn
  match applyLine s src x.tgt x.x with
  | .mismatch => (failContrib s x { fatalAt 0x48 0 0 (128 * x.x.line) with aux := x.gn.zeroExtend 64 } .genMismatch, false)
  | .wait => (s, false)
  | .poisoned => (failContrib s x (fatalAt 0x44 1 0 (128 * x.x.line)) .poisoned, false)
  | .full t v => (turnAway t x (.refused v), false)
  | .done t fl =>
    let t := match g with
      | some (n, k) => stepRound (groupFlags t n fl) n x.x.line k
      | none => t
    (ackContrib t x fl, true)

/-- Apply held contributions while one matches the cursor (R131). -/
def releaseHeld (g line : Nat) : (fuel : Nat) → State → State
  | 0, s => s
  | fuel + 1, s =>
    let k := (roundAt s g line).getD 0
    match s.contribs.find? fun y =>
        y.st == .held && y.x.group.toNat == g && y.x.line == line && slotOf s g y.x.srcid == some k with
    | none => s
    | some y =>
      let (s, ok) := applyContrib s y (some (g, k))
      if ok then releaseHeld g line fuel s else s

/-- A contribution of an ordered group arrives (R131, R132, R133). -/
def arriveOrdered (s : State) (x : Contrib) : State :=
  let g := x.x.group.toNat
  let line := x.x.line
  let sl := homeSlice (128 * line)
  if !groupOn s g then failContrib s x (fENGINE 0x24) .noGroup
  else
    match slotOf s g x.x.srcid with
    | none => failContrib s x (fENGINE 0x24) .badSrc
    | some j =>
      let turned := turnAway s x .retry
      match roundAt s g line with
      | some k =>
        if j = k then
          let (s, ok) := applyContrib s x (some (g, j))
          if ok then releaseHeld g line (s.contribs.length + 1) s else s
        else if heldAt s sl < 32 then markContrib s x .held
        else turned
      | none =>
        if j ≠ 0 then (if heldAt s sl < 32 then markContrib s x .held else turned)
        else if groupLast s g ≠ 0 ∧ 256 ≤ roundsAt s sl then turned
        else
          let (s, ok) := applyContrib s x (some (g, j))
          if ok then releaseHeld g line (s.contribs.length + 1) s else s

/-- Two contributions come from one requester: a job, or the peers behind one port (R121, R424). -/
def oneSender : ContribFrom → ContribFrom → Bool
  | .peer p _, .peer q _ => p == q
  | a, b => a == b

/-- An earlier contribution of the same sender to the same slice is still on its way (R121). -/
def contribPast (l : List Contrib) (x : Contrib) : Bool :=
  match l with
  | [] => false
  | y :: r =>
    if y = x then false
    else if y.st = .sent ∧ oneSender y.x.src x.x.src ∧ homeSlice (128 * y.x.line) = homeSlice (128 * x.x.line) then true
    else contribPast r x

/-- The turn of a held contribution has come: its line made it wait, and its round stands at its slot (R121). -/
def turnCome (s : State) (y : Contrib) : Bool :=
  let g := y.x.group.toNat
  y.st == .held && (roundAt s g y.x.line).isSome && roundAt s g y.x.line == slotOf s g y.x.srcid

/-- REDUCTION_CONTRIBUTION (R131): a contribution arrives at its home slice and is applied, held, or refused; or one whose turn
had come at a line that waited is applied (R121). -/
def execReductionContribution (x : Contribution) (s : State) : Host.Outcome State Fault Refusal :=
  match s.contribs.find? fun y => y.x == x && (y.st == .sent || turnCome s y) with
  | none => .next s
  | some y =>
    if y.st = .held then .next (releaseHeld x.group.toNat x.line (s.contribs.length + 1) s)
    else if contribPast s.contribs y then .next s
    else if x.group = 0 then .next (applyContrib s y none).1
    else .next (arriveOrdered s y)

/-! ## The group registers (R130) -/

/-- The write changes LAST or TABLE. -/
def groupMoves (old x : Word) : Bool := bits old 59 54 != bits x 59 54 || bits old 43 7 != bits x 43 7

/-- The slots of the table that a write names, as loads of the open view at its home slice return them. -/
def groupTable (s : State) (x : Word) : List (BitVec 16) :=
  let bs := viewBytes s (128 * bits x 43 7) 128
  ((List.range 64).map fun k => BitVec.ofNat 16 (leNat ((bs.drop (2 * k)).take 2))).take (bits x 59 54 + 1)

/-- A list without repeats. -/
def distinct {α : Type} [BEq α] : List α → Bool
  | [] => true
  | a :: r => !r.contains a && distinct r

/-- A write to RGRPn is refused (R130). -/
def groupRefused (s : State) (old x : Word) : Bool :=
  let enables := bit x 63 && !bit old 63
  bit old 61 || (bit old 63 && groupMoves old x) ||
    (enables && (decide (2 ^ 40 ≤ 128 * bits x 43 7) || !distinct (groupTable s x)))

/-- RGRP_WRITE (R130, R133). -/
def rgrpStore (s : State) (n : Nat) (x : Word) : State :=
  let old := reg s (rRgrp n)
  if groupRefused s old x then putReg s (rRgrp n) 62 62 1
  else
    let enables := bit x 63 && !bit old 63
    let drops := bit x 60 || !bit x 63
    let s := writeReg s (rRgrp n) x
    let s := putReg s (rRgrp n) 62 62 0
    let s := if enables then { s with slotTabs := tabSet s.slotTabs n (groupTable s x) } else s
    putReg (putReg s (rRgrp n) 60 60 drops.toNat) (rRgrp n) 61 61 (enables || drops).toNat

/-- A group's number. -/
def isGroup (n : Nat) : Bool := decide (1 ≤ n ∧ n ≤ 255)

/-- RGRP_WRITE (R130): enables or disables a group, or discards its state. -/
def execRgrpWrite (n : Nat) (x : BitVec 64) (s : State) : Host.Outcome State Fault Refusal :=
  if !isGroup n then .next s else .next (rgrpStore s n x)

/-- RGRP_DROP (R130, R133): the discard runs: open rounds and held contributions go, counted in nothing. -/
def execRgrpDrop (n : Nat) (s : State) : Host.Outcome State Fault Refusal :=
  if !isGroup n then .next s
  else if !(groupBusy s n && bit (reg s (rRgrp n)) 60) then .next s
  else
    let s := { s with
      rounds := s.rounds.filter fun r => r.group != n
      contribs := s.contribs.map fun y => if y.st = .held ∧ y.x.group.toNat = n then { y with st := .dropped } else y }
    .next (putReg s (rRgrp n) 60 60 0)

/-- RGRP_DONE (R130): the table load and any discard have finished at every slice. -/
def execRgrpDone (n : Nat) (s : State) : Host.Outcome State Fault Refusal :=
  if !isGroup n then .next s
  else if groupBusy s n && !bit (reg s (rRgrp n)) 60 then .next (putReg s (rRgrp n) 61 61 0)
  else .next s

end Sys2Proof.Machine
end

