-- ==== Sys2Proof/Machine/Sched.lean ====
section
/-! DEFINITION. Sys2Proof/Machine/Sched.lean: what one step runs: the agent that moves next (log 3), instruction fetch
(R199), the predecoder's choice of word (R198, R201), and the placing of a word where the next step fetches (log 4). -/

namespace Sys2Proof.Machine

/-- An act of a Collie that comes about without an input. -/
inductive CollieAct where
  | submission | kennel | successor | decision | dispatch | node | save | resume
  | segmentEnd (id : Nat)
  | retirement (id : Nat)
  deriving DecidableEq, Repr

/-- A move that comes about without an input: a role's turn, an event, or an act of a unit. -/
inductive Move where
  | given (ch : Choice)
  | collie (d : Nat) (a : CollieAct)
  | boot
  | planeSwitch (u : Nat)
  | attested
  | powerDone (i : Nat)
  | breakpoint (c : Nat) (r : RoleId)
  | skip (c : Nat) (r : RoleId)
  | collective (p k : Nat)
  | bar0Read (off : Nat)
  deriving DecidableEq, Repr

/-- What a step does. -/
inductive Plan where
  /-- Run the meaning of an instruction or event. -/
  | run (i : Instr) (s : State)
  /-- Run the meaning of the event that a move names. -/
  | move (m : Move) (s : State)
  /-- Nothing more than the state given. -/
  | settled (s : State)
  /-- The step names a unit the part does not have. -/
  | missing
  deriving DecidableEq, Repr

/-! ## Fetch (R199) -/

/-- The instruction cache's key of a word. -/
def fetchKey (t : Target) : Nat := (match t.peer with | none => 0 | some d => d + 1) * 2 ^ 41 + t.dpa / 8

/-- A word fetched for core c at va: `none` while a peer's answer is awaited. The instruction cache does not see
stores: a word that it holds may be taken old or new until isync (R199; log 11). A word read in a poisoned codeword is fatal
DATA (R73). -/
def fetch (s : State) (c : Nat) (r : RoleId) (va : Nat) : Except XErr (State × Option Word) :=
  match coreLoc s c .fetch (!systemMode s c r) false false va 8 with
  | .error e => .error e
  | .ok (_, .pool _) => .error .window
  | .ok (s, .dev t _) =>
    let key := fetchKey t
    let held := tabGet (core s c).icache key
    match t.peer with
    | some d =>
      match held with
      | some w => .ok (s, some w)
      | none =>
        if s.peerOut.any fun p => p.who == .fetch c r key then .ok (s, none)
        else
          .ok ((peerSend s d (.read (BitVec.ofNat 44 t.dpa) 8) (.fetch c r key)).1, none)
    | none =>
      let old := held.filter fun _ => Config.fetchOld s.tick
      if old.isNone ∧ lineHeld s (t.dpa / 128) then .error .held
      else
      let (s, l, bad) := sliceRead s (policyOf t) t.cv (t.dpa / 128) (t.dpa % 128) 8
      if old.isNone ∧ bad then .error (.data t.dpa)
      else
      let new : Word := BitVec.ofNat 64 (leNat (bytesFrom l (t.dpa % 128) 8))
      let w := old.getD new
      .ok (modCore s c fun k => { k with icache := tabSet k.icache key w }, some w)

/-- A word of the predecode window after the first (R201): looked at without effect. -/
def peekWord (s : State) (c : Nat) (r : RoleId) (va : Nat) : Option Word :=
  match fetch s c r va with
  | .ok (_, w) => w
  | .error _ => none

/-- A role executes a word (R17, R198); a system core executes every word (R242). -/
def executes (c : Nat) (r : RoleId) (w : Word) : Bool :=
  isSystem c || match RoleTag.ofCode (BitVec.ofNat 2 (bits w 63 62)) with
    | .A => true
    | .L => r == .L
    | .C => r == .C
    | .S => r == .S

/-- How many words before the first that the role executes, among the n at va; n when there is none, or where the
window cannot be read further. -/
def skipCount (s : State) (c : Nat) (r : RoleId) (va : Nat) : (n : Nat) → Nat
  | 0 => 0
  | n + 1 =>
    match peekWord s c r va with
    | none => 0
    | some w => if executes c r w then 0 else 1 + skipCount s c r (va + 8) n

/-- The role's counter passes n words that it does not execute (R198, R203). -/
def passWords (s : State) (c : Nat) (r : RoleId) (n : Nat) : State :=
  modRole (countEvent s c r 0x03 n) c r fun x => { x with
    pc := x.pc + BitVec.ofNat 57 (8 * n)
    walk := if inHandler x then x.walk else x.walk + BitVec.ofNat 64 n }

/-- The most words, up to n, that the slip window lets the role pass. -/
def passable (s : State) (c : Nat) (r : RoleId) : (n : Nat) → Nat
  | 0 => 0
  | n + 1 => if mayPass s c r (n + 1) then n + 1 else passable s c r n

/-- An address breakpoint of the core matches a role's counter (R448, R450). -/
def breakAt (k : Core) (r : RoleId) (pc : VA) : Bool :=
  [k.dbg.bp0, k.dbg.bp1].any fun b =>
    bit b 63 && (bits b 62 61 == 3 || bits b 62 61 == r.code.toNat) && bits b 56 3 == pc.toNat / 8

/-- A word that is no instruction (R240): ILLEGAL, after a held trap, OVERDUE and the slip window. -/
def illegalWord (s : State) (c : Nat) (r : RoleId) (w : Word) : State :=
  let s := settlePush s c r
  if trapPending (getRole s c r) ∧ !inHandler (getRole s c r) then deliverAsync s c r w
  else if !mayPass s c r 1 then waits s c r (.slip 1)
  else if isOverdue s c r then overdue s c r w
  else takeTrap s c r w tILLEGAL w

/-- Run a word, with the second word of a safe. -/
def decodePlan (s : State) (c : Nat) (r : RoleId) (w : Word) (w2 : Option Word) : Plan :=
  match decodeWords w w2 with
  | .ok i => .run i s
  | .error _ => .settled (illegalWord s c r w)

/-- A safe takes two words (R229). -/
def takesTwo (w : Word) : Bool := (opOf w).toNat == 0x2A

/-- A fetch that fails as the role reaches the word: one that is held waits (R121, R199). -/
def fetchFails (s : State) (c : Nat) (r : RoleId) (w : Word) (va : Nat) : XErr → State
  | .held => s
  | e => roleFatal s c r w (xFatal va e)

/-- The role's next word, fetched and decoded. -/
def wordPlan (s : State) (c : Nat) (r : RoleId) : Plan :=
  let pc := (getRole s c r).pc
  match fetch s c r pc.toNat with
  | .error e => .settled (fetchFails s c r 0 pc.toNat e)
  | .ok (s, none) => .settled s
  | .ok (s, some w) =>
    if breakAt (core s c) r pc ∧ !(getRole s c r).bpPass then .move (.breakpoint c r) s
    else if takesTwo w then
      let pc2 := (pc.toNat + 8) % 2 ^ 57
      match fetch s c r pc2 with
      | .error e => .settled (fetchFails s c r w pc2 e)
      | .ok (s, none) => .settled s
      | .ok (s, some x) => decodePlan s c r w (some x)
    else decodePlan s c r w none

/-- What a role does when it is its turn (R198, R201). A worker role without a context, or whose island's clocks are gated
(R465), does nothing. -/
def rolePlan (s : State) (c : Nat) (r : RoleId) : Plan :=
  if !roleExists s c r then .missing
  else
    let s := { s with cur := (c, r) }
    let x := getRole s c r
    if !booted s ∨ tripped s ∨ (!isSystem c ∧ (core s c).task.isNone) ∨ clockGated s c ∨ roleHeld s c r then .settled s
    else if x.pushDue ∧ !(pushReady s c r ∧ downCount (core s c) r < 16) then
      .settled (waits s c r (if pushReady s c r then .tokPush 1 else .other))
    else
      let k := skipCount s c r x.pc.toNat 4
      if k = 0 then wordPlan s c r
      else if k = 4 then .move (.skip c r) s
      else if mayPass s c r k then wordPlan (passWords s c r k) c r
      else .settled (waits (passWords s c r (passable s c r k)) c r (.slip 1))

/-! ## Whose turn it is (log 3) -/

/-- Moves of a core's accesses in flight. -/
def accessMoves (c : Nat) (k : Core) : List Choice :=
  (allRoles.flatMap fun r =>
    let x := k.role r
    (x.loads.flatMap fun l =>
      (l.parts.zipIdx.filterMap fun p => if p.1.got.isNone then some (.event (.homeSliceRead c r l.id p.2 none)) else none) ++
        [.event (.loadDataReturn c r l.id)]) ++
      match x.block with
      | some (.atomic a) =>
        if a.reply.isSome then [.event (.atomicReply c r), .event (.cascRetry c r)]
        else [.event (.sliceAtomic c r), .event (.sliceCasc c r)]
      | some (.vamo _) => [.event (.sliceAtomic c r), .event (.atomicReply c r)]
      | some (.drain _ _ _ _) => [.event (.drainComplete c r)]
      | some (.waiting _) => [.event (.waitExpiry c r)]
      | _ => []) ++
    k.writes.flatMap fun w =>
      if w.performed then [.event (.writeAcknowledge c w.id)] else [.event (.homeSliceWrite c w.id)]

/-- The commands in the stages of a core's matrix engine (R362). -/
def stageWord (m : Matrix) : MStage → Option Word
  | .prepare => m.prep.map (·.word)
  | .array => m.array.map fun a => a.cmd.word
  | .drain => m.drain.map (·.word)

/-- Moves of a core's engines. -/
def engineMoves (c : Nat) (k : Core) : List Choice :=
  (if k.matrix.prep.isNone then [.event (.matrixCommandStart c)] else []) ++
    ([MStage.prepare, .array, .drain].filterMap fun st => (stageWord k.matrix st).map fun _ => .matrix c st false) ++
    (if k.matrix.done.isEmpty then [] else [.event (.matrixCommandCompletion c)]) ++
    [.event (.copyJobAdmission c)] ++
    k.copy.jobs.flatMap fun j =>
      if j.accessed then [.event (.copyJobCompletion c j.id)]
      else
        match j.refused with
        | some _ => (j.left.map fun l => .event (.copyJobStop c j.id (l.w.tgt.dpa / 128))).take 1
        | none => [.job c j.id]

/-- Moves of a Collie. -/
def collieMoves (d : Nat) (x : Collie) : List Move :=
  (if x.subs.isEmpty then [] else [.collie d .submission]) ++
    (if x.kennel.isEmpty then [] else [.collie d .kennel]) ++
    (if x.pool.isEmpty && x.late.isEmpty && x.orphans.isEmpty then [] else
      [.collie d .node, .collie d .decision, .collie d .dispatch, .collie d .resume, .collie d .successor]) ++
    (if x.pre.isSome then [.collie d .save] else []) ++
    x.pool.flatMap fun t =>
      if t.st = .running then [.collie d (.segmentEnd t.id), .collie d (.retirement t.id)] else []

/-- Operations of system registers that are still to finish. -/
def busyMoves (s : State) : List Move :=
  (s.regs.flatMap fun e =>
    if inBlock e.1 0x120 4 ∧ bit e.2 63 then [.given (.event (.carveResizeDone (e.1 - 0x120)))]
    else if inBlock e.1 0x138 8 ∧ bit e.2 61 then [.given (.event (.mdregDone (e.1 - 0x138)))]
    else if inBlock e.1 0x201 255 ∧ bit e.2 61 then
      [.given (.event (.rgrpDrop (e.1 - 0x200))), .given (.event (.rgrpDone (e.1 - 0x200)))]
    else if e.1 = rAttctl ∧ bit e.2 62 then [.attested]
    else if inBlock e.1 0x480 16 ∧ bit e.2 63 then [.powerDone (e.1 - 0x480)]
    else []) ++
    (s.fqBuf.flatMap fun e => if e.2.isEmpty then [] else [.given (.event (.faultRecordWrite e.1))]) ++
    (if s.ctabBusy.isSome then [.given (.event .ctabUpdateDone)] else []) ++
    (s.units.flatMap fun u => if u.waiting then [.planeSwitch u.unit] else []) ++
    (s.contribs.flatMap fun x =>
      match x.st, x.x.src with
      | .sent, _ => [.given (.event (.reductionContribution x.x))]
      | .held, _ => [.given (.event (.reductionContribution x.x))]
      | .retry, .job c id => [.given (.event (.contributionResend c id))]
      | .refused _, .job c id => [.given (.event (.copyJobStop c id x.x.line))]
      | _, _ => [])

/-- The turns of a core's roles and engines. -/
def issueMoves (c : Nat) (k : Core) : List Choice :=
  if isSystem c then [.role c .C, .event (.systemCoreWake (c - 960))]
  else if k.task.isSome then [.role c .L, .role c .C, .role c .S] ++ engineMoves c k
  else []

/-- Every move that may be possible. -/
def moves (s : State) : List Move :=
  (s.cores.flatMap fun e =>
    (accessMoves e.1 e.2 ++ issueMoves e.1 e.2).map Move.given) ++
    (s.collies.flatMap fun e => collieMoves e.1 e.2) ++
    (s.slices.flatMap fun e => if e.2.queue.any (·.fill.isSome) then [.given (.event (.continuationAccept e.1))] else []) ++
    (if s.marks.isEmpty && !(s.snFlight.any (·.orphan)) then [] else [0, 1, 2, 3].map fun d => .given (.event (.deckWalkerEntry d))) ++
    (if s.ks.state == .idle && !s.ks.owed then [] else [.given (.event .voteFormed), .given (.event .dackSend)]) ++
    (s.ports.flatMap fun e => e.2.posted.map fun x => .collective e.1 x.k) ++
    busyMoves s

/-- With no choice given, the moves take turns by the step counter; before boot, the boot sequence runs (log 3, log 4). -/
def autoChoice (s : State) : Option Move :=
  if tripped s then none
  else if booted s then (moves s)[s.tick % max 1 (moves s).length]?
  else if bits (reg s rBootstat) 63 56 = 0 then some .boot
  else none

/-- An engine command's turn: the engine of core c acts. -/
def commandPlan (s : State) (c : Nat) (d : Option (Except Ill Instr)) : Plan :=
  match d with
  | some (.ok i) => .run i { s with cur := (c, .C) }
  | _ => .settled s

/-- What still moves once the clocks of islands 0 to 14 have stopped (R466): the host port, telemetry and a cold reset. -/
def runsTripped : Instr → Bool
  | .coldReset | .telemetrySample _ _ | .hostRead _ _ | .hostWrite _ _ | .hostLaunch _ _ _ | .unsupportedRequest _ _
  | .doorbell _ _ | .doorbellRead _ | .tstampWrite _ | .herrRead | .ehptrRead _ | .shstatRead _ | .ksstatRead
  | .lstatRead _ | .knstatRead _ | .clstatRead _ | .portstatRead _ | .fqptrRead _ | .trptrRead _ | .registerWrite _ _
  | .debugHalt _ _ | .debugStep _ _ | .dbgdataRead _ | .dbgdataWrite _ _ => true
  | _ => false

/-- What a role, or an engine, does when the list of choices gives it the turn, or how an access meets what the list gives:
the step may go the other way that the spec allows (`State.alt`; log 3). An OVERDUE comes only in the turn of a role that would
issue (R220). -/
def choicePlan (s : State) : Choice → Plan
  | .event (.overdue c r) => if (getRole s c r).safecnt.toNat = 4096 then rolePlan s c r else .settled s
  | .event i => if tripped s && !runsTripped i then .settled s else .run i s
  | .role c r => rolePlan s c r
  | .roleAlt c r => rolePlan { s with alt := true } c r
  | .matrix c st alt =>
    if tripped s ∨ clockGated s c then .settled s
    else commandPlan { s with alt := alt } c ((stageWord (core s c).matrix st).map decodeMatrix)
  | .job c id =>
    if tripped s ∨ clockGated s c then .settled s
    else commandPlan s c (((core s c).copy.jobs.find? fun j => j.id == id).map fun j => decodeCopy j.words)
  | .speculate c va =>
    if tripped s ∨ clockGated s c ∨ !coreExists s c then .settled s else .settled (prefLine s c (!isSystem c) false (va % 2 ^ 57 / 128 * 128))
  | .memError cv line e =>
    if tripped s ∨ !hasMem s (128 * line) ∨ lineHeld s line then .settled s else .settled (demandError s cv line e)
  | .bar0Read off => .move (.bar0Read off) s

/-- What the next step does. -/
def plan (s : State) : Plan :=
  let (ch, rest) : Option Move × List Choice := match s.sched with
    | [] => (autoChoice s, [])
    | h :: t => (some (.given h), t)
  let s := nextTick { s with sched := rest, alt := false }
  match ch with
  | none => .settled s
  | some (.given ch) => choicePlan s ch
  | some m => .move m s

/-! ## Placing a word (log 4) -/

/-- The state whose next step fetches the given words: die 0's system core, booted, in its untranslated space (R460),
with the words at its counter. Its C role may issue. -/
def placeWords (s : State) (w w2 : Word) : State :=
  let pc := (getRole s 960 .C).pc.toNat
  let k := core s 960
  let x := { k.roleC with fin := false, block := none, pushDue := false, mid := 0, safecnt := 0, bpPass := true,
                          tstat := k.roleC.tstat &&& 0xFFF7#16 }
  let s := setCore s 960 { k with roleC := x, halted := false, dbg := Dbg.reset, icache := [] }
  let s := { s with regs := tabDel s.regs rXroot, sched := [.role 960 .C], cur := (960, .C) }
  let s := setReg (putReg s rThermctl 63 63 0) rBootstat (putBit (reg s rBootstat) 46 true)
  rawWrite s (pc % 2 ^ 44) (wordBytes w ++ wordBytes w2)

end Sys2Proof.Machine
end

