-- ==== Sys2Proof/Machine/Ports.lean ====
section
/-! DEFINITION. Sys2Proof/Machine/Ports.lean: the Mbaber ports: port state and routing (R423 to R426), peer requests and
their answers (R38, R179, R427), page-table multicast (R428), and collectives (R279, R429 to R435). -/

namespace Sys2Proof.Machine

/-! ## Ports (R423, R425) -/

/-- Requests and parts sent over a port lose their answers (R427): from now on they have no route. -/
def loseAnswers (s : State) (p : Nat) : State :=
  { s with
    peerOut := s.peerOut.map fun q => if q.port = p then { q with port := 12 } else q
    sent := s.sent.map fun q => if q.port = p then { q with port := 12 } else q }

/-- A port goes DOWN. -/
def downPort (s : State) (p : Nat) : State :=
  if portState s p = 0 then s
  else
    let s := countReg s (rPortstat p) 53 48 1
    loseAnswers (putReg (putReg s (rPortstat p) 63 62 0) (rPortstat p) 61 54 0) p

/-- PORT_DOWN (R423): eight consecutive replays of a flit have failed. -/
def execPortDown (port : Nat) (s : State) : Host.Outcome State Fault Refusal :=
  if 12 ≤ port then .next s else .next (downPort s port)

/-- FLIT_REPLAY (R423, R425): a flit of an UP port is replayed. -/
def execFlitReplay (port : Nat) (s : State) : Host.Outcome State Fault Refusal :=
  if 12 ≤ port then .next s
  else .next (if portState s port = 0 then s else countReg s (rPortstat port) 47 32 1)

/-- A write to PORTCFG (R425): a change of EN or LANES retrains the port, and nothing on its way is lost (log 36). -/
def portcfgSet (s : State) (p : Nat) (x : Word) : State :=
  let old := reg s (rPortcfg p)
  let lanes := if bits x 57 56 = 0 then bits old 57 56 else bits x 57 56
  let new := ofFields [(63, (bit x 63).toNat), (56, lanes)]
  let s := setReg s (rPortcfg p) new
  if new = old then s else putReg (putReg s (rPortstat p) 63 62 1) (rPortstat p) 61 54 0

/-- PORTCFG_WRITE (R425). -/
def execPortcfgWrite (port : Nat) (x : BitVec 64) (s : State) : Host.Outcome State Fault Refusal :=
  if 12 ≤ port then .next s else .next (portcfgSet s port x)

/-- LMASK by LANES. -/
def laneBits : Nat → Nat
  | 1 => 0x0F
  | 2 => 0xF0
  | _ => 0xFF

/-- PORT_UP (R425): training completes, of a port that is in use (log 36); the tree messages that waited for it go out (R436). -/
def execPortUp (port : Nat) (s : State) : Host.Outcome State Fault Refusal :=
  if 12 ≤ port then .next s
  else
    .next (if portState s port = 1 ∧ bit (reg s (rPortcfg port)) 63 then
      sendTree
        (putReg (putReg s (rPortstat port) 63 62 2) (rPortstat port) 61 54 (laneBits (bits (reg s (rPortcfg port)) 57 56)))
    else s)

/-! ## The route table (R426) -/

/-- RTCMD as a command leaves it. -/
def rtcmdWord (err : Bool) (dev : Nat) (v : Bool) (p : Nat) : Word :=
  ofFields [(61, err.toNat), (16, dev), (4, v.toNat), (0, p)]

/-- Write an entry from V and PORT. -/
def routeSet (s : State) (x : Word) : State :=
  let dev := bits x 27 16
  if bit x 4 ∧ 11 < bits x 3 0 then putReg s rRtcmd 61 61 1
  else
    setReg { s with routes := tabSet s.routes dev (BitVec.ofNat 5 (bits x 4 0)) } rRtcmd (rtcmdWord false dev (bit x 4) (bits x 3 0))

/-- Read an entry into V and PORT. -/
def routeGet (s : State) (x : Word) : State :=
  let dev := bits x 27 16
  let e := tabD s.routes dev (0 : BitVec 5)
  setReg s rRtcmd (rtcmdWord false dev (bit e 4) (bits e 3 0))

/-- A write to RTCMD. -/
def rtcmdWrite (s : State) (x : Word) : State :=
  match bits x 63 62 with
  | 0 => setReg s rRtcmd (rtcmdWord false (bits x 27 16) (bit x 4) (bits x 3 0))
  | 1 => routeSet s x
  | 2 => routeGet s x
  | _ => putReg s rRtcmd 61 61 1

/-- ROUTE_WRITE (R426): RTCMD written with OP 01b. -/
def execRouteWrite (x : BitVec 64) (s : State) : Host.Outcome State Fault Refusal := .next (routeSet s x)

/-- ROUTE_READ (R426): RTCMD written with OP 10b. -/
def execRouteRead (x : BitVec 64) (s : State) : Host.Outcome State Fault Refusal := .next (routeGet s x)

/-! ## Incoming peer requests (R38, R179, R427) -/

/-- The DPA has no memory for a peer (R427). -/
def peerNoMem (s : State) (dpa : Nat) : Bool := !hasMem s dpa || isPartner s dpa

/-- The generation of a peer access to a VER block is not the expected one (R179). -/
def genClash (s : State) (dpa : Nat) (g : BitVec 48) : Bool := lineVer s (dpa / 128) && g != curGen s

/-- A read-modify-write for a peer: the old value and the flags in the answer. -/
def peerRmw (s : State) (q : PeerReq) (dpa n : Nat) (f : Nat → Option Nat × BitVec 5) : State :=
  match sliceRmw s (.peer q.gn) .second dpa n f with
  | .done s old fl => answerPeer s q.tag .ok (leBytes 8 old ++ [fl.zeroExtend 8])
  | .full s v => answerPeer s q.tag .shadowFull (wordBytes v)
  | .genMismatch => answerPeer s q.tag .genMismatch []
  | .poisoned => answerPeer s q.tag .poisoned []
  | .voted => s

/-- The DPA that a peer access names. -/
def peerDpa : PeerOp → Nat
  | .read a _ => a.toNat
  | .write a _ _ => a.toNat
  | .block a _ => a.toNat
  | .amo a _ _ _ => a.toNat
  | .cas a _ _ => a.toNat
  | .contribute x => 128 * x.line

/-- The lines that a peer access touches. -/
def peerLines : PeerOp → List Nat
  | .block a _ => (List.range 16).map fun i => a.toNat / 2048 * 16 + i
  | op => [peerDpa op / 128]

/-- Line i of a block of data. -/
def blockLine (d : BitVec 16384) (i : Nat) : Line := d.extractLsb' (1024 * i) 1024

/-- Write the lines of a whole block, one full-block request (R72, R175): it is performed whole or not at all. -/
def writeBlock (g : BitVec 48) : State → List (Nat × Line) → WriteRes
  | s, [] => .done s
  | s, (line, l) :: r =>
    match sliceWrite s (.peer g) .second true line (BitVec.allOnes 128) l with
    | .done s => writeBlock g s r
    | e => e

/-- A write is refused for want of a shadow, with this TVAL: FULL is set, and nothing else (R161). -/
def refuseFull (s : State) (v : Word) : State := putReg s (rShstat (bits v 23 16 / 64)) 63 63 1

/-- An access of the requesters behind a port waits at its line: the line is held, or an earlier contribution of theirs waits
there (R121, R424). -/
def peerWaits (s : State) (port : Nat) (op : PeerOp) : Bool :=
  (peerLines op).any fun l => lineHeld s l ||
    s.contribs.any fun y => y.st == .sent && oneSender y.x.src (.peer port 0) && y.x.line == l

/-- Perform an access that arrives at a port, at its home slice. -/
def servePeer (s : State) (port : Nat) (q : PeerReq) : State :=
  let dpa := peerDpa q.op
  if peerNoMem s dpa then answerPeer s q.tag .noMem []
  else if peerWaits s port q.op then s
  else if genClash s dpa q.gn then answerPeer s q.tag .genMismatch []
  else
    match q.op with
    | .read _ n =>
      let (s, l, bad) := sliceRead s .second false (dpa / 128) (dpa % 128) n
      if bad then answerPeer s q.tag .poisoned [] else answerPeer s q.tag .ok (bytesFrom l (dpa % 128) n)
    | .write _ mask data =>
      match sliceWrite s (.peer q.gn) .second false (dpa / 128) mask data with
      | .done s => answerPeer s q.tag .ok []
      | .full s v => answerPeer s q.tag .shadowFull (wordBytes v)
      | .genMismatch => answerPeer s q.tag .genMismatch []
      | .voted => s
    | .block _ d =>
      match writeBlock q.gn s ((peerLines q.op).zipIdx.map fun p => (p.1, blockLine d p.2)) with
      | .done s => answerPeer s q.tag .ok []
      | .full _ v => answerPeer (refuseFull s v) q.tag .shadowFull (wordBytes v)
      | .genMismatch => answerPeer s q.tag .genMismatch []
      | .voted => s
    | .amo _ op dbl x =>
      let n := if dbl then 8 else 4
      peerRmw s q dpa n (amoStep op n x.toNat)
    | .cas _ e n => peerRmw s q dpa 8 (casStep e n)
    | .contribute x =>
      let (s, no) := freshId s
      let y : Contrib :=
        { no := no, x := { x with src := .peer port q.tag }, off := 0, st := .sent,
          tgt := { plainTarget dpa with alloc := 0, nc := false }, gn := q.gn }
      let s := { s with contribs := s.contribs ++ [y] }
      if x.group = 0 then (applyContrib s y none).1 else arriveOrdered s y

/-- PEER_REQUEST (R427): an access that arrives at an UP port. -/
def execPeerRequest (port : Nat) (q : PeerReq) (s : State) : Host.Outcome State Fault Refusal :=
  if 12 ≤ port then .next s else .next (if portState s port = 2 then servePeer s port q else s)

/-! ## Answers to the device's own requests (R427) -/

/-- The fatal error of an answer that is not OK. -/
def statusFatal (st : PeerStatus) (va dpa : Nat) (g : BitVec 48) : Fatal :=
  match st with
  | .genMismatch => { fatalAt 0x48 0 va dpa with aux := g.zeroExtend 64 }
  | .shadowFull => fatalAt 0x44 2 va dpa
  | .noMem => fatalAt 0x41 5 va dpa
  | .noRoute => fatalAt 0x44 3 va dpa
  | .retry => fENGINE 0x24
  | .badSrc => fENGINE 0x24
  | .noGroup => fENGINE 0x24
  | .ok => fatalAt 0x44 1 va dpa
  | .poisoned => fatalAt 0x44 1 va dpa

/-- n bytes of an answer. -/
def answerBytes (bs : List Byte) (n : Nat) : List Byte := (bs ++ List.replicate n 0).take n

/-- A context runs on the core. -/
def contextAt (s : State) (c : Nat) : Bool := isSystem c || (core s c).task.isSome

/-- An instruction word arrives from a peer. -/
def answerFetch (s : State) (p : PeerOut) (c : Nat) (r : RoleId) (key : Nat) (st : PeerStatus) (bs : List Byte) : State :=
  if st = .ok then modCore s c fun k => { k with icache := tabSet k.icache key (BitVec.ofNat 64 (leNat (answerBytes bs 8))) }
  else if contextAt s c then roleFatal s c r 0 (statusFatal st (getRole s c r).pc.toNat (peerDpa p.op) p.gn)
  else s

/-- A word of the image of a cfgd arrives from a peer (R287). -/
def answerImage (s : State) (p : PeerOut) (c : Nat) (r : RoleId) (key : Nat) (va : VA) (st : PeerStatus) (bs : List Byte) :
    State :=
  if st = .ok then modCore s c fun k => { k with image := tabSet k.image key (BitVec.ofNat 64 (leNat (answerBytes bs 8))) }
  else
    let w := (peekWord s c r (getRole s c r).pc.toNat).getD 0
    roleFatal s c r w (statusFatal st va.toNat (peerDpa p.op) p.gn)

/-- A part of a load arrives. -/
def answerLoad (s : State) (p : PeerOut) (c : Nat) (r : RoleId) (id part : Nat) (st : PeerStatus) (bs : List Byte) : State :=
  match findLoad s c r id with
  | none => s
  | some l =>
    if st = .ok then
      let n := match p.op with
        | .read _ n => n
        | _ => 0
      peerPart s c r id part (answerBytes bs n)
    else
      let va := (l.parts[part]?.map (·.va)).getD l.site.va
      siteFatal s c r { l.site with va := va } (statusFatal st va.toNat (peerDpa p.op) p.gn)

/-- A posted write is answered; a store was complete already, so its context takes the outcome. -/
def answerWrite (s : State) (p : PeerOut) (c id : Nat) (st : PeerStatus) : State :=
  match findWrite (core s c) id with
  | none => s
  | some w =>
    if st = .ok then
      let s := if w.thru then l1Through s c w.w.tgt w.w.mask w.w.data else s
      modWrite s c id fun w => { w with performed := true }
    else
      failedWrite (dropWrite s c id) c w (statusFatal st w.site.va.toNat (peerDpa p.op) p.gn)

/-- The target of a peer's line. -/
def peerTarget (dev dpa : Nat) : Target := { plainTarget dpa with peer := some dev }

/-- An atomic, or the lane of a vamo, is answered; nothing older of its line fills the L1 from now on (R57, R80). -/
def answerAtomic (s : State) (p : PeerOut) (c : Nat) (r : RoleId) (st : PeerStatus) (bs : List Byte) : State :=
  let old := leNat (answerBytes bs 8)
  let fl : BitVec 5 := ((bs.getD 8 0)).setWidth 5
  match (getRole s c r).block with
  | some (.atomic a) =>
    if a.tag ≠ some p.tag then s
    else
      let s := if st = .ok then l1Purge s c a.tgt else s
      match st with
      | .ok => setAtom (casDirty s a old) c r { a with reply := some (.old (BitVec.ofNat 64 old) fl) }
      | .shadowFull => setAtom s c r { a with reply := some (.shadowFull (BitVec.ofNat 64 old)) }
      | st => siteFatal s c r a.site (statusFatal st a.site.va.toNat a.tgt.dpa p.gn)
  | some (.vamo a) =>
    if a.tag ≠ some p.tag then s
    else
      let s := if st = .ok then l1Purge s c (peerTarget p.dev (peerDpa p.op)) else s
      let (k, va) := match a.todo with
        | [] => (0, (0 : VA))
        | (k, va, _) :: _ => (k, va)
      match st with
      | .ok => setVAtom s c r (laneDone a (BitVec.ofNat 32 old) fl)
      | .shadowFull => setVAtom s c r { a with full := some (k, putBits (BitVec.ofNat 64 old) 5 0 k), tag := none }
      | st => siteFatal s c r { a.site with va := va } (statusFatal st va.toNat (peerDpa p.op) p.gn)
  | _ => s

/-- A request of a copy job is answered. -/
def answerJob (s : State) (p : PeerOut) (c id off : Nat) (st : PeerStatus) (bs : List Byte) : State :=
  match findJob (core s c) id with
  | none => s
  | some j =>
    let fatal := failJob s c id (statusFatal st 0 (peerDpa p.op) p.gn) (min off (jobProg j))
    let v : Word := BitVec.ofNat 64 (leNat (answerBytes bs 8))
    let back (ls : List JobLine) : State :=
      putJob s c { j with left := ls.foldl (fun a l => backLine l a) j.left, refused := some v, accessed := false }
    let line (dpa : Nat) (mask : BitVec 128) (data : Line) (op : Option Contribution) (off : Nat) : JobLine :=
      { w := ⟨peerTarget p.dev dpa, mask, data⟩, op := op, off := off, blk := false }
    let bar := match decodeCopy j.words with
      | .ok i => (copyBarrier i).bind (barrierKey s c)
      | .error _ => none
    let t := match p.op with
      | .read dpa n =>
        if st = .ok then putJob s c { j with fetched := j.fetched ++ [(p.dev, dpa.toNat, answerBytes bs n)] } else fatal
      | .write dpa mask data =>
        match st with
        | .ok => countBytes s bar (maskCount mask)
        | .shadowFull => back [line dpa.toNat mask data none off]
        | _ => fatal
      | .block dpa d =>
        match st with
        | .ok => countBytes s bar 2048
        | .shadowFull =>
          back ((List.range 16).map fun i =>
            line (dpa.toNat + 128 * i) (BitVec.allOnes 128) (blockLine d i) none (off + 128 * i))
        | _ => fatal
      | .contribute x =>
        match st with
        | .ok => ackJob s c id x (((bs.getD 0 0)).setWidth 5)
        | .shadowFull => back [line (128 * x.line) x.mask x.data (some x) off]
        | .retry =>
          let (s, no) := freshId s
          { s with contribs := s.contribs ++
            [{ no := no, x := x, off := off, st := .retry, tgt := peerTarget p.dev (128 * x.line), gn := 0 }] }
        | _ => fatal
      | _ => s
    endFailed t c id

/-- The record of a spawn is answered (R277). -/
def answerRecord (s : State) (p : PeerOut) (u : Submission) (st : PeerStatus) (bs : List Byte) : State :=
  match u.from_ with
  | none => s
  | some (c, r) =>
    if (getRole s c r).block ≠ some (.spawn p.tag) then s
    else if st = .ok then handRecord s c r { u with words := wordsOf 16 (answerBytes bs 128) }
    else
      let w := (peekWord s c r (getRole s c r).pc.toNat).getD 0
      roleFatal s c r w (statusFatal st u.recVa.toNat (peerDpa p.op) p.gn)

/-- A read of a Collie is answered. -/
def answerCollie (s : State) (p : PeerOut) (d : Nat) (st : PeerStatus) (bs : List Byte) : State :=
  let x := collie s d
  let g (e : Remote) : Remote := if e.tag = p.tag then { e with ans := some (if st = .ok then some (answerBytes bs e.n) else none) } else e
  setCollie s d { x with remote := x.remote.map g }

/-- Count a completion that is sent poisoned (R73, R454). -/
def hostPoison (s : State) : State :=
  { s with hostOut := .poisoned, herr := putBits s.herr 31 16 (satAdd 0xFFFF (bits s.herr 31 16) 1) }

/-- PEER_RESPONSE (R427): the answer to an outstanding request; without a route, or once its port has gone DOWN, the
answer is NOROUTE; while the port trains, none comes. -/
def execPeerResponse (tag : Nat) (st : PeerStatus) (data : List (BitVec 8)) (s : State) :
    Host.Outcome State Fault Refusal :=
  match s.peerOut.find? fun p => p.tag == tag with
  | none => .next s
  | some p =>
    if p.port < 12 ∧ portState s p.port = 1 then .next s
    else
      let st := if p.port < 12 ∧ portState s p.port = 2 then st else .noRoute
      let s := { s with peerOut := s.peerOut.filter fun q => q.tag != tag }
      .next (match p.who with
        | .fetch c r key => answerFetch s p c r key st data
        | .load c r id part => answerLoad s p c r id part st data
        | .write c id => answerWrite s p c id st
        | .atomic c r => answerAtomic s p c r st data
        | .job c id off => answerJob s p c id off st data
        | .record u => answerRecord s p u st data
        | .collie d => answerCollie s p d st data
        | .word d t => if st = .ok then s else launchFault s d t 5 7 0
        | .image c r key va => answerImage s p c r key va st data
        | .pref c => prefAnswer s c tag (if st = .ok then some (answerBytes data 128) else none))

/-! ## Page-table multicast (R47, R286, R428) -/

/-- Write a page-table entry whole at its home slice, once it no longer waits there (R47). One that is refused for want of a
shadow is not performed, and FULL is set (R161; log 35). -/
def putEntry (s : State) (dpa : Nat) (v : Word) : State :=
  match sliceWrite s .loc .never false (dpa / 128) (byteMask (dpa % 128) 8) (bytesAt (dpa % 128) (wordBytes v)) with
  | .done s => s
  | .full s _ => s
  | _ => s

/-- The ports of FWD. -/
def fwdPorts (s : State) : List Nat := (List.range 12).filter fun p => bit (reg s rMcastcfg) p

/-- The origin number of a system core of this device. -/
def ptmcOrigin (s : State) (c : Nat) : Nat := 4 * devid s + dieOf c

/-- A ptmc write of a system core: applied here, so that it is not applied again should it come back, and sent over every port of
FWD. -/
def ptmcSend (s : State) (c dpa : Nat) (v : Word) : State :=
  let sq := (core s c).ptmcSeq + 1
  let s := modCore (putEntry s dpa v) c fun k => { k with ptmcSeq := sq }
  let s := { s with ptmcLast := tabSet s.ptmcLast (ptmcOrigin s c) sq }
  if (fwdPorts s).isEmpty then s
  else
    { s with ptmcOut := s.ptmcOut ++
      [{ origin := ptmcOrigin s c, sq := sq, dpa := BitVec.ofNat 44 dpa, val := v, ports := fwdPorts s }] }

/-- PTMC_WRITE_ARRIVAL (R428): applied, forwarded and acknowledged, unless its number is not above the last applied. -/
def execPtmcWriteArrival (port : Nat) (origin sq : Nat) (dpa : BitVec 44) (val : BitVec 64) (s : State) :
    Host.Outcome State Fault Refusal :=
  if 12 ≤ port then .next s
  else if portState s port ≠ 2 ∨ sq ≤ tabD s.ptmcLast origin 0 ∨ entryHeld s dpa.toNat then .next s
  else
    let s := if hasMem s dpa.toNat then putEntry s (dpa.toNat / 8 * 8) val else s
    let fwd := (fwdPorts s).filter (· != port)
    let s := { s with ptmcLast := tabSet s.ptmcLast origin sq, ptmcAck := s.ptmcAck ++ [(origin, sq, port)] }
    .next (if fwd.isEmpty then s
      else { s with ptmcFwd := s.ptmcFwd ++ [{ origin := origin, sq := sq, dpa := dpa, val := val, ports := fwd }] })

/-- PTMC_ACKNOWLEDGEMENT (R428; log 35): the replicas behind one more port have applied the write. -/
def execPtmcAcknowledgement (origin sq : Nat) (s : State) : Host.Outcome State Fault Refusal :=
  let one (p : PtmcOut) : PtmcOut := if p.origin = origin ∧ p.sq = sq then { p with ports := p.ports.drop 1 } else p
  .next { s with ptmcOut := (s.ptmcOut.map one).filter fun p => !p.ports.isEmpty }

/-! ## Span records (R429) -/

def spanWord (ws : List Word) (i : Nat) : Word := ws.getD i 0

def spanOp (ws : List Word) : Nat := bits (spanWord ws 0) 63 60

def spanPort (ws : List Word) : Nat := bits (spanWord ws 0) 59 56

/-- Levels in use. -/
def spanLevels (ws : List Word) : Nat := bits (spanWord ws 0) 55 54 + 1

/-- Paths in use. -/
def spanPaths (ws : List Word) : Nat := bits (spanWord ws 0) 53 52 + 1

def spanGroup (ws : List Word) : Nat := bits (spanWord ws 0) 51 44 + 1

def spanTag (ws : List Word) : BitVec 16 := BitVec.ofNat 16 (bits (spanWord ws 0) 35 20)

/-- Bytes of a chunk. -/
def spanChunk (ws : List Word) : Nat := (bits (spanWord ws 0) 15 0 + 1) * 256

def spanBound (ws : List Word) (l : Nat) : Nat := bits (spanWord ws (8 + 2 * l)) 63 32

def spanAddr (ws : List Word) (i : Nat) : Nat := bits (spanWord ws i) 56 0

/-- The fields of a record pass the check of R430; the record's page and the member table are checked apart. -/
def spanFieldsOk (ws : List Word) : Bool :=
  let n := spanLevels ws
  decide (spanOp ws < 4) && decide (spanPort ws < 12) && decide (2 ≤ spanGroup ws) &&
    bits (spanWord ws 0) 19 16 == 0 &&
    ([2, 3, 4].all fun i => bits (spanWord ws i) 63 57 == 0) &&
    spanWord ws 7 == 0 &&
    ([0, 1, 2, 3].all fun l =>
      if l < n then bits (spanWord ws (8 + 2 * l)) 31 8 == 0 && spanBound ws l != 0 &&
        bits (spanWord ws (9 + 2 * l)) 7 0 == 0
      else spanWord ws (8 + 2 * l) == 0 && spanWord ws (9 + 2 * l) == 0) &&
    spanAddr ws 2 % 256 == 0 && spanAddr ws 3 % 256 == 0 && spanAddr ws 4 % 8 == 0

/-- Tuples a record walks. -/
def spanTuples (ws : List Word) : Nat := ((List.range (spanLevels ws)).map (spanBound ws)).foldl (· * ·) 1

/-- The digits of tuple n, innermost level first. -/
def digits (n : Nat) : List Nat → List Nat
  | [] => []
  | b :: bs => n % b :: digits (n / b) bs

def spanDigits (ws : List Word) (n : Nat) : List Nat := digits n ((List.range (spanLevels ws)).map (spanBound ws))

/-- The number of a tuple given outermost level first, if the record walks it. -/
def tupleNumber (ws : List Word) (t : List Nat) : Option Nat :=
  let ds := t.reverse
  let bs := (List.range (spanLevels ws)).map (spanBound ws)
  if ds.length = bs.length ∧ (ds.zip bs).all fun p => decide (p.1 < p.2) then
    some ((ds.zip bs).foldr (fun p n => p.1 + p.2 * n) 0)
  else none

/-- o(i) of R432 for digits i. -/
def spanOffset (ws : List Word) (ds : List Nat) : Nat :=
  let base : Int := 256 * bits (spanWord ws 5) 31 0
  let sum := ds.zipIdx.foldl (fun (a : Int) p => a + (p.1 : Int) * (spanWord ws (9 + 2 * p.2)).toInt) base
  let wrap := 256 * bits (spanWord ws 5) 63 32
  (sum % ((if wrap = 0 then 2 ^ 57 else wrap : Nat) : Int)).toNat

/-- p(i) of R432. -/
def spanMember (ws : List Word) (ds : List Nat) : Nat :=
  (ds.zipIdx.foldl (fun a p => a + p.1 * bits (spanWord ws (8 + 2 * p.2)) 7 0) (bits (spanWord ws 0) 43 36)) % spanGroup ws

/-- The parts of a chunk (R433): path, byte offset, bytes. -/
def spanSplit (ws : List Word) : List (Nat × Nat × Nat) :=
  let u := bits (spanWord ws 0) 15 0 + 1
  let n := spanPaths ws
  let raw := (List.range n).map fun k => bits (spanWord ws 6) (16 * k + 15) (16 * k)
  let w := if raw.foldl (· + ·) 0 = 0 then List.replicate n 1 else raw
  let total := w.foldl (· + ·) 0
  let us := w.tail.map fun x => u * x / total
  let sizes := (u - us.foldl (· + ·) 0) :: us
  ((sizes.zipIdx.foldl (fun (a : Nat × List (Nat × Nat × Nat)) p =>
    (a.1 + 256 * p.1, if p.1 = 0 then a.2 else a.2 ++ [(p.2, a.1, 256 * p.1)])) (0, []))).2

/-! ## Memory of a collective (R431, R432) -/

/-- How an access of the walkers ends. -/
inductive SpanRes (α : Type) where
  | ok (a : α)
  | wait
  | fatal (s : State) (f : Fatal)

/-- The translation state of a port's walkers for a record (R26, R33, R35). -/
def spanUnit (s : State) (x : Posted) : XUnit := ⟨x.xid, x.root, (port s (spanPort x.words)).tlb⟩

/-- Locate one line for the walkers: under the issuing context's XID, in its mode, in local memory. -/
def spanLine (s : State) (x : Posted) (want : Want) (a : Nat) : SpanRes (State × Target) :=
  if NW ≤ a then .fatal s (fWINDOW a)
  else
    match translate s (spanUnit s x) want (!isSystem x.core) false (want == .write) a with
    | .error .held => .wait
    | .error e => .fatal s (xFatal a e)
    | .ok (s, tlb, t, _) =>
      let p := spanPort x.words
      let s := setPort s p { port s p with tlb := tlb }
      if t.peer.isSome then .fatal s (fatalAt 0x41 5 a t.dpa) else .ok (s, t)

/-- Read a chunk at the home slices (R431). -/
def spanRead (x : Posted) : State → List (Nat × Nat) → SpanRes (State × List Byte)
  | s, [] => .ok (s, [])
  | s, (a, n) :: r =>
    match spanLine s x .read a with
    | .wait => .wait
    | .fatal s f => .fatal s f
    | .ok (s, t) =>
      if lineHeld s (t.dpa / 128) then .wait
      else
        let (s, l, bad) := sliceRead s .never t.cv (t.dpa / 128) (t.dpa % 128) n
        if bad then .fatal s (fatalAt 0x44 1 a t.dpa)
        else
          match spanRead x s r with
          | .ok (s, bs) => .ok (s, bytesFrom l (t.dpa % 128) n ++ bs)
          | e => e

/-- Every line of a chunk may be written now. -/
def spanWritable (s : State) (x : Posted) : List (Nat × Nat) → SpanRes Unit
  | [] => .ok ()
  | (a, _) :: r =>
    match spanLine s x .write a with
    | .wait => .wait
    | .fatal s f => .fatal s f
    | .ok (_, t) => if targetWaits s t then .wait else spanWritable s x r

/-- Write a chunk: the device writes, and nothing is allocated in the Deck (R432). -/
def spanWriteLines (x : Posted) : State → List (Nat × Nat) → List Byte → SpanRes State
  | s, [], _ => .ok s
  | s, (a, n) :: r, bs =>
    match spanLine s x .write a with
    | .wait => .wait
    | .fatal s f => .fatal s f
    | .ok (s, t) =>
      match sliceWrite s .loc .never false (t.dpa / 128) (byteMask (t.dpa % 128) n) (bytesAt (t.dpa % 128) (bs.take n)) with
      | .done s => spanWriteLines x s r (bs.drop n)
      | .full s _ => .fatal s (fatalAt 0x44 2 a t.dpa)
      | _ => .wait

def spanWrite (s : State) (x : Posted) (a : Nat) (bs : List Byte) : SpanRes State :=
  match spanWritable s x (linesOf a bs.length) with
  | .wait => .wait
  | .fatal s f => .fatal s f
  | .ok _ => spanWriteLines x s (linesOf a bs.length) bs

/-- Received OP source, element by element; the received value is the left operand (R432). -/
def spanCombine (op : Nat) (rcv src : List Byte) : List Byte :=
  let n := src.length / 4
  let pairs := (List.range n).map fun i => (leNat ((rcv.drop (4 * i)).take 4), leNat ((src.drop (4 * i)).take 4))
  let one (p : Nat × Nat) : Nat := match op with
    | 1 => (sliceOp .fadd 32 p.1 p.2).1
    | 2 => (sliceOp .fadd2 32 p.1 p.2).1
    | _ => (p.1 + p.2) % 2 ^ 32
  pairs.flatMap fun p => leBytes 4 (one p)

/-! ## Posted records -/

/-- A posted record by its port and number. -/
def findPosted (s : State) (p k : Nat) : Option Posted := (port s p).posted.find? fun x => x.k == k

def putPosted (s : State) (p : Nat) (x : Posted) : State :=
  let y := port s p
  setPort s p { y with posted := y.posted.map fun z => if z.k = x.k then x else z }

/-- A record is gone: its parts on their way are forgotten. -/
def dropPosted (s : State) (p k : Nat) : State :=
  let y := port s p
  setPort { s with sent := s.sent.filter fun q => !(q.home == p && q.k == k) } p
    { y with posted := y.posted.filter fun z => z.k != k }

/-- A collective fails (R435): its walkers stop; the context that issued it, if it still runs, takes the error. -/
def failPosted (s : State) (p : Nat) (x : Posted) (f : Fatal) : State :=
  let s := dropPosted s p x.k
  if isSystem x.core ∨ (x.task.isSome ∧ (core s x.core).task = x.task) then
    engineFatal s x.core f 3 (x.words.take 4) 0
  else s

/-- The chunk received for tuple n, once all its parts have come. -/
def received (x : Posted) (n : Nat) : Option (List Byte) :=
  let mine := x.got.filter fun g => tupleNumber x.words g.tuple == some n
  let size := mine.foldl (fun a g => a + g.bytes.length) 0
  if size = spanChunk x.words then
    some ((List.range (spanChunk x.words / 256)).flatMap fun i =>
      match mine.find? fun g => decide (g.off ≤ 256 * i ∧ 256 * i < g.off + g.bytes.length) with
      | none => List.replicate 256 0
      | some g => (g.bytes.drop (256 * i - g.off)).take 256)
  else none

/-- A part belongs to the record (R434). -/
def partMatches (x : Posted) (t : CollPart) : Bool := spanTag x.words == t.gtag && spanWord x.words 1 == t.sq

/-- A part may be taken: its tuple is walked, its bytes lie in the chunk, and none of them has been received. -/
def partFits (x : Posted) (t : CollPart) : Bool :=
  match tupleNumber x.words t.tuple with
  | none => false
  | some n =>
    let len := t.bytes.length
    len != 0 && len % 256 == 0 && t.off % 256 == 0 && decide (t.off + len ≤ spanChunk x.words) &&
      !(x.got.any fun g => tupleNumber x.words g.tuple == some n &&
        decide (g.off < t.off + len ∧ t.off < g.off + g.bytes.length))

/-- Take a part into a record. -/
def joinPart (x : Posted) (t : CollPart) : Posted := { x with got := x.got ++ [⟨t.tuple, t.off, t.bytes⟩] }

/-- The posted record that a part which came in at a port names, with its port: the ingress port's, else another port's, since a
part may come over any port (R433; log 37). -/
def matchPart (s : State) (at_ : Nat) (t : CollPart) : Option (Nat × Posted) :=
  match (port s at_).posted.find? fun x => partMatches x t with
  | some x => some (at_, x)
  | none => s.ports.findSome? fun e => (e.2.posted.find? fun x => partMatches x t).map fun x => (e.1, x)

/-! ## Walking (R432) -/

/-- Send the parts of a chunk for tuple n (R432, R433). To the device itself, they are delivered at once. -/
def sendParts (s : State) (p : Nat) (x : Posted) (n : Nat) (bs : List Byte) : State × Posted × Bool :=
  let ds := spanDigits x.words n
  let dev := x.member.getD (spanMember x.words ds) 0
  (spanSplit x.words).foldl (fun (a : State × Posted × Bool) part =>
    let (s, x, bad) := a
    let t : CollPart := { gtag := spanTag x.words, sq := spanWord x.words 1, tuple := ds.reverse, off := part.2.1,
                          bytes := (bs.drop part.2.1).take part.2.2 }
    if dev = devid s then (if partFits x t then (s, joinPart x t, bad) else (s, x, true))
    else
      let (s, tag) := freshId s
      let q : SentPart := { tag := tag, home := p, k := x.k, port := (p + 3 * part.1) % 12, dev := dev, part := t }
      ({ s with sent := s.sent ++ [q] }, { x with out := x.out ++ [tag] }, bad)) (s, x, false)

/-- How one act of the walkers ends. -/
inductive Walked where
  | on (s : State) (x : Posted)
  | stuck
  | fails (s : State) (f : Fatal)

/-- The close of an inner run whose last tuple is n (R432). -/
def closeRun (s : State) (x : Posted) (n : Nat) : Walked :=
  match received x n with
  | none => .stuck
  | some rcv =>
    let ds := spanDigits x.words n
    let o := spanOffset x.words (((ds.headD 0) + 1) :: ds.tail)
    let dst := linesOf ((spanAddr x.words 2 + o) % 2 ^ 57) (spanChunk x.words)
    let target := (spanAddr x.words 3 + o) % 2 ^ 57
    let data : SpanRes (State × List Byte) :=
      if spanOp x.words = 0 then .ok (s, rcv)
      else
        match spanRead x s dst with
        | .ok (s, src) => .ok (s, spanCombine (spanOp x.words) rcv src)
        | e => e
    match data with
    | .wait => .stuck
    | .fatal s f => .fails s f
    | .ok (s, bs) =>
      match spanWrite s x target bs with
      | .wait => .stuck
      | .fatal s f => .fails s f
      | .ok s => .on s { x with closed := x.closed + 1 }

/-- Send of tuple n (R432). -/
def sendTuple (s : State) (p : Nat) (x : Posted) (n : Nat) : Walked :=
  let ds := spanDigits x.words n
  let o := spanOffset x.words ds
  let src := linesOf ((spanAddr x.words 2 + o) % 2 ^ 57) (spanChunk x.words)
  let go (s : State) (bs : List Byte) : Walked :=
    match sendParts s p x n bs with
    | (s, _, true) => .fails s (fENGINE 0x31)
    | (s, x, false) => .on s { x with walked := n + 1 }
  if ds.headD 0 = 0 then
    match spanRead x s src with
    | .wait => .stuck
    | .fatal s f => .fails s f
    | .ok (s, bs) => go s bs
  else
    match received x (n - 1) with
    | none => .stuck
    | some rcv =>
      if spanOp x.words = 0 then
        match spanWrite s x ((spanAddr x.words 3 + o) % 2 ^ 57) rcv with
        | .wait => .stuck
        | .fatal s f => .fails s f
        | .ok s => go s rcv
      else
        match spanRead x s src with
        | .wait => .stuck
        | .fatal s f => .fails s f
        | .ok (s, bs) => go s (spanCombine (spanOp x.words) rcv bs)

/-- The next act of the walkers, if there is one: the close of the run just sent, else the next send. -/
def walkAct (s : State) (p : Nat) (x : Posted) : Walked :=
  let b0 := spanBound x.words 0
  if x.walked = (x.closed + 1) * b0 then closeRun s x (x.walked - 1)
  else if x.walked < spanTuples x.words then sendTuple s p x x.walked
  else .stuck

/-- The walkers go on with a record as far as they can. -/
def walkOn (p : Nat) : (fuel : Nat) → State → Posted → State
  | 0, s, x => putPosted s p x
  | fuel + 1, s, x =>
    match walkAct s p x with
    | .on s x => walkOn p fuel s x
    | .stuck => putPosted s p x
    | .fails s f => failPosted (putPosted s p x) p x f

/-- Enough for every send and close that is left. -/
def walkFuel (x : Posted) : Nat := 2 * spanTuples x.words + 1

/-- A port answers a part. -/
def answerPart (s : State) (p : Nat) (t : CollPart) (st : PartStatus) : State :=
  let y := port s p
  setPort s p { y with answers := y.answers ++ [(t, st)] }

/-- A part that came in at port `at_` meets its record. -/
def deliverPart (s : State) (at_ p : Nat) (x : Posted) (t : CollPart) : State :=
  if partFits x t then
    let x := joinPart x t
    walkOn p (walkFuel x) (answerPart (putPosted s p x) at_ t .ok) x
  else answerPart s at_ t .refused

/-- Take the parked parts that name a record just posted, in arrival order (R434). -/
def unpark (s : State) : State :=
  s.ports.foldl (fun s e =>
    (port s e.1).parked.foldl (fun s t =>
      match matchPart s e.1 t with
      | none => s
      | some (p, x) =>
        let y := port s e.1
        deliverPart (setPort s e.1 { y with parked := y.parked.erase t }) e.1 p x t) s) s

/-! ## coll (R279, R430) -/

/-- The issuing role's plain store of a word of the record or of the step-state page (R430): at the home slice, where the walkers
read it (R431), and past the core's L1 (log 37). -/
def storeWord (c : Nat) (s : State) (t : Target) (v : Word) : Except Stop State :=
  let s := l1Purge s c t
  match sliceWrite s .loc (policyOf t) false (t.dpa / 128) (byteMask (t.dpa % 128) 8) (bytesAt (t.dpa % 128) (wordBytes v)) with
  | .done s => .ok s
  | .full s v => .error (.trapKeep s tSHADOW v)
  | _ => .error (.wait .other)

/-- The two lines of a record, located for reading and writing. -/
def locateSpan (c : Nat) (user : Bool) (a : Nat) (s : State) : Except Stop (State × Target × Target) := do
  let one (s : State) (a : Nat) : Except Stop (State × Target) :=
    if NW ≤ a then .error (.fatal s (fWINDOW a))
    else
      match coreLoc s c .both user false true a 64 with
      | .error e => .error (xStop s a e)
      | .ok (s, .dev t _) => .ok (s, t)
      | .ok (s, .pool _) => .error (.fatal s (fWINDOW a))
  let (s, t1) ← one s a
  let (s, t2) ← one s ((a + 64) % 2 ^ 57)
  .ok (s, t1, t2)

/-- A fatal ENGINE SPAN of the check (R430); it names the record's first four words. -/
def spanFail (s : State) (ws : List Word) : Stop :=
  .fatal s { fENGINE 0x30 with unit := 3, cmd := ws.take 4 }

/-- A record that passed its check: its words, its member table and its place there. -/
structure SpanRec where
  words  : List Word
  member : List Nat
  rank   : Nat

/-- Read and check a record (R430). -/
def checkSpan (s : State) (c : Nat) (t1 t2 : Target) : Except Stop (State × SpanRec) :=
  if t1.peer.isSome ∨ t2.peer.isSome then .error (spanFail s [])
  else if lineHeld s (t1.dpa / 128) ∨ lineHeld s (t2.dpa / 128) then .error (.wait .other)
  else
    let (s, l1, b1) := sliceRead s (policyOf t1) false (t1.dpa / 128) (t1.dpa % 128) 64
    let (s, l2, b2) := sliceRead s (policyOf t2) false (t2.dpa / 128) (t2.dpa % 128) 64
    if b1 ∨ b2 then .error (.fatal s (fatalAt 0x44 1 0 (if b1 then t1.dpa else t2.dpa)))
    else
      let ws := wordsOf 16 (bytesFrom l1 (t1.dpa % 128) 64 ++ bytesFrom l2 (t2.dpa % 128) 64)
      if !spanFieldsOk ws ∨ (sspOn s ∧ !(t1.ver && t2.ver)) then .error (spanFail s ws)
      else
        let n := 2 * spanGroup ws
        let x := (core s c).xid
        if collieHeld s x (spanAddr ws 4) n then .error (.wait .other)
        else
          match readVia x s (linesOf (spanAddr ws 4) n) with
          | none => .error (spanFail s ws)
          | some (s, bs) =>
            let ms := (List.range (spanGroup ws)).map fun i => leNat ((bs.drop (2 * i)).take 2) % 4096
            match ms.findIdx? (· == devid s) with
            | none => .error (spanFail s ws)
            | some r => .ok (s, ⟨ws, ms, r⟩)

/-- Where the step-state page holds a port's sequence counter (R194). -/
def seqTarget (s : State) (p : Nat) : Target := { plainTarget (sspBase s + 0x800 + 8 * p) with alloc := 0 }

/-- The sequence number and weights that a collective takes (R193, R194, R430). -/
def readSeq (s : State) (p : Nat) : Except Stop (State × Word × Word) :=
  if !sspOn s then .ok (s, 0, 0)
  else if !sspGood s then .error (.fatal s (fatalAt 0x41 4 0 (sspBase s)))
  else
    let a := (seqTarget s p).dpa
    let b := sspBase s + 0x860 + 8 * p
    if targetWaits s (seqTarget s p) ∨ lineHeld s (b / 128) then .error (.wait .other)
    else
      let (s, la, x1) := sliceRead s .second false (a / 128) (a % 128) 8
      let (s, lb, x2) := sliceRead s .second false (b / 128) (b % 128) 8
      if x1 ∨ x2 then .error (.fatal s (fatalAt 0x44 1 0 (sspBase s)))
      else .ok (s, BitVec.ofNat 64 (leNat (bytesFrom la (a % 128) 8)), BitVec.ofNat 64 (leNat (bytesFrom lb (b % 128) 8)))

/-- Post a record at its port's walkers, which begin at once. -/
def postSpan (s : State) (c : Nat) (sem : Option (BitVec 5)) (x : SpanRec) : State :=
  let p := spanPort x.words
  let y := port s p
  let z : Posted :=
    { k := y.nextK, words := x.words, core := c, task := (core s c).task, xid := (core s c).xid, root := (core s c).root, sem := sem, rank := x.rank,
      member := x.member, got := [], walked := 0, closed := 0, out := [] }
  let s := setPort s p { y with posted := y.posted ++ [z], nextK := y.nextK + 1 }
  unpark (walkOn p (walkFuel z) s z)

/-- CollPost (R430). The counter is advanced last, so that a store of the record that is refused leaves it as it was. -/
def collPost (c : Nat) (r : RoleId) (sem : Option (BitVec 5)) (a : Nat) (s : State) : Except Stop (State × Word) := do
  let (s, t1, t2) ← locateSpan c (!systemMode s c r) a s
  let (s, x) ← checkSpan s c t1 t2
  if 8 ≤ (port s (spanPort x.words)).posted.length then .error (.wait .other)
  else if targetWaits s t1 ∨ targetWaits s t2 then .error (.wait .other)
  else
    let p := spanPort x.words
    let (s, sq, w6) ← readSeq s p
    let s ← storeWord c s { t1 with dpa := t1.dpa + 8 } sq
    let s ← storeWord c s { t1 with dpa := t1.dpa + 48 } w6
    let s ← if sspOn s then storeWord c s (seqTarget s p) (sq + 1) else .ok s
    .ok (postSpan s c sem { x with words := (x.words.set 1 sq).set 6 w6 }, sq)

/-- COLL (R279): the role's release, then the post. -/
def execColl (m : Mark) (rd ra : G6) (sem : Option (BitVec 5)) (s : State) : Host.Outcome State Fault Refusal :=
  issue (.coll m rd ra sem) m 1 noGuard
    (fun c r s => do
      checkUse c r s [.g ra] (.g rd)
      let (s1, b) := readG c r s ra
      let a := b.val.toNat % 2 ^ 57
      if a % 64 ≠ 0 then .error (.fatal s (fALIGN a))
      else if stage c r s = 0 then
        if !relReady s c r .dev then .error (.wait .other) else .error (.hold (setStage c r (relBegin s c r .dev) 1))
      else if !relSettled s c r then .error (.wait .other)
      else do
        let (s, sq) ← collPost c r sem a s1
        done (writeG c r s rd ⟨sq, false⟩)) s

/-! ## Parts and their answers (R434, R435) -/

/-- Bytes parked at a port. -/
def parkedBytes (y : Port) : Nat := y.parked.foldl (fun a t => a + t.bytes.length) 0

/-- COLLECTIVE_PART (R434): a part arrives at an UP port; it meets its record, or is parked while there is room. -/
def execCollectivePart (port_ : Nat) (part : CollPart) (s : State) : Host.Outcome State Fault Refusal :=
  if 12 ≤ port_ then .next s
  else if portState s port_ ≠ 2 then .next s
  else
    .next (match matchPart s port_ part with
      | some (p, x) => deliverPart s port_ p x part
      | none =>
        let y := port s port_
        if parkedBytes y + part.bytes.length ≤ 2 ^ 18 then setPort s port_ { y with parked := y.parked ++ [part] } else s)

/-- PARKED_PART_DISCARD (R434): the oldest parked part has been parked for 2 ms. -/
def execParkedPartDiscard (port_ : Nat) (s : State) : Host.Outcome State Fault Refusal :=
  if 12 ≤ port_ then .next s
  else
    .next (match (port s port_).parked with
      | [] => s
      | t :: r =>
        answerPart (countReg (setPort s port_ { port s port_ with parked := r }) (rPortstat port_) 23 16 1) port_ t .refused)

/-- Every send is made and acknowledged, and every run is closed (R279). -/
def spanDone (x : Posted) : Bool :=
  x.walked == spanTuples x.words && x.closed * spanBound x.words 0 == spanTuples x.words && x.out.isEmpty

/-- COLLECTIVE_COMPLETE (R279): the walkers go on if they can; a collective that is complete adds to its semaphore. -/
def execCollectiveComplete (port_ : Nat) (k : Nat) (s : State) : Host.Outcome State Fault Refusal :=
  if 12 ≤ port_ then .next s
  else
    match findPosted s port_ k with
    | none => .next s
    | some x =>
      if spanDone x then
        let s := dropPosted s port_ k
        let runs := isSystem x.core || (x.task.isSome && (core s x.core).task == x.task)
        .next (match x.sem with
          | some n => if runs then semAdd s x.core n.toNat 1 else s
          | none => s)
      else .next (walkOn port_ (walkFuel x) s x)

/-- COLLECTIVE_TIMEOUT (R435): 2 ms without progress. -/
def execCollectiveTimeout (port_ : Nat) (k : Nat) (s : State) : Host.Outcome State Fault Refusal :=
  if 12 ≤ port_ then .next s
  else
    .next (match findPosted s port_ k with
      | none => s
      | some x => if spanDone x then s else failPosted s port_ x (fENGINE 0x32))

/-- PART_ANSWER (R435): the answer to a part sent; a part whose port is DOWN has no route. -/
def execPartAnswer (port_ : Nat) (tag : Nat) (st : PartStatus) (s : State) : Host.Outcome State Fault Refusal :=
  if 12 ≤ port_ then .next s
  else
    match s.sent.find? fun q => q.tag == tag with
    | none => .next s
    | some q =>
      if q.port < 12 ∧ portState s q.port = 1 then .next s
      else
        let ok := decide (q.port < 12) && portState s q.port == 2 && st == .ok
        let s := { s with sent := s.sent.filter fun p => p.tag != tag }
        .next (match findPosted s q.home q.k with
          | none => s
          | some x =>
            if ok then putPosted s q.home { x with out := x.out.filter (· != tag) }
            else failPosted s q.home x (fENGINE 0x31))

end Sys2Proof.Machine
end

