-- ==== Sys2Proof/Machine/Power.lean ====
section
/-! DEFINITION. Sys2Proof/Machine/Power.lean: islands, clock levels and telemetry (R13, R433, R465), and the thermal trip
(R466). -/

namespace Sys2Proof.Machine

/-! ## Clock levels (R465) -/

/-- The cores of core island i (R13): clusters 0 to 2, or 3 and 4, of its die. -/
def islandCores (i : Nat) : List Nat :=
  let d := i / 2
  let ks : List Nat := if i % 2 = 0 then [0, 1, 2] else [3, 4]
  ks.flatMap fun k => (List.range 48).map fun c => 48 * (5 * d + k) + c

/-- A core of the island holds a context. -/
def islandHeld (s : State) (i : Nat) : Bool := (islandCores i).any fun c => (core s c).task.isSome

/-- A write to PWRCTL is refused (R465). -/
def levelRefused (s : State) (i lv : Nat) : Bool :=
  bit (reg s (rPwrctl i)) 63 || decide (9 ≤ lv) ||
    (lv == 0 && (decide (8 ≤ i) || i % 2 == 1 || islandHeld s i))

/-- A write to PWRCTL. -/
def pwrctlSet (s : State) (i : Nat) (x : Word) : State :=
  let n := rPwrctl i
  let s := if bit x 62 then putReg s n 62 62 0 else s
  if levelRefused s i (bits x 3 0) then putReg s n 62 62 1
  else putReg (putReg s n 3 0 (bits x 3 0)) n 63 63 1

/-- PWRCTL_WRITE (R465). -/
def execPwrctlWrite (i : Nat) (x : BitVec 64) (s : State) : Host.Outcome State Fault Refusal :=
  if 16 ≤ i then .next s else .next (pwrctlSet s i x)

/-- POWER_CHANGE_DONE (R465). -/
def execPowerChangeDone (i : Nat) (s : State) : Host.Outcome State Fault Refusal :=
  if 16 ≤ i then .next s else .next (putReg s (rPwrctl i) 63 63 0)

/-! ## Telemetry (R433, R465, R466) -/

/-- A sample of an island: POWER, TEMP, and SEQ one higher. -/
def sampleIsland (s : State) (x : TeleSample) : State :=
  let n := rTele x.island
  setReg s n (ofFields [(48, x.power.toNat), (32, x.temp.toNat), (0, (bits (reg s n) 15 0 + 1) % 2 ^ 16)])

/-- GB/s of a port's trained lanes: 28 each (R423). -/
def trainedRate (s : State) (p : Nat) : Nat :=
  28 * ((List.range 8).filter fun i => bit (reg s (rPortstat p)) (54 + i)).length

/-- RATE of a port (R433); with no flit sent, nothing was replayed. -/
def samplePort (s : State) (x : PortSample) : State :=
  let full := 4 * trainedRate s x.port
  let rate := if portState s x.port = 0 then 0
    else if x.sent = 0 then full
    else full * (x.sent - x.replayed) / x.sent
  putReg s (rPortstat x.port) 15 0 rate

/-- The first island of a sample whose hottest sensor has reached a temperature in °C. -/
def hotIsland (l : List TeleSample) (t : Nat) : Option Nat := (l.find? fun x => decide (4 * t ≤ x.temp.toNat)).map (·.island)

/-- WARN, and the trip: island 15 drops to LEVEL 1, and every other clock stops (R466). -/
def thermal (s : State) (l : List TeleSample) : State :=
  let r := reg s rThermctl
  let s := if (hotIsland l (bits r 23 16)).isSome then putReg s rThermctl 62 62 1 else s
  match hotIsland l (bits r 15 8) with
  | none => s
  | some i =>
    if tripped s then s
    else putReg (putReg (putReg s rThermctl 63 63 1) rThermctl 61 58 i) (rPwrctl 15) 3 0 1

/-- TELEMETRY_SAMPLE (R465): one millisecond's sample of the islands and ports. -/
def execTelemetrySample (isl : List TeleSample) (ports : List PortSample) (s : State) :
    Host.Outcome State Fault Refusal :=
  if (isl.any fun x => decide (16 ≤ x.island)) || (ports.any fun x => decide (12 ≤ x.port)) then .next s
  else .next (thermal (ports.foldl samplePort (isl.foldl sampleIsland s)) isl)

end Sys2Proof.Machine
end

