-- ==== Sys2Proof/Machine/CoreRegs.lean ====
section
/-! DEFINITION. Sys2Proof/Machine/CoreRegs.lean: the registers of a role and of a core, by number (R280): what mfsr reads
and mtsr writes of them (R27, R44, R138, R203, R209, R220, R266, R438, R451). -/

namespace Sys2Proof.Machine

/-- A performance counter as read (R451): one that counts an event of time shows a free value (log 5). -/
def pmcRead (s : State) (c i : Nat) : Word :=
  let k := core s c
  let sel := tabD k.pmsel i 0
  if bit sel 63 ∧ isClockEvent (bits sel 7 0) then Config.pmcAt (16 * c + i) s.tick else tabD k.pmc i 0

/-- A role's trap registers (R438). -/
def trapRead (x : Role) (n : Nat) : Word :=
  if n = 0x20 then x.tvec
  else if n = 0x21 then x.tpc.zeroExtend 64
  else if n = 0x22 then x.tcause.zeroExtend 64
  else if n = 0x23 then x.tval
  else if n = 0x24 then x.vstart.zeroExtend 64
  else x.tstat.zeroExtend 64

/-- TSTAT as read: a system core's stream is always in system mode. -/
def tstatRead (s : State) (c : Nat) (r : RoleId) : Word :=
  putBit ((getRole s c r).tstat.zeroExtend 64) 2 (systemMode s c r)

/-- A boundary register as read (R50): a byte offset. -/
def boundRead (b : BitVec 7) : Word := BitVec.ofNat 64 (b.toNat * 2 ^ 14)

/-- A register of a role or core as read (R280). -/
def coreRegRead (s : State) (c : Nat) (r : RoleId) (n : Nat) : Word :=
  let k := core s c
  let x := k.role r
  if n = 0 then flagsWord s c r
  else if n = 1 then k.win.zeroExtend 64
  else if n = 2 then x.walk
  else if n = 3 then x.safecnt.zeroExtend 64
  else if inBlock n 4 4 then (tabD x.lc (n - 4) (0 : BitVec 32)).zeroExtend 64
  else if n = 8 then Config.clockAt c s.tick
  else if n = 0x25 then tstatRead s c r
  else if inBlock n 0x20 6 then trapRead x n
  else if n = 0x40 then k.xid.zeroExtend 64
  else if n = 0x41 then rectWord c k
  else if n = 0x42 then k.qctl.zeroExtend 64
  else if n = 0x43 then boundRead k.bnd0
  else if n = 0x44 then boundRead k.bnd1
  else if n = 0x45 then boundRead k.bnd2
  else if n = 0x46 then k.specdrop
  else if n = 0x47 then k.cretry
  else if inBlock n 0x60 32 then tabD k.hdesc (n - 0x60) 0
  else if inBlock n 0x80 16 then pmcRead s c (n - 0x80)
  else if inBlock n 0x90 16 then tabD k.pmsel (n - 0x90) 0
  else 0

/-- A write to a trap register (R438). -/
def trapWrite (x : Role) (n : Nat) (w : Word) : Role :=
  if n = 0x20 then { x with tvec := w &&& 0x01FFFFFFFFFFFFF9#64 }
  else if n = 0x21 then { x with tpc := BitVec.ofNat 57 (bits w 56 3 * 8) }
  else if n = 0x22 then { x with tcause := w.setWidth 9 }
  else if n = 0x23 then { x with tval := w }
  else if n = 0x24 then { x with vstart := w.setWidth 6 }
  else { x with tstat := (x.tstat &&& 0xFFFD#16) ||| (if bit w 1 then 0x2#16 else 0#16) }

/-- A write to a selector: the counter keeps what it showed (log 5). -/
def pmselWrite (s : State) (c i : Nat) (w : Word) : State :=
  let k := core s c
  setCore s c { k with pmc := tabSet k.pmc i (pmcRead s c i)
                       pmsel := tabSet k.pmsel i (w &&& 0x80000000000007FF#64) }

/-- A write to a register of a role or core; a read-only one ignores it (R281). -/
def coreRegWrite (s : State) (c : Nat) (r : RoleId) (n : Nat) (w : Word) : State :=
  if n = 0 then modRole s c r fun x => { x with flags := w.setWidth 5 }
  else if inBlock n 4 4 then modRole s c r fun x => { x with lc := tabSet x.lc (n - 4) (w.setWidth 32) }
  else if inBlock n 0x20 6 then modRole s c r fun x => trapWrite x n w
  else if n = 0x40 then loadXid s c (w.setWidth 16)
  else if n = 0x46 then modCore s c fun k => { k with specdrop := w }
  else if n = 0x47 then modCore s c fun k => { k with cretry := w }
  else if inBlock n 0x80 16 then modCore s c fun k => { k with pmc := tabSet k.pmc (n - 0x80) w }
  else if inBlock n 0x90 16 then pmselWrite s c (n - 0x90) w
  else s

end Sys2Proof.Machine
end

