-- ==== Sys2Proof/Machine/Planes.lean ====
section
/-! DEFINITION. Sys2Proof/Machine/Planes.lean: the configuration image of a flash slot (R460, R461), unit planes and their
registers (R461), difference images (R463), and the plane switch (R464). -/

namespace Sys2Proof.Machine

/-! ## Byte images -/

/-- The .dword at an offset of an image. -/
def imgWord (img : List Byte) (off : Nat) : Word := BitVec.ofNat 64 (leNat ((img.drop off).take 8))

/-- Bytes of a signature (R458). -/
def sigLen : Nat := 29792

/-- One bit of a CRC-32C (log 13). -/
def crcBit (c : BitVec 32) : BitVec 32 := if c.getLsbD 0 then (c >>> 1) ^^^ 0x82F63B78#32 else c >>> 1

/-- One byte of a CRC-32C. -/
def crcByte (c : BitVec 32) (b : Byte) : BitVec 32 :=
  (List.range 8).foldl (fun c _ => crcBit c) (c ^^^ b.zeroExtend 32)

/-- CRC-32C of a byte string (log 13). -/
def crc32c (bs : List Byte) : BitVec 32 := ~~~(bs.foldl crcByte 0xFFFFFFFF#32)

/-- The signature behind `len` image bytes verifies under a key (R458, R463). -/
def signed (key img : List Byte) (len : Nat) : Bool :=
  decide (len + sigLen ≤ img.length) && Config.slhVerify key (img.take len) ((img.drop len).take sigLen)

/-! ## The boot image (R460, R461) -/

/-- LEN of a boot image. -/
def imgLen (img : List Byte) : Nat := (imgWord img 0x10).toNat

/-- Entries of the unit table. -/
def imgUnits (img : List Byte) : Nat := bits (imgWord img 0x18) 15 0

/-- Place and length of unit i's plane. -/
def planeAt (img : List Byte) (i : Nat) : Nat × Nat :=
  ((imgWord img (0x1080 + 32 * i + 16)).toNat, (imgWord img (0x1080 + 32 * i + 24)).toNat)

/-- Unit i of the table, with its initial plane. -/
def unitAt (img : List Byte) (i : Nat) : UnitPlane :=
  let w0 := imgWord img (0x1080 + 32 * i)
  let w1 := imgWord img (0x1080 + 32 * i + 8)
  let p := (img.drop (planeAt img i).1).take (planeAt img i).2
  { unit := bits w0 63 48, kind := bits w0 47 40, inst := bits w0 39 32, regbase := bits w0 11 0, regcnt := bits w1 63 48,
    active := p, shadow := p, waiting := false }

/-- An entry of the table keeps R461. -/
def unitOk (img : List Byte) (i : Nat) : Bool :=
  let w0 := imgWord img (0x1080 + 32 * i)
  let w1 := imgWord img (0x1080 + 32 * i + 8)
  let u := unitAt img i
  let p := planeAt img i
  decide (1 ≤ u.kind ∧ u.kind ≤ 10) && bits w0 31 12 == 0 && bits w1 47 0 == 0 && decide (u.regcnt ≤ 2048) &&
    p.1 % 8 == 0 && p.2 % 8 == 0 && decide (8 * u.regcnt ≤ p.2) &&
    (!([6, 7, 9].contains u.kind) || u.inst == 0)

/-- Two regions share a byte. -/
def overlap (a b : Nat × Nat) : Bool := a.2 != 0 && b.2 != 0 && decide (a.1 < b.1 + b.2 ∧ b.1 < a.1 + a.2)

/-- No two regions of a list share a byte. -/
def disjoint : List (Nat × Nat) → Bool
  | [] => true
  | a :: r => !(r.any (overlap a)) && disjoint r

/-- A boot image keeps its layout (R460, R461). -/
def imageOk (img : List Byte) : Bool :=
  let n := imgUnits img
  let len := imgLen img
  let is := List.range n
  let regions := [(0, 0x1080), (0x1080, 32 * n), ((imgWord img 0x20).toNat, (imgWord img 0x28).toNat)] ++ is.map (planeAt img)
  imgWord img 0 == 0x00000001314B534B#64 && bits (imgWord img 8) 63 32 == 0 && len % 8 == 0 &&
    decide (1 ≤ n ∧ n ≤ 4096) && bits (imgWord img 0x18) 63 16 == 0 && (imgWord img 0x20).toNat % 8 == 0 &&
    imgWord img 0x30 == 0 && imgWord img 0x38 == 0 && is.all (unitOk img) &&
    distinct (is.map fun i => (unitAt img i).unit) && (regions.all fun r => decide (r.1 + r.2 ≤ len)) && disjoint regions

/-! ## Planes and registers (R461) -/

/-- The RW fields of a register take a plane's bits. -/
def planeReg (s : State) (u : UnitPlane) (n : Nat) (x : Word) : State :=
  if n = rHxid then
    let s := setReg s rHxid (BitVec.ofNat 64 (bits x 15 0))
    { s with hostRoot := rootEntry s (bits x 15 0) }
  else if inBlock n 0x420 12 then portcfgSet s (n - 0x420) x
  else if n = 0x110 then { s with ks := { s.ks with cfg := x &&& kscfgMask } }
  else if n < 0x100 then (if u.kind = 10 ∧ u.inst < 4 then coreRegWrite s (960 + u.inst) .C n x else s)
  else
    match regFields n with
    | none => s
    | some fs =>
      let m := accessMask fs .rw
      setReg s n ((reg s n &&& ~~~m) ||| (x &&& m))

/-- The registers of a unit take its active plane. -/
def planeRegs (s : State) (u : UnitPlane) : State :=
  (List.range u.regcnt).foldl (fun s k => planeReg s u (u.regbase + k) (imgWord u.active (8 * k))) s

/-- Own .dword k of a unit: those after its register words. -/
def ownWord (u : UnitPlane) (k : Nat) : Word := imgWord u.active (8 * (u.regcnt + k))

/-- A system-core unit fixes its boundaries (R50, R461). -/
def planeBounds (s : State) (u : UnitPlane) : State :=
  if u.kind = 10 ∧ u.inst < 4 ∧ 8 * (u.regcnt + 3) ≤ u.active.length then
    modCore s (960 + u.inst) fun k =>
      { k with bnd0 := BitVec.ofNat 7 (bits (ownWord u 0) 20 14)
               bnd1 := BitVec.ofNat 7 (bits (ownWord u 1) 20 14)
               bnd2 := BitVec.ofNat 7 (bits (ownWord u 2) 20 14) }
  else s

/-- A unit's plane becomes active. -/
def activate1 (s : State) (u : UnitPlane) : State := planeBounds (planeRegs s u) u

/-- The repair map marks the cluster absent (R9, R461): fewer than 48 working cores. A cluster for which the image has no unit, or
whose plane is too short to hold a word of the map, is present with 48 cores: the model's choice (log 4). -/
def clusterAbsent (u : UnitPlane) : Bool :=
  u.kind == 1 && decide (8 * (u.regcnt + 1) ≤ u.active.length) &&
    decide (((List.range 50).filter fun i => bit (ownWord u 0) i).length < 48)

/-! ## MEAS (R458, R463) -/

/-- The 64 bytes of MEAS. -/
def measBytes (s : State) : List Byte := (List.range 8).flatMap fun k => wordBytes (reg s (rMeas k))

def setMeas (s : State) (bs : List Byte) : State :=
  (List.range 8).foldl (fun s k => setReg s (rMeas k) (imgWord bs (8 * k))) s

/-- Extend a measurement by an image. -/
def extendMeas (old img : List Byte) : List Byte := Config.shake256 (old ++ Config.shake256 img)

/-! ## Difference images (R463) -/

/-- An entry of a difference image: unit, plane offset, data, checksum. -/
structure PlaneDiff where
  unit : Nat
  off  : Nat
  data : List Byte
  crc  : BitVec 32
  deriving DecidableEq, Repr

/-- The entries of an image, from an offset on; none when one is malformed or they do not end at LEN. -/
def parseDiffs (img : List Byte) (len : Nat) : (n off : Nat) → Option (List PlaneDiff)
  | 0, off => if off = len then some [] else none
  | n + 1, off =>
    let h := imgWord img off
    let k := bits h 23 8
    let c := imgWord img (off + 8 + k)
    if bits h 7 0 = 0 ∧ bits h 47 24 % 8 = 0 ∧ 8 ≤ k ∧ k % 8 = 0 ∧ k ≤ 65528 ∧ off + k + 16 ≤ len ∧ bits c 63 32 = 0 then
      match parseDiffs img len n (off + k + 16) with
      | none => none
      | some r => some ({ unit := bits h 63 48, off := bits h 47 24, data := (img.drop (off + 8)).take k,
                          crc := c.setWidth 32 } :: r)
    else none

/-- LEN of a difference image. -/
def diffLen (img : List Byte) : Nat := bits (imgWord img 0) 63 32

/-- The entries of a well-formed difference image that names known units only. -/
def diffEntries (s : State) (img : List Byte) : Option (List PlaneDiff) :=
  let len := diffLen img
  let zeros := (List.range 7).all fun i => imgWord img (8 * (i + 1)) == 0
  if bits (imgWord img 0) 15 0 = 0 ∧ zeros ∧ len % 8 = 0 ∧ 64 ≤ len then
    match parseDiffs img len (bits (imgWord img 0) 31 16) 64 with
    | none => none
    | some ds => if ds.all fun d => s.units.any fun u => u.unit == d.unit then some ds else none
  else none

/-- A unit's shadow plane after an entry; none when the unit rolls back. -/
def diffUnit (u : UnitPlane) (d : PlaneDiff) : Option (List Byte) :=
  let n := d.data.length
  if u.shadow.length < d.off + n ∨ (u.kind = 1 ∧ overlap (d.off, n) (8 * u.regcnt, 8)) then none
  else
    let p := u.shadow.take d.off ++ d.data ++ u.shadow.drop (d.off + n)
    if crc32c p = d.crc then some p else none

/-- Apply entries in order; the units that have rolled back take no more of them (log 13). -/
def applyDiffs : List PlaneDiff → List UnitPlane → List Nat → List UnitPlane × List Nat
  | [], us, bad => (us, bad)
  | d :: r, us, bad =>
    match us.find? fun u => u.unit == d.unit with
    | none => applyDiffs r us bad
    | some u =>
      if bad.contains d.unit then applyDiffs r us bad
      else
        let put (p : List Byte) : List UnitPlane := us.map fun v => if v.unit = d.unit then { v with shadow := p } else v
        match diffUnit u d with
        | some p => applyDiffs r (put p) bad
        | none => applyDiffs r (put u.active) (bad ++ [d.unit])

/-- Apply a difference image (R463): the new state and what gd receives. -/
def applyImage (s : State) (img : List Byte) : State × Word :=
  match diffEntries s img with
  | none => (s, BitVec.allOnes 64)
  | some ds =>
    if !signed s.cfgKey img (diffLen img) then (s, BitVec.allOnes 64)
    else
      let named := dedup (ds.map (·.unit))
      let us := s.units.map fun u => if named.contains u.unit then { u with shadow := u.active } else u
      let (us, bad) := applyDiffs ds us []
      let s := { s with units := us }
      let s := if bad.length < named.length then setMeas s (extendMeas (measBytes s) img) else s
      (s, BitVec.ofNat 64 bad.length)

/-! ## The plane switch (R464) -/

/-- CFGSW.BUSY. -/
def switchBusy (s : State) : Bool := s.units.any (·.waiting)

/-- CFGSW written with GO. -/
def cfgswGo (s : State) : State :=
  { s with units := s.units.map fun u => if u.shadow ≠ u.active then { u with waiting := true } else u }

/-- CFGSW_GO (R464). -/
def execCfgswGo (s : State) : Host.Outcome State Fault Refusal := .next (cfgswGo s)

/-- A unit stands at a quiesce point (R464): a cluster whose cores hold no context; every other unit is between two
requests or decisions at every step (log 4). -/
def quiescePoint (s : State) (u : UnitPlane) : Bool :=
  u.kind != 1 || (List.range 48).all fun i => (core s (48 * u.inst + i)).task.isNone

/-- Switch a unit that waits, at its quiesce point. -/
def switchUnit (s : State) (n : Nat) : State :=
  match s.units.find? fun u => u.unit == n && u.waiting with
  | none => s
  | some u =>
    if quiescePoint s u then
      let u' := { u with active := u.shadow, shadow := u.active, waiting := false }
      activate1 { s with units := s.units.map fun v => if v.unit = n then u' else v } u'
    else s

/-- UNIT_PLANE_SWITCH (R464). -/
def execUnitPlaneSwitch (u : Nat) (s : State) : Host.Outcome State Fault Refusal :=
  if s.units.any fun v => v.unit == u then .next (switchUnit s u) else .next s

end Sys2Proof.Machine
end

