-- ==== Sys2Proof/Machine/Reset.lean ====
section
/-! DEFINITION. Sys2Proof/Machine/Reset.lean: context, warm, quiesced warm and cold resets (R77, R455 to R457), boot (R458
to R462) and the attestation report (R459). -/

namespace Sys2Proof.Machine

/-! ## Context reset (R456) -/

/-- The task in place at an origin: die, cluster, X0, Y0 of RSTCTL. -/
def taskAtOrigin (s : State) (x : Word) : Option Task :=
  let d := bits x 13 12
  let p := (5 * d + bits x 11 9, bits x 8 6, bits x 5 3)
  (collie s d).pool.find? fun t => t.st == .running && t.place == some p

/-- Tear down the rectangle at the named origin with KILLED, UNIT 4; without a context there, the write is refused. -/
def contextResetAt (s : State) (x : Word) : State :=
  match taskAtOrigin s x with
  | none => putReg s rRstctl 59 59 1
  | some t =>
    let c := (taskCores t).headD 0
    roleFatal s c .L 0 { fatalAt 0x4B 0 0 0 with unit := 4 }

/-- RSTCTL is answered: boot is complete, and the part has not tripped (R457, R458, R466). -/
def resettable (s : State) : Bool := booted s && !tripped s

/-- CONTEXT_RESET (R456). -/
def execContextReset (x : BitVec 64) (s : State) : Host.Outcome State Fault Refusal :=
  if resettable s then .next (contextResetAt s x) else .next s

/-! ## Resets of the part (R77, R457) -/

/-- A DPA of HBM, whose contents a warm reset keeps. -/
def inHbm (a : Nat) : Bool := decide (a < 2 ^ 40)

/-- What every reset keeps: the flash, and the model's own fields (log 3, log 6). -/
def coldState (s : State) : State :=
  { State.reset with
    flashA := s.flashA
    flashB := s.flashB
    svnMin := s.svnMin
    sched := s.sched
    tick := s.tick
    nextId := s.nextId }

/-- A warm reset keeps HBM and the identity key pair. -/
def warmState (s : State) : State :=
  { coldState s with
    mem := s.mem.filter fun e => inHbm e.1
    poison := s.poison.filter fun w => inHbm (64 * w)
    identity := s.identity }

/-- The state that an outcome leaves, if there is one. -/
def after (s : State) : Host.Outcome State Fault Refusal → State
  | .next t => t
  | _ => s

/-- Perform a write in flight at its slice. -/
def flushWrite (c : Nat) (s : State) (w : Write) : State := dropWrite (after s (execHomeSliceWrite c w.id s)) c w.id

/-- Requests already sent are completed (R444): writes in flight, then reduction contributions. -/
def flushCores (s : State) : State :=
  let s := s.cores.foldl (fun s e => e.2.writes.foldl (flushWrite e.1) s) s
  s.contribs.foldl (fun s x => after s (execReductionContribution x.x s)) s

/-- Tear down every context of a die, the resident kernel's among them (log 22), writing no record (R457). -/
def quietDie (s : State) (d : Nat) : State :=
  let s := putReg s (rFqbase d) 63 63 0
  endCore (((collie s d).pool.filter fun t => t.st == .running).foldl
    (fun s t => teardown s ((taskCores t).headD 0) .L (fatalAt 0 0 0 0) false) s) (960 + d)

/-- Write back every dirty Deck line and metadata word. -/
def flushDeck (s : State) : State :=
  let s := metaFlush s
  s.deck.foldl (fun s e => deckEvict s e.1) s

/-- After a thermal trip only a cold reset acts (R466), and a boot that has stopped answers no write of RSTCTL (R458). -/
def warmReset (s : State) : State := if resettable s then warmState s else s

/-- A quiesced warm reset (R457). -/
def quiescedReset (s : State) : State :=
  if resettable s then warmState (flushDeck (flushCores ([0, 1, 2, 3].foldl quietDie s))) else s

/-- WARM_RESET (R457): every unit stops at once; boot follows. -/
def execWarmReset (s : State) : Host.Outcome State Fault Refusal := .next (warmReset s)

/-- QUIESCED_WARM_RESET (R457). -/
def execQuiescedWarmReset (s : State) : Host.Outcome State Fault Refusal := .next (quiescedReset s)

/-- COLD_RESET (R455): power-on, PERST# or RSTCTL. -/
def execColdReset (s : State) : Host.Outcome State Fault Refusal := .next (coldState s)

/-- A write to RSTCTL (R455). -/
def rstctlWrite (s : State) (x : Word) : State :=
  let s := if bit x 59 then putReg s rRstctl 59 59 0 else s
  match bits x 63 61 with
  | 0 => s
  | 1 => contextResetAt s x
  | 2 => warmReset s
  | 3 => quiescedReset s
  | 4 => coldState s
  | _ => putReg s rRstctl 59 59 1

/-! ## Boot (R458 to R462) -/

/-- BOOTSTAT. -/
def bootWord (step code slot : Nat) (ready : Bool) : Word :=
  ofFields [(56, step), (48, code), (47, slot), (46, ready.toNat)]

/-- Steps 1 and 2 for a slot: the image, or the step and code at which it fails. -/
def readSlot (s : State) (f : Option (List Byte)) : Except (Nat × Nat) (List Byte) :=
  match f with
  | none => .error (1, 1)
  | some img =>
    if !imageOk img || !signed Config.vendorKey img (imgLen img) then .error (2, 2)
    else if bits (imgWord img 8) 31 0 < s.svnMin.toNat then .error (2, 3)
    else .ok img

/-- The image to boot from, slot A first, with its slot. -/
def chooseSlot (s : State) : Except (Nat × Nat) (List Byte × Nat) :=
  match readSlot s s.flashA with
  | .ok img => .ok (img, 0)
  | .error _ =>
    match readSlot s s.flashB with
    | .ok img => .ok (img, 1)
    | .error e => .error e

/-- Step 3: the measurement of the image. -/
def measure (s : State) (img : List Byte) : State := setMeas s (extendMeas (List.replicate 64 0) img)

/-- Step 4: the planes of the image become active; absent clusters are marked (R9). -/
def loadPlanes (s : State) (img : List Byte) : State :=
  let us := (List.range (imgUnits img)).map (unitAt img)
  let s :=
    { s with
      units := us
      cfgKey := (img.drop 0x40).take 64
      absent := (us.filter clusterAbsent).map (·.inst) }
  us.foldl activate1 s

/-- Step 6: KERNEL is copied into each die's HBM, and each system core begins at its entry (R460; log 4), of which
bits 2 to 0 are 0 (R225). -/
def startKernel (s : State) (img : List Byte) : State :=
  let k := (img.drop (imgWord img 0x20).toNat).take (imgWord img 0x28).toNat
  let a := bits (imgWord k 0) 43 0
  let entry : VA := BitVec.ofNat 57 (8 * bits (imgWord k 8) 56 3)
  let base := a - a / 2 ^ 37 % 4 * 2 ^ 37
  let s := [0, 1, 2, 3].foldl (fun s d => { s with mem := writeBytes s.mem (base + d * 2 ^ 37) k }) s
  [0, 1, 2, 3].foldl (fun s d => modRole s (960 + d) .C fun x => { x with pc := entry }) s

/-- The boot ROM's run (R458): the first failing step stops it. -/
def boot (s : State) : State :=
  match chooseSlot s with
  | .error (st, code) => setReg s rBootstat (bootWord st code 1 false)
  | .ok (img, slot) =>
    let s := measure s img
    if !Config.trainOk s.tick then setReg s rBootstat (bootWord 4 4 slot false)
    else
      let s := loadPlanes s img
      if !s.identity && !Config.pufOk ((img.drop 0x80).take 4096) then setReg s rBootstat (bootWord 5 5 slot false)
      else
        let s := startKernel { s with identity := true } img
        let svn : BitVec 32 := BitVec.ofNat 32 (bits (imgWord img 8) 31 0)
        setReg { s with svnMin := if s.svnMin.toNat < svn.toNat then svn else s.svnMin } rBootstat (bootWord 6 0 slot true)

/-! ## Attestation (R459) -/

/-- A write to ATTCTL: a GO while BUSY = 1 is ignored. -/
def attctlWrite (s : State) (x : Word) : State :=
  if bit (reg s rAttctl) 62 then
    if bit x 63 then s else putReg s rAttctl 43 15 (bits x 43 15)
  else setReg s rAttctl (ofFields [(62, (bit x 63).toNat), (15, bits x 43 15)])

/-- ATTESTATION_REPORT (R459): ATTCTL written with GO. -/
def execAttestationReport (x : BitVec 64) (s : State) : Host.Outcome State Fault Refusal :=
  .next (attctlWrite s (putBits x 63 63 1))

/-- A list of a given length: cut, or padded with zeros. -/
def fitBytes (n : Nat) (bs : List Byte) : List Byte := (bs ++ List.replicate n 0).take n

/-- The report: MEAS, the identity public key, and the signature over them and the nonce. -/
def attest (s : State) : State :=
  if !bit (reg s rAttctl) 62 then s
  else
    let b := bits (reg s rAttctl) 43 15 * 2 ^ 15
    let body := fitBytes 64 (measBytes s) ++ fitBytes 64 Config.identityKey
    let msg := viewBytes s b 64 ++ body
    putReg (rawWrite s (b + 64) (body ++ fitBytes sigLen (Config.slhSign msg))) rAttctl 62 62 0

/-- ATTESTATION_DONE (R459). -/
def execAttestationDone (s : State) : Host.Outcome State Fault Refusal := .next (attest s)

end Sys2Proof.Machine
end

