-- ==== Sys2Proof/Machine/SysRegs.lean ====
section
/-! DEFINITION. Sys2Proof/Machine/SysRegs.lean: the registers of the part as they are read and written (R3, R4, R280,
R281): composed fields, read side effects, and the writes that do more than set their fields. -/

namespace Sys2Proof.Machine

/-! ## Reads -/

/-- The largest ShadowCount of a Deck's slices (R154). -/
def maxUse (s : State) (d : Nat) : Nat := ((List.range 64).map fun k => shadowCount s (64 * d + k)).max?.getD 0

/-- The fields of a device register that are composed at the read. -/
def composed (s : State) (n : Nat) (w : Word) : Word :=
  if inBlock n 0x128 4 then putBits w 31 16 (min 0xFFFF (maxUse s (n - 0x128)))
  else if inBlock n 0x404 4 then
    let x := collie s (n - 0x404)
    putBits (putBits w 28 20 (instUsed x)) 10 0 x.pool.length
  else if inBlock n 0x40C 4 then putBits w 52 32 (collie s (n - 0x40C)).kennel.length
  else if inBlock n 0x410 4 then putBit w 61 (collie s (n - 0x410)).pre.isSome
  else if inBlock n 0x430 12 then putBits w 31 24 (min 255 (parkedBytes (port s (n - 0x430)) / 4096))
  else if n = rCtabcmd then putBit w 61 s.ctabBusy.isSome
  else if n = rCfgsw then putBit w 62 (switchBusy s)
  else w

/-- A device register as it reads, without the read's effect: write-only bits read 0 (R3). -/
def regView (s : State) (n : Nat) : Word :=
  if isKsReg n then ksRead s.ks n
  else
    match regFields n with
    | none => 0
    | some fs => composed s n (reg s n) &&& ~~~accessMask fs .wo

/-- The effect of a read: RS fields are cleared (R3). -/
def regClear (s : State) (n : Nat) : State :=
  if n = 0x111 then { s with ks := { s.ks with late := 0 } }
  else if isKsReg n then s
  else
    match regFields n with
    | none => s
    | some fs =>
      let m := accessMask fs .rs
      if m = 0 then s else setReg s n (reg s n &&& ~~~m)

/-- Read a device register. -/
def regTake (s : State) (n : Nat) : State × Word := (regClear s n, regView s n)

/-! ## Writes -/

/-- CLCFG (R406). -/
def clcfgWrite (s : State) (d : Nat) (x : Word) : State :=
  if 64 ≤ bits x 9 0 ∧ bits x 9 0 ≤ 960 then writeReg s (rClcfg d) x else putReg s (rClstat d) 63 63 1

/-- KNBASE (R405). -/
def knbaseWrite (s : State) (d : Nat) (x : Word) : State :=
  let old := reg s (rKnbase d)
  let l := bits x 4 0
  let moves := bits x 43 12 != bits old 43 12 || l != bits old 4 0
  if (bit x 63 && (decide (l < 4) || decide (20 < l))) || (moves && !(collie s d).kennel.isEmpty) then
    putReg s (rClstat d) 63 63 1
  else writeReg s (rKnbase d) x

/-- FQBASE and TRBASE (R445, R452): an LSIZE outside 4 to 16 is refused. -/
def ringBaseWrite (s : State) (n : Nat) (x : Word) : State :=
  if 4 ≤ bits x 4 0 ∧ bits x 4 0 ≤ 16 then writeReg s n x else s

/-- KSSTAT: ERR and PROTO are cleared by 1s (R182). -/
def ksstatWrite (s : State) (x : Word) : State :=
  { s with ks := { s.ks with err := s.ks.err && !bit x 61, proto := s.ks.proto && !bit x 60 } }

/-- A write to one of Keystone's registers. -/
def ksRegWrite (s : State) (n : Nat) (x : Word) : State :=
  if n = 0x110 then { s with ks := kscfgWriteKs s.ks x }
  else if n = 0x111 then ksstatWrite s x
  else if n = 0x112 then ksctlWrite s x
  else s

/-- A write to a device register (R281). -/
def regWrite (s : State) (n : Nat) (x : Word) : State :=
  if isKsReg n then ksRegWrite s n x
  else if n = rHxid then hxidWrite s x
  else if n = rCtabcmd then ctabCommand s x
  else if inBlock n 0x120 4 then carveSet s (n - 0x120) x
  else if inBlock n 0x138 8 then mdregSet s (n - 0x138) x
  else if inBlock n 0x140 8 then scrubctlWrite s (n - 0x140) x
  else if inBlock n 0x158 4 then probeAnswer s (n - 0x158) x
  else if inBlock n 0x201 255 then rgrpStore s (n - 0x200) x
  else if inBlock n 0x400 4 then clcfgWrite s (n - 0x400) x
  else if inBlock n 0x408 4 then knbaseWrite s (n - 0x408) x
  else if inBlock n 0x410 4 then preemptWrite s (n - 0x410) x
  else if inBlock n 0x420 12 then portcfgSet s (n - 0x420) x
  else if n = rRtcmd then rtcmdWrite s x
  else if inBlock n 0x450 4 ∨ inBlock n 0x460 4 then ringBaseWrite s n x
  else if n = rAttctl then attctlWrite s x
  else if n = rRstctl then rstctlWrite s x
  else if n = rCfgsw then (if bit x 63 then cfgswGo s else s)
  else if inBlock n 0x480 16 then pwrctlSet s (n - 0x480) x
  else writeReg s n x

/-! ## By a role (R281) -/

/-- Read a register by its number. -/
def sysRead (s : State) (c : Nat) (r : RoleId) (n : Nat) : State × Word :=
  if n < 0x100 then (s, coreRegRead s c r n) else regTake s n

/-- Write a register by its number. -/
def sysWrite (s : State) (c : Nat) (r : RoleId) (n : Nat) (x : Word) : State :=
  if n < 0x100 then coreRegWrite s c r n x else regWrite s n x

/-- A write that resets the part: its word does not complete. -/
def resetsPart (n : Nat) (x : Word) : Bool := n == rRstctl && (bits x 63 61 == 2 || bits x 63 61 == 3 || bits x 63 61 == 4)

end Sys2Proof.Machine
end

