-- ==== Sys2Proof/Machine/System.lean ====
section
/-! DEFINITION. Sys2Proof/Machine/System.lean: mfsr and mtsr (R281), the words of a system core (R284 to R289), and the
events of R220, R224, R289, R373 and R445. -/

namespace Sys2Proof.Machine

/-! ## System registers (R280, R281) -/

/-- MFSR (R281): a register number that names nothing is ILLEGAL at decode. -/
def execMfsr (m : Mark) (rd : G6) (n : BitVec 12) (s : State) : Host.Outcome State Fault Refusal :=
  issue (.mfsr m rd n) m 1 noGuard
    (fun c r s => do
      if !systemMode s c r && !userReadable n.toNat then .error (.trap tPRIV 0) else
      checkUse c r s [] (.g rd)
      let (s, w) := sysRead s c r n.toNat
      done (writeG c r s rd ⟨w, false⟩)) s

/-- MTSR (R281). -/
def execMtsr (m : Mark) (n : BitVec 12) (ra : G6) (s : State) : Host.Outcome State Fault Refusal :=
  issue (.mtsr m n ra) m 1 noGuard
    (fun c r s => do
      if !systemMode s c r && !userWritable n.toNat then .error (.trap tPRIV 0) else
      checkUse c r s [.g ra] .none
      let (s, a) := readG c r s ra
      let t := sysWrite s c r n.toNat a.val
      if resetsPart n.toNat a.val then .error (.hold t) else done t) s

/-! ## Cached translations (R285) -/

/-- Drop cached translations in every unit; units whose XID is chosen read their root entry again. -/
def dropTlbs (s : State) (drop : TlbEntry → Bool) (root : BitVec 16 → Bool) : State :=
  let f (k : Core) : Core :=
    { k with tlb := k.tlb.filter fun e => !drop e
             root := if root k.xid then rootEntry s k.xid.toNat else k.root }
  let hx := bits (reg s rHxid) 15 0
  let p (x : Port) : Port :=
    { x with tlb := x.tlb.filter fun e => !drop e
             posted := x.posted.map fun y => if root y.xid then { y with root := rootEntry s y.xid.toNat } else y }
  { s with
    cores := s.cores.map fun e => (e.1, f e.2)
    ports := s.ports.map fun e => (e.1, p e.2)
    hostTlb := s.hostTlb.filter fun e => !drop e
    hostRoot := if root (BitVec.ofNat 16 hx) then rootEntry s hx else s.hostRoot }

/-- A cached leaf translates an address. -/
def tlbCovers (va : Nat) (e : TlbEntry) : Bool := e.page == va / granule e.psz * granule e.psz

/-- XINV_ALL (R285). -/
def execXinvAll (m : Mark) (s : State) : Host.Outcome State Fault Refusal :=
  issue (.xinvAll m) m 1 noGuard (fun _ _ s => done (dropTlbs s (fun _ => true) fun _ => true)) s

/-- XINV_X (R285). -/
def execXinvX (m : Mark) (ra : G6) (s : State) : Host.Outcome State Fault Refusal :=
  issue (.xinvX m ra) m 1 noGuard
    (fun c r s => do
      checkUse c r s [.g ra] .none
      let (s, a) := readG c r s ra
      let x : BitVec 16 := a.val.setWidth 16
      done (dropTlbs s (fun e => e.xid == x) fun y => y == x)) s

/-- XINV_VA (R285). -/
def execXinvVa (m : Mark) (ra rb : G6) (s : State) : Host.Outcome State Fault Refusal :=
  issue (.xinvVa m ra rb) m 1 noGuard
    (fun c r s => do
      checkUse c r s [.g ra, .g rb] .none
      let (s, a) := readG c r s ra
      let (s, b) := readG c r s rb
      let x : BitVec 16 := a.val.setWidth 16
      done (dropTlbs s (fun e => e.xid == x && tlbCovers (b.val.toNat % 2 ^ 57) e) fun _ => false)) s

/-- XINV_G (R285). -/
def execXinvG (m : Mark) (rb : G6) (s : State) : Host.Outcome State Fault Refusal :=
  issue (.xinvG m rb) m 1 noGuard
    (fun c r s => do
      checkUse c r s [.g rb] .none
      let (s, b) := readG c r s rb
      done (dropTlbs s (fun e => bit e.leaf 8 && tlbCovers (b.val.toNat % 2 ^ 57) e) fun _ => false)) s

/-! ## Page-table writes (R286) -/

/-- PTMC (R286): applied here, once its slice takes it (R121), and queued for every replica. -/
def execPtmc (m : Mark) (ra rb : G6) (s : State) : Host.Outcome State Fault Refusal :=
  issue (.ptmc m ra rb) m 1 noGuard
    (fun c r s => do
      checkUse c r s [.g ra, .g rb] .none
      let (s, a) := readG c r s ra
      let (s, b) := readG c r s rb
      let dpa := a.val.toNat
      if 2 ^ 44 ≤ dpa ∨ !hasMem s dpa then .error (.fatal s (fatalAt 0x41 5 0 0))
      else if dpa % 8 ≠ 0 then .error (.fatal s (fALIGN 0))
      else if entryHeld s dpa then .error (.wait .other)
      else done (ptmcSend s c dpa b.val)) s

/-- A page-table write of a system core still awaits an acknowledgement. -/
def ptmcOpen (s : State) (c : Nat) : Bool := s.ptmcOut.any fun p => p.origin == 4 * devid s + dieOf c

/-- PTMC_SYNC (R286). -/
def execPtmcSync (m : Mark) (s : State) : Host.Outcome State Fault Refusal :=
  issue (.ptmcSync m) m 1 noGuard (fun c _ s => if ptmcOpen s c then .error (.wait .other) else done s) s

/-! ## Configuration differences (R287, R463) -/

/-- A word of an image in a peer's memory, at a target and its address; none while its answer is awaited. -/
def peerWord (c : Nat) (r : RoleId) (d : Nat) (t : Target) (va : Nat) (s : State) : State × Option Word :=
  let key := fetchKey t
  match tabGet (core s c).image key with
  | some w => (s, some w)
  | none =>
    let asked : Bool := s.peerOut.any fun p => match p.who with
      | .image c' r' k _ => c' == c && r' == r && k == key
      | _ => false
    if asked then (s, none)
    else ((peerSend s d (.read (BitVec.ofNat 44 t.dpa) 8) (.image c r key (BitVec.ofNat 57 va))).1, none)

/-- n words of an image in a peer's memory. -/
def peerWordBytes (c : Nat) (r : RoleId) (d : Nat) (t : Target) (va : Nat) : (n i : Nat) → State → State × Option (List Byte)
  | 0, _, s => (s, some [])
  | n + 1, i, s =>
    let (s, w) := peerWord c r d { t with dpa := t.dpa + 8 * i } (va + 8 * i) s
    let (s, rest) := peerWordBytes c r d t va n (i + 1) s
    (s, w.bind fun w => rest.map fun l => wordBytes w ++ l)

/-- The bytes at a location of an image; none while a peer's answer is awaited. -/
def imagePiece (c : Nat) (r : RoleId) (va n : Nat) (l : Loc) (s : State) : Except Stop (State × Option (List Byte)) :=
  let (s, p) := makePart s c r false va (BitVec.allOnes 128) n 0 l
  match p.got with
  | some bs => .ok (s, some bs)
  | none =>
    match p.tgt.peer with
    | some d => .ok (peerWordBytes c r d p.tgt va ((n + 7) / 8) 0 s)
    | none =>
      if lineHeld s (p.tgt.dpa / 128) then .error (.wait .other)
      else
        let (s, d, bad) := sliceRead s (policyOf p.tgt) p.tgt.cv (p.tgt.dpa / 128) (p.tgt.dpa % 128) n
        if bad then .error (.fatal s (fatalAt 0x44 1 va p.tgt.dpa))
        else
          let (s, bs) := takePart s c p d
          .ok (s, some bs)

/-- The pieces of an image, in order. -/
def imagePieces (c : Nat) (r : RoleId) : List (Nat × Nat × Loc) → State → Except Stop (State × Option (List Byte))
  | [], s => .ok (s, some [])
  | (a, n, l) :: rest, s => do
    if locBusy s c r l then .error (.wait .other) else
    let (s, x) ← imagePiece c r a n l s
    let (s, y) ← imagePieces c r rest s
    .ok (s, x.bind fun x => y.map fun y => x ++ y)

/-- n bytes of an image at an address, read as loads of the role. -/
def imageBytes (c : Nat) (r : RoleId) (va n : Nat) (s : State) : Except Stop (State × Option (List Byte)) := do
  let (s, ls) ← orFatal s va (coreRun c .read (!systemMode s c r) false s (linesOf va n))
  imagePieces c r ls s

/-- A cfgd is complete: it keeps no word of the image that it read. -/
def cfgdDone (c : Nat) (r : RoleId) (s : State) (rd : G6) (v : Word) : Except Stop (State × Flow) :=
  done (writeG c r (modCore s c fun k => { k with image := [] }) rd ⟨v, false⟩)

/-- CFGD (R287, R463): waits while the planes switch; a header that is malformed applies nothing. -/
def execCfgd (m : Mark) (rd ra : G6) (s : State) : Host.Outcome State Fault Refusal :=
  issue (.cfgd m rd ra) m 1 noGuard
    (fun c r s => do
      checkUse c r s [.g ra] (.g rd)
      let (s1, a) := readG c r s ra
      let va := a.val.toNat % 2 ^ 57
      if va % 4096 ≠ 0 then .error (.fatal s1 (fALIGN va)) else
      if switchBusy s then .error (.wait .other) else
      let (s, h) ← imageBytes c r va 64 s
      match h with
      | none => .error (.hold s)
      | some hd =>
        if diffLen hd % 8 ≠ 0 ∨ diffLen hd < 64 then cfgdDone c r (readG c r s ra).1 rd (BitVec.allOnes 64)
        else
          let (s, b) ← imageBytes c r va (diffLen hd + sigLen) s
          match b with
          | none => .error (.hold s)
          | some img =>
            let (s, w) := applyImage (readG c r s ra).1 img
            cfgdDone c r s rd w) s

/-! ## Instruction fetch and halt (R288, R289) -/

/-- ISYNC (R288): stage 1 once the write-back has begun. -/
def execIsync (m : Mark) (s : State) : Host.Outcome State Fault Refusal :=
  issue (.isync m) m 1 noGuard
    (fun c r s =>
      if stage c r s = 0 then
        if !relReady s c r .dev then .error (.wait .other) else .error (.hold (setStage c r (relBegin s c r .dev) 1))
      else if !relSettled s c r then .error (.wait .other)
      else done (modCore s c fun k => { k with icache := [] })) s

/-- HALT (R289): a wake event that came before ends it at once. -/
def execHalt (m : Mark) (s : State) : Host.Outcome State Fault Refusal :=
  issue (.halt m) m 1 noGuard
    (fun c _ s => done (modCore s c fun k => { k with halted := !k.wake, wake := false })) s

/-- SYSTEM_CORE_WAKE (R289): a wake event has arrived for a halted system core. -/
def execSystemCoreWake (d : Nat) (s : State) : Host.Outcome State Fault Refusal :=
  if 4 ≤ d then .next s
  else
    .next (modCore s (960 + d) fun k => if k.halted && k.wake then { k with halted := false, wake := false } else k)

/-! ## Events of a role or core -/

/-- The role stands at a word boundary, or in a wait that an asynchronous trap abandons (R373). -/
def abandonable (x : Role) : Bool :=
  match x.block with
  | none => x.mid == 0 || stopWait x.why
  | some (.drain _ _ _ _) => true
  | some (.probe _) => true
  | _ => false

/-- A role at a word boundary first passes the words of other roles at its counter, as far as it may, so that TPC names the word
that it would have issued next; none when it has still to go on (R201, R373). -/
def reachWord (s : State) (c : Nat) (r : RoleId) : State × Bool :=
  let x := getRole s c r
  let k := if x.block.isSome then 0 else skipCount s c r x.pc.toNat 4
  if k < 4 ∧ (k = 0 ∨ mayPass s c r k) then (if k = 0 then s else passWords s c r k, true)
  else
    let n := passable s c r k
    (if n = 0 then s else passWords s c r n, false)

/-- ASYNC_TRAP_DELIVERY (R373, R392): a wait is abandoned with no effect. -/
def execAsyncTrapDelivery (c : Nat) (r : RoleId) (s : State) : Host.Outcome State Fault Refusal :=
  if !roleExists s c r then .next s
  else
    let x := getRole s c r
    if !trapPending x ∨ inHandler x ∨ x.fin ∨ bit (core s c).dbg.halt (roleNum r) ∨ !abandonable x ∨ !contextAt s c then .next s
    else
      match reachWord s c r with
      | (s, false) => .next s
      | (s, true) =>
        let x := getRole s c r
        let w := (peekWord s c r x.pc.toNat).getD 0
        let s := { s with probes := s.probes.filter fun p => p.who != .role c r }
        .next (deliverAsync (putRole s c r { x with block := none, mid := 0 }) c r w)

/-- A word that issues whatever its core holds: it waits for nothing, reads no register and takes no token. -/
def issuesFreely (w : Word) : Bool :=
  match decodeWords w none with
  | .ok (.nop m _) => !m.pb
  | _ => false

/-- OVERDUE (R220): a role that would issue with SAFECNT at 4096. This event sees it where the word at the counter waits for
nothing; any other word meets it in its role's turn (`runBody`). -/
def execOverdue (c : Nat) (r : RoleId) (s : State) : Host.Outcome State Fault Refusal :=
  if !roleExists s c r then .next s
  else
    let x := getRole s c r
    let w := (peekWord s c r x.pc.toNat).getD 0
    let atWord : Bool := !x.pushDue && x.mid == 0 && !(trapPending x && !inHandler x) && skipCount s c r x.pc.toNat 4 == 0 &&
      mayPass s c r 1 && issuesFreely w
    if x.safecnt.toNat ≠ 4096 ∨ roleHeld s c r ∨ !contextAt s c ∨ !atWord then .next s
    else .next (overdue s c r w)

/-- What a role is blocked on, as AUX of DEADLOCK codes it (R442); none when it is not blocked on a core-local
condition (R224, R303). -/
def blockedOn (s : State) (c : Nat) (r : RoleId) : Option Nat :=
  let k := core s c
  let x := k.role r
  if x.fin then some 0
  else
    match x.block with
    | some (.drain _ mm cm _) =>
      let held := !(matrixPassed k mm && copyPassed k cm)
      if held && k.writes.isEmpty then some 7 else none
    | some _ => none
    | none =>
      match x.why with
      | some (.tokPop n) => if upCount k r < n then some 1 else none
      | some (.tokPush n) => if 16 < downCount k r + n then some 2 else none
      | some (.queue l) => if qWaits k [] l ∧ x.loads.isEmpty then some 3 else none
      | some (.filled h n) => if (desc k h).filled < n then some 4 else none
      | some (.free h n) => if (desc k h).slots < (desc k h).filled + n then some 4 else none
      | some (.semGe i n) => if sem k i < n then some 5 else none
      | some (.semEq i n) => if sem k i ≠ n then some 5 else none
      | some (.slip n) => if mayPass s c r n then none else some 6
      | _ => none

/-- An engine holds a command that is running or whose wait byte is satisfied (R224). A command behind another in its
ring is held by that one. -/
def engineActive (s : State) (c : Nat) : Bool :=
  let k := core s c
  let head (h : Nat) : Bool := (desc k h).filled != 0 && !admissionWaits k (ringWord s c h 0)
  !noneEarlier k.matrix ||
    (match k.matrix.prep with
    | some p => p.waited || !admissionWaits k p.word
    | none => head 14) ||
    !k.copy.jobs.isEmpty ||
    (match k.copy.adm with
    | some p => !admissionWaits k (p.words.headD 0)
    | none => head 15)

/-- A write or reduction of the core's copy jobs awaits acknowledgement. -/
def jobsUnacked (s : State) (c : Nat) : Bool :=
  (s.contribs.any fun x => match x.x.src with
    | .job c' _ => c' == c
    | .peer _ _ => false) ||
    s.peerOut.any fun p => match p.who with
      | .job c' _ _ => c' == c
      | _ => false

/-- DEADLOCK (R224, R447): for 2^20 clocks every role of the core has been blocked on core-local conditions. -/
def execDeadlock (c : Nat) (s : State) : Host.Outcome State Fault Refusal :=
  if !coreExists s c then .next s
  else
    let rs := coreRoles c
    let bs := rs.map (blockedOn s c)
    if !contextAt s c ∨ (core s c).dbg.halt ≠ 0 ∨ bs.any Option.isNone ∨ (rs.any fun r => !(getRole s c r).loads.isEmpty) ∨
        (bs.all fun b => b == some 0) ∨ engineActive s c ∨ jobsUnacked s c then .next s
    else
      let aux := rs.foldl (fun w r => putBits w (4 * roleNum r + 3) (4 * roleNum r) ((blockedOn s c r).getD 0)) 0
      .next (roleFatal s c (rs.headD .C) 0 { fatalAt 0x47 0 0 0 with unit := 4, aux := aux })

/-- FAULT_RECORD_WRITE (R445): the oldest waiting record goes into the ring, if it has room. -/
def execFaultRecordWrite (d : Nat) (s : State) : Host.Outcome State Fault Refusal :=
  if 4 ≤ d then .next s else .next (fqDrain 1 s d)

end Sys2Proof.Machine
end

