-- ==== Sys2Proof/Machine/Debug.lean ====
section
/-! DEFINITION. Sys2Proof/Machine/Debug.lean: the debug window (R448 to R450) and the predecoder's skip (R201). -/

namespace Sys2Proof.Machine

/-! ## Halt and step (R448 to R450) -/

/-- Set WHY of a role. -/
def setWhy (k : Core) (r : RoleId) (w : Nat) : Core :=
  let n := roleNum r
  let x : Word := putBits (k.dbg.why.zeroExtend 64) (4 * n + 3) (4 * n) w
  { k with dbg := { k.dbg with why := x.setWidth 12 } }

/-- The role's word is a snapshot instruction in progress, an access, or a drain, or an eret has begun and the word at TPC has not
issued: a halt waits until it has (R140, R168, R449; log 40). -/
def haltWaits (s : State) (c : Nat) (r : RoleId) : Bool :=
  let x := getRole s c r
  x.returning ||
  match x.block with
  | some (.probe _) => false
  | some (.waiting _) => false
  | some _ => true
  | none =>
    x.mid != 0 &&
      match decodeWords ((peekWord s c r x.pc.toNat).getD 0) none with
      | .ok (.snopen _ _ _ _ _) => true
      | .ok (.snacc _ _) => true
      | .ok (.snrej _ _) => true
      | .ok (.snq _ _ _) => true
      | _ => false

/-- A halt request for a role: it takes effect at the next word boundary. -/
def haltRole (s : State) (c : Nat) (r : RoleId) : State :=
  if bit (core s c).dbg.halt (roleNum r) then s
  else if haltWaits s c r then modCore s c fun k => setWhy k r 5
  else debugStop s c r 1

/-- A halted role goes on, past a breakpoint at its counter; a request not yet in effect is withdrawn. -/
def resumeRole (s : State) (c : Nat) (r : RoleId) : State :=
  let k := core s c
  let one : BitVec 3 := BitVec.ofNat 3 (2 ^ roleNum r)
  if bit k.dbg.halt (roleNum r) then
    let s := setCore s c { setWhy k r 0 with dbg := { (setWhy k r 0).dbg with halt := k.dbg.halt &&& ~~~one } }
    modRole s c r fun x => { x with bpPass := true }
  else if whyOf k r = 5 then setCore s c (setWhy k r 0)
  else s

/-- A step: the role issues one word and then halts. -/
def stepRole (s : State) (c : Nat) (r : RoleId) : State :=
  let one : BitVec 3 := BitVec.ofNat 3 (2 ^ roleNum r)
  modCore (resumeRole s c r) c fun k => { k with dbg := { k.dbg with step := k.dbg.step ||| one } }

/-- A write to word 0x000 of a core's window: BRKEN, then HALT, then STEP, for the roles the core has. -/
def windowWrite (s : State) (c : Nat) (x : Word) : State :=
  let s := modCore s c fun k => { k with dbg := { k.dbg with brken := bit x 8 } }
  let rs := coreRoles c
  let s := rs.foldl (fun s r => if bit x (roleNum r) then haltRole s c r else resumeRole s c r) s
  rs.foldl (fun s r => if bit x (4 + roleNum r) then stepRole s c r else s) s

/-- DEBUG_HALT (R449): a write to word 0x000 of the window. -/
def execDebugHalt (c : Nat) (x : BitVec 64) (s : State) : Host.Outcome State Fault Refusal :=
  if !coreExists s c then .next s else .next (hostGate s fun s => windowWrite s c x)

/-- DEBUG_STEP (R450): STEP written for a role. -/
def execDebugStep (c : Nat) (r : RoleId) (s : State) : Host.Outcome State Fault Refusal :=
  if !roleExists s c r then .next s else .next (hostGate s fun s => stepRole s c r)

/-- ADDRESS_BREAKPOINT (R450): the role halts before it issues a word that it executes at a breakpoint address. -/
def execAddressBreakpoint (c : Nat) (r : RoleId) (s : State) : Host.Outcome State Fault Refusal :=
  if !roleExists s c r then .next s
  else
    let x := getRole s c r
    let here : Bool := match peekWord s c r x.pc.toNat with
      | some w => executes c r w
      | none => false
    if roleHeld s c r ∨ x.bpPass ∨ !breakAt (core s c) r x.pc ∨ !here then .next s else .next (debugStop s c r 4)

/-! ## DBGDATA (R448, R449) -/

/-- The role that 0x020 selects; 11b is treated as C, and a system core has its one stream. -/
def selRole (c : Nat) (k : Core) : RoleId :=
  if isSystem c then .C else (RoleId.ofCode (BitVec.ofNat 2 (bits k.dbg.sel 17 16))).getD .C

def selKind (k : Core) : Nat := bits k.dbg.sel 15 12

def selIndex (k : Core) : Nat := bits k.dbg.sel 11 0

/-- DBGDATA was used on a role that was not halted. -/
def dbgError (s : State) (c : Nat) : State := modCore s c fun k => { k with dbg := { k.dbg with err := true } }

/-- A read named an unbound register. -/
def dbgUnbound (s : State) (c : Nat) : State := modCore s c fun k => { k with dbg := { k.dbg with unb := true } }

/-- The selected item. -/
def dbgItem (s : State) (c : Nat) (r : RoleId) (kind i : Nat) : State × Word :=
  let x := getRole s c r
  match kind with
  | 0 =>
    if i = 0 ∨ 48 ≤ i then (s, 0)
    else match tabGet x.g i with
      | some v => (s, v.val)
      | none => (dbgUnbound s c, 0)
  | 1 =>
    if 28 ≤ i / 64 then (s, 0)
    else match tabGet x.v (i / 64) with
      | some v => (s, (lane v (i % 64)).zeroExtend 64)
      | none => (dbgUnbound s c, 0)
  | 2 => (s, if 8 ≤ i then 0 else readP c r s (BitVec.ofNat 3 i))
  | 3 => (s, x.pc.zeroExtend 64)
  | 4 => if isRegister i then sysRead s c r i else (s, 0)
  | _ => (s, 0)

/-- DBGDATA_READ (R449). -/
def dbgRead (s : State) (c : Nat) : State :=
  let k := core s c
  let r := selRole c k
  if bit k.dbg.halt (roleNum r) then
    let (s, w) := dbgItem s c r (selKind k) (selIndex k)
    { s with hostOut := .data (wordBytes w) }
  else { dbgError s c with hostOut := .data (wordBytes 0) }

def execDbgdataRead (c : Nat) (s : State) : Host.Outcome State Fault Refusal :=
  if !coreExists s c then .next s else .next (hostGate s fun s => dbgRead s c)

/-- A new counter: the word the role stood at is given up. -/
def dbgJump (s : State) (c : Nat) (r : RoleId) (w : Word) : State :=
  modRole s c r fun x =>
    { x with pc := BitVec.ofNat 57 (bits w 56 3 * 8)
             mid := 0
             why := none
             block := match x.block with
               | some (.waiting n) => some (.waiting n)
               | _ => none }

/-- Write the selected item; a register is bound, with taint 0. -/
def dbgSet (s : State) (c : Nat) (r : RoleId) (kind i : Nat) (w : Word) : State :=
  match kind with
  | 0 => if i = 0 ∨ 48 ≤ i then s else modRole s c r fun x => { x with g := tabSet x.g i ⟨w, false⟩ }
  | 1 =>
    if 28 ≤ i / 64 then s
    else writeV c r s (BitVec.ofNat 5 (i / 64)) (BitVec.ofNat 64 (2 ^ (i % 64))) (ofLanes fun _ => w.setWidth 32)
  | 2 => if 8 ≤ i then s else writeP c r s (BitVec.ofNat 3 i) w
  | 3 => dbgJump s c r w
  | 4 => if isRegister i then sysWrite s c r i w else s
  | _ => s

/-- DBGDATA_WRITE (R449). -/
def dbgWrite (s : State) (c : Nat) (w : Word) : State :=
  let k := core s c
  let r := selRole c k
  if bit k.dbg.halt (roleNum r) then dbgSet s c r (selKind k) (selIndex k) w else dbgError s c

def execDbgdataWrite (c : Nat) (x : BitVec 64) (s : State) : Host.Outcome State Fault Refusal :=
  if !coreExists s c then .next s else .next (hostGate s fun s => dbgWrite s c x)

/-- A write to another word of the window: 0 for 0x008, 1 and 2 for the breakpoints, 3 for 0x020 (log 40). -/
def windowReg (s : State) (c k : Nat) (x : Word) : State :=
  modCore s c fun y =>
    let d := y.dbg
    match k with
    | 0 => { y with dbg := { d with unb := d.unb && !bit x 14, err := d.err && !bit x 13 } }
    | 1 => { y with dbg := { d with bp0 := x &&& 0xE1FFFFFFFFFFFFF8#64 } }
    | 2 => { y with dbg := { d with bp1 := x &&& 0xE1FFFFFFFFFFFFF8#64 } }
    | _ => { y with dbg := { d with sel := x.setWidth 18 } }

/-- Neither engine of a core holds a command (R448): one that stands in its ring is not yet the engine's (log 40). -/
def enginesEmpty (k : Core) : Bool := k.matrix.prep.isNone && noneEarlier k.matrix && k.copy.adm.isNone && k.copy.jobs.isEmpty

/-- A word of a core's debug window as read (R3, R448): write-only bits read 0. -/
def windowView (s : State) (c i : Nat) : Word :=
  let k := core s c
  match i with
  | 0 => ofFields [(8, k.dbg.brken.toNat), (0, k.dbg.halt.toNat)]
  | 1 => ofFields [(14, k.dbg.unb.toNat), (13, k.dbg.err.toNat), (12, (enginesEmpty k).toNat), (0, k.dbg.why.toNat)]
  | 2 => k.dbg.bp0
  | 3 => k.dbg.bp1
  | 4 => k.dbg.sel.zeroExtend 64
  | _ => 0

/-! ## The predecoder (R201) -/

/-- PREDECODE_SKIP (R201): no word of the four at the counter is the role's; the counter passes them, as far as the slip
window lets it (R203). -/
def execPredecodeSkip (c : Nat) (r : RoleId) (s : State) : Host.Outcome State Fault Refusal :=
  if !roleExists s c r then .next s
  else
    let s := if contextAt s c ∧ !roleHeld s c r then settlePush s c r else s
    let x := getRole s c r
    if !contextAt s c ∨ roleHeld s c r ∨ x.pushDue ∨ skipCount s c r x.pc.toNat 4 ≠ 4 then .next s
    else if mayPass s c r 4 then .next (passWords s c r 4)
    else .next (waits (passWords s c r (passable s c r 4)) c r (.slip 1))

end Sys2Proof.Machine
end

