-- ==== Sys2Proof/Machine/HostPort.lean ====
section
/-! DEFINITION. Sys2Proof/Machine/HostPort.lean: the host's accesses (R105, R453, R454): BAR2, BAR0, doorbells and time. -/

namespace Sys2Proof.Machine

/-! ## BAR2 (R26, R29, R105, R453) -/

/-- A piece of a host access: its offset, length and target. -/
abbrev HostPiece := Nat × Nat × Target

/-- Translate every line of a host access under HXID, in system mode, before any is performed; none at the near window or
where the walk or leaf refuses it, or where a leaf names a peer, to which the host port has no path (R14; log 39). -/
def hostLocate (want : Want) (va : Nat) : State → List (Nat × Nat) → Option (State × List HostPiece)
  | s, [] => some (s, [])
  | s, (a, n) :: r =>
    if NW < a + n then none
    else
      match translate s (hostUnit s) want false false (want == .write) a with
      | .error _ => none
      | .ok (s, tlb, t, _) =>
        if t.peer.isSome then none
        else
        match hostLocate want va { s with hostTlb := tlb } r with
        | none => none
        | some (s, ps) => some (s, (a - va, n, t) :: ps)

/-- A piece must wait at its slice (R70, R156, R175). -/
def hostHeld (s : State) (wr : Bool) (p : HostPiece) : Bool :=
  let line := p.2.2.dpa / 128
  lineHeld s line || (wr && lineVer s line && s.ks.state == .voted)

/-- The pieces of a read, in order: bytes and poison. -/
def hostGet : State → List HostPiece → State × List Byte × Bool
  | s, [] => (s, [], false)
  | s, (_, n, t) :: r =>
    let (s, l, b) := sliceRead s (policyOf t) t.cv (t.dpa / 128) (t.dpa % 128) n
    let (s, bs, bad) := hostGet s r
    (s, bytesFrom l (t.dpa % 128) n ++ bs, b || bad)

/-- A read through BAR2. -/
def bar2Read (s : State) (va n : Nat) : State :=
  match hostLocate .read va s (linesOf va n) with
  | none => hostAbort s
  | some (t, ps) =>
    if ps.any (hostHeld s false) then s
    else
      let (t, bs, bad) := hostGet t ps
      if bad then hostPoison t else { t with hostOut := .data bs }

/-- HOST_READ (R105): the value at the home slice. -/
def execHostRead (va n : Nat) (s : State) : Host.Outcome State Fault Refusal := .next (hostGate s fun s => bar2Read s va n)

/-- A host write that its slice refuses for lack of a shadow (R161). -/
def hostDrop (s : State) (t : Target) : State :=
  let d := homeSlice t.dpa / 64
  countReg (putReg s (rShstat d) 63 63 1) (rShstat d) 47 32 1

/-- One line of a write; answers whether it was refused. -/
def hostPutLine (s : State) (bs : List Byte) (p : HostPiece) : State × Bool :=
  let t := p.2.2
  let o := t.dpa % 128
  let data := (bs.drop p.1).take p.2.1
  let w : LineWrite := ⟨lineTarget t, byteMask o p.2.1, bytesAt o data⟩
  match sliceWrite s .loc (policyOf t) false (t.dpa / 128) w.mask w.data with
  | .done s => (s, false)
  | _ => (hostDrop s t, true)

/-- The lines of one whole block, as one request (R72, R175). -/
def hostPutBlock (s : State) (bs : List Byte) (ps : List HostPiece) : State × Bool :=
  let ls := ps.map fun p =>
    ({ w := ⟨lineTarget p.2.2, BitVec.allOnes 128, bytesAt 0 ((bs.drop p.1).take 128)⟩, op := none, off := p.1,
       blk := true } : JobLine)
  match sendBlock s ls with
  | some s => (s, false)
  | none => (match ps with
    | [] => s
    | p :: _ => hostDrop s p.2.2, true)

/-- A piece begins a local 2 KiB block that the write covers. -/
def wholeBlock (total : Nat) (p : HostPiece) : Bool :=
  p.2.2.dpa % 2048 == 0 && decide (p.1 + 2048 ≤ total)

/-- The pieces of a write, in order. -/
def hostPut (bs : List Byte) : (fuel : Nat) → State → List HostPiece → State × Bool
  | 0, s, _ => (s, false)
  | _, s, [] => (s, false)
  | fuel + 1, s, p :: r =>
    let whole := wholeBlock bs.length p && decide (15 ≤ r.length)
    let (s, b) := if whole then hostPutBlock s bs (p :: r.take 15) else hostPutLine s bs p
    let (s, b') := hostPut bs fuel s (if whole then r.drop 15 else r)
    (s, b || b')

/-- A write through BAR2. -/
def bar2Write (s : State) (va : Nat) (bs : List Byte) : State :=
  match hostLocate .write va s (linesOf va bs.length) with
  | none => hostAbort s
  | some (t, ps) =>
    if ps.any (hostHeld s true) then s
    else
      let (t, bad) := hostPut bs (ps.length + 1) t ps
      if bad then hostAbort t else { t with hostOut := .written }

/-- HOST_WRITE (R105): performed at its home slices, in order. -/
def execHostWrite (va : Nat) (bytes : List (BitVec 8)) (s : State) : Host.Outcome State Fault Refusal :=
  .next (hostGate s fun s => bar2Write s va bytes)

/-! ## BAR0 (R453, R454) -/

/-- An access that BAR0 does not accept: Unsupported Request, counted. -/
def hostRefuse (s : State) : State :=
  { s with hostOut := .unsupported, herr := putBits s.herr 47 32 (satAdd 0xFFFF (bits s.herr 47 32) 1) }

/-- UNSUPPORTED_REQUEST (R453): an access that is not an aligned 8-byte one. -/
def execUnsupportedRequest (off n : Nat) (s : State) : Host.Outcome State Fault Refusal :=
  .next (hostGate s fun s => if off % 8 = 0 ∧ n = 8 then s else hostRefuse s)

/-- A host write to DOORBELL: VALUE takes its 1s, and the die's system core wakes. -/
def doorbellRing (s : State) (d : Nat) (x : Word) : State :=
  wakeSystem { setReg s (rDoorbell d) (reg s (rDoorbell d) ||| x) with hostOut := .written } d

/-- DOORBELL (R454). -/
def execDoorbell (d : Nat) (x : BitVec 64) (s : State) : Host.Outcome State Fault Refusal :=
  if 4 ≤ d then .next s else .next (hostGate s fun s => doorbellRing s d x)

/-- A register read that answers the requester and has its side effect (R3). -/
def hostTake (s : State) (n : Nat) : State :=
  let (s, w) := regTake s n
  { s with hostOut := .data (wordBytes w) }

/-- DOORBELL_READ (R454): VALUE is returned and cleared. -/
def execDoorbellRead (d : Nat) (s : State) : Host.Outcome State Fault Refusal :=
  if 4 ≤ d then .next s else .next (hostGate s fun s => hostTake s (rDoorbell d))

/-- A write to TSTAMP: every die's count is captured at once. -/
def tstampSet (s : State) (x : Word) : State :=
  { s with
    tstamp := x
    tscap := [0, 1, 2, 3].map fun d => (d, Config.clockAt (960 + d) s.tick)
    hostOut := .written }

/-- TSTAMP_WRITE (R454). -/
def execTstampWrite (x : BitVec 64) (s : State) : Host.Outcome State Fault Refusal :=
  .next (hostGate s fun s => tstampSet s x)

/-- A read of HERR returns its counters and clears them. -/
def herrTake (s : State) : State := { s with hostOut := .data (wordBytes s.herr), herr := 0 }

/-- HERR_READ (R454). -/
def execHerrRead (s : State) : Host.Outcome State Fault Refusal := .next (hostGate s herrTake)

/-- EHPTR_READ (R75): LOST is returned and cleared. -/
def execEhptrRead (n : Nat) (s : State) : Host.Outcome State Fault Refusal :=
  if 8 ≤ n then .next s else .next (hostGate s fun s => hostTake s (rEhptr n))

/-- SHSTAT_READ (R154): HDROP is returned and cleared. -/
def execShstatRead (d : Nat) (s : State) : Host.Outcome State Fault Refusal :=
  if 4 ≤ d then .next s else .next (hostGate s fun s => hostTake s (rShstat d))

/-- KSSTAT_READ (R182): LATE is returned and cleared. -/
def execKsstatRead (s : State) : Host.Outcome State Fault Refusal := .next (hostGate s fun s => hostTake s 0x111)

/-- LSTAT_READ (R402): DROPS is returned and cleared. -/
def execLstatRead (d : Nat) (s : State) : Host.Outcome State Fault Refusal :=
  if 4 ≤ d then .next s else .next (hostGate s fun s => hostTake s (rLstat d))

/-- KNSTAT_READ (R405): HIGH is returned and cleared. -/
def execKnstatRead (d : Nat) (s : State) : Host.Outcome State Fault Refusal :=
  if 4 ≤ d then .next s else .next (hostGate s fun s => hostTake s (rKnstat d))

/-- CLSTAT_READ (R406): OVREL is returned and cleared. -/
def execClstatRead (d : Nat) (s : State) : Host.Outcome State Fault Refusal :=
  if 4 ≤ d then .next s else .next (hostGate s fun s => hostTake s (rClstat d))

/-- PORTSTAT_READ (R425): DOWNS, REPLAY and PDROP are returned and cleared. -/
def execPortstatRead (port : Nat) (s : State) : Host.Outcome State Fault Refusal :=
  if 12 ≤ port then .next s else .next (hostGate s fun s => hostTake s (rPortstat port))

/-- FQPTR_READ (R445): LOST and MERGED are returned and cleared. -/
def execFqptrRead (d : Nat) (s : State) : Host.Outcome State Fault Refusal :=
  if 4 ≤ d then .next s else .next (hostGate s fun s => hostTake s (rFqptr d))

/-- TRPTR_READ (R452): LOST is returned and cleared. -/
def execTrptrRead (d : Nat) (s : State) : Host.Outcome State Fault Refusal :=
  if 4 ≤ d then .next s else .next (hostGate s fun s => hostTake s (rTrptr d))

/-- A read that only returns a value. -/
def hostAnswer (s : State) (w : Word) : State := { s with hostOut := .data (wordBytes w) }

/-- A read of the words at 0x0010_4000 (R454): TSTAMP, TSCAP0 to TSCAP3, HERR. -/
def timeTake (s : State) (i : Nat) : State :=
  if i = 0 then hostAnswer s s.tstamp
  else if i ≤ 4 then hostAnswer s (tabD s.tscap (i - 1) 0)
  else if i = 5 then herrTake s
  else hostAnswer s 0

/-- A read of word i of a core's debug window (R448). -/
def windowTake (s : State) (c i : Nat) : State := if i = 5 then dbgRead s c else hostAnswer s (windowView s c i)

/-- A host read by BAR0 (R453): a device register, a die's LSTAT or DOORBELL, the host registers, a debug window; elsewhere 0. -/
def bar0Take (s : State) (off : Nat) : State :=
  if off % 8 ≠ 0 then hostRefuse s
  else if 0x800 ≤ off ∧ off < 0x4000 then hostTake s (off / 8)
  else if 0x100000 ≤ off ∧ off < 0x104000 ∧ off % 0x1000 = 0x800 then hostTake s (rLstat ((off - 0x100000) / 0x1000))
  else if 0x100000 ≤ off ∧ off < 0x104000 ∧ off % 0x1000 = 0x808 then hostTake s (rDoorbell ((off - 0x100000) / 0x1000))
  else if 0x104000 ≤ off ∧ off < 0x105000 then timeTake s ((off - 0x104000) / 8)
  else if 0x2000000 ≤ off ∧ coreExists s ((off - 0x2000000) / 0x1000) then
    windowTake s ((off - 0x2000000) / 0x1000) (off % 0x1000 / 8)
  else hostAnswer s 0

/-- What BAR0 still answers: BOOTSTAT of a boot that has stopped (R458), BOOTSTAT and THERMCTL after a trip (R466). -/
def answersAlways (s : State) (off : Nat) : Bool :=
  (off == 8 * rBootstat && (tripped s || bits (reg s rBootstat) 63 56 != 0)) || (off == 8 * rThermctl && tripped s)

/-- The host reads BAR0 (R3, R453, R454). -/
def execBar0Read (off : Nat) (s : State) : Host.Outcome State Fault Refusal :=
  if answersAlways s off then .next (hostTake s (off / 8)) else .next (hostGate s fun s => bar0Take s off)

/-- A host write by BAR0: register n of R280 below 0x800, or word k of core c's debug window, number 0x1000 + 4 c + k
(log 40). Elsewhere nothing is written. -/
def bar0Write (s : State) (n : Nat) (x : Word) : State :=
  if 0x1000 ≤ n then (if coreExists s ((n - 0x1000) / 4) then windowReg s ((n - 0x1000) / 4) (n % 4) x else s)
  else if inBlock n 0x474 4 then doorbellRing s (n - 0x474) x
  else if inBlock n 0x100 0x700 then regWrite s n x
  else s

/-- REGISTER_WRITE (R281, R453). -/
def execRegisterWrite (n : Nat) (x : BitVec 64) (s : State) : Host.Outcome State Fault Refusal :=
  .next (hostGate s fun s => bar0Write s n x)

end Sys2Proof.Machine
end

