-- ==== Sys2Proof/Machine/Queues.lean ====
section
/-! DEFINITION. Sys2Proof/Machine/Queues.lean: qcfg and tok (R270, R271), the handle, semaphore and barrier
instructions (R272 to R275), and engine commands placed by a role (R276). -/

namespace Sys2Proof.Machine

/-! ## Queues and tokens -/

/-- QCFG (R270). -/
def execQcfg (m : Mark) (q : BitVec 4) (prod cons : RoleId) (s : State) : Host.Outcome State Fault Refusal :=
  issue (.qcfg m q prod cons) m 1 noGuard
    (fun c _ s =>
      let n := q.toNat
      if qLen (core s c) n ≠ 0 then .error (.trap tQUEUE (queueTval 0 6 n))
      else
        let w := putBits (putBits ((core s c).qctl.zeroExtend 64) (4 * n + 3) (4 * n + 2) prod.code.toNat)
          (4 * n + 1) (4 * n) cons.code.toNat
        done (modCore s c fun k => { k with qctl := w.setWidth 40 })) s

/-- TOK_PUSH (R271): as n push-after marks, so after the role's earlier memory operations (R89). -/
def execTokPush (m : Mark) (n : BitVec 5) (s : State) : Host.Outcome State Fault Refusal :=
  issue (.tokPush m n) m 1 noGuard
    (fun c r s => do
      needWorker c
      if !pushReady s c r then .error (.wait .other)
      else if 16 < downCount (core s c) r + n.toNat then .error (.wait (.tokPush n.toNat))
      else done (pushTokens s c r n.toNat)) s

/-- Tokens that the word's own pop-before is still to take first. -/
def ownPop (s : State) (c : Nat) (r : RoleId) (m : Mark) : Nat := if m.pb ∧ !(getRole s c r).popDone then 1 else 0

/-- TOK_POP (R271): its pop-before comes before its own pops, which are acquires as well (R89, R112 note (a)). -/
def execTokPop (m : Mark) (n : BitVec 5) (s : State) : Host.Outcome State Fault Refusal :=
  issue (.tokPop m n) m 1 noGuard
    (fun c r s => do
      needWorker c
      if upCount (core s c) r < ownPop s c r m + n.toNat then .error (.wait (.tokPop n.toNat))
      else if !acqReady s c r .core then .error (.wait .other)
      else done (popTokens s c r n.toNat)) s

/-- TOK_Q (R271). -/
def execTokQ (m : Mark) (rd : G6) (s : State) : Host.Outcome State Fault Refusal :=
  issue (.tokQ m rd) m 1 noGuard
    (fun c r s => do
      needWorker c
      checkUse c r s [] (.g rd)
      let k := core s c
      done (writeG c r s rd ⟨BitVec.ofNat 64 (upCount k r - ownPop s c r m + 256 * downCount k r), false⟩)) s

/-! ## Handles (R272) -/

/-- The count operand. -/
def countOf (a : Word) (imm : BitVec 16) : Nat := (a + imm.zeroExtend 64).toNat

/-- A handle's ring must lie in scratch at each use (R209). -/
def needRing (k : Core) (h : Nat) : Except Stop Unit :=
  if descInScratch k (desc k h) then .ok () else .error (.trap tQUEUE (queueTval 1 7 h))

/-- A count outside the ring (R211). -/
def needCount (h : Nat) (ok : Bool) : Except Stop Unit :=
  if ok then .ok () else .error (.trap tQUEUE (queueTval 1 5 h))

/-- The checks of cbinit (R272), in order: none, or the QUEUE reason. -/
def cbReason (s : State) (c h : Nat) (a b : Word) : Option Nat :=
  let d := descOf a b
  if bits a 63 58 ≠ 0 ∨ bits a 28 21 ≠ 0 ∨ bits b 63 45 ≠ 0 ∨ bits b 31 28 ≠ 0 ∨ bits b 15 12 ≠ 0 then some 7
  else if !descInScratch (core s c) d then some 7
  else if (h = 14 ∧ !(d.size = 8 ∧ d.slots ≤ 16)) ∨ (h = 15 ∧ !(d.size = 8 ∧ d.slots ≤ 64)) then some 5
  else if !(d.filled ≤ d.slots ∧ d.ridx < d.slots ∧ d.widx < d.slots ∧ d.widx = (d.ridx + d.filled) % d.slots) then
    some 5
  else if handleBusy s c h then some 6
  else none

/-- The roles that place the words of a command ring, by word number (R357). -/
def ownWords (t : Tab RoleId) (start n : Nat) (r : RoleId) : Tab RoleId :=
  (List.range n).foldl (fun t i => tabSet t (start + i) r) t

/-- Words of a command ring, after the d.filled it holds, are placed by a role (R357). -/
def placedBy (s : State) (c : Nat) (r : RoleId) (h filled n : Nat) : State :=
  if h = 14 then
    modCore s c fun k =>
      { k with matrix := { k.matrix with owners := ownWords k.matrix.owners (k.matrix.taken + filled) n r } }
  else if h = 15 then
    modCore s c fun k => { k with copy := { k.copy with owners := ownWords k.copy.owners (k.copy.taken + filled) n r } }
  else s

/-- A role frees the n oldest words of a command ring: they are no commands any more, and those behind them keep their
placing roles (R211, R357). -/
def discardWords (s : State) (c h n : Nat) : State :=
  if h = 14 then
    modCore s c fun k =>
      let t := k.matrix.taken + n
      { k with matrix := { k.matrix with taken := t, owners := k.matrix.owners.filter fun e => decide (t ≤ e.1) } }
  else if h = 15 then
    modCore s c fun k =>
      let t := k.copy.taken + n
      { k with copy := { k.copy with taken := t, owners := k.copy.owners.filter fun e => decide (t ≤ e.1) } }
  else s

/-- CBINIT (R272). The role places the words that a command ring's descriptor holds as published (log 24). -/
def execCbinit (m : Mark) (h : BitVec 4) (ra rb : G6) (s : State) : Host.Outcome State Fault Refusal :=
  issue (.cbinit m h ra rb) m 1 noGuard
    (fun c r s => do
      checkUse c r s [.g ra, .g rb] .none
      let (s', a) := readG c r s ra
      let (s', b) := readG c r s' rb
      match cbReason s c h.toNat a.val b.val with
      | some n => .error (.trap tQUEUE (queueTval 1 n h.toNat))
      | none =>
        let s' := modCore s' c fun k =>
          { k with hdesc := tabSet (tabSet k.hdesc (2 * h.toNat) a.val) (2 * h.toNat + 1) b.val }
        done (placedBy s' c r h.toNat 0 (descOf a.val b.val).filled)) s

/-- cbwait and cbres: wait for n filled or free slots, then answer the address of a slot (R211, R272). -/
def slotWait (h : Nat) (free : Bool) (rd ra : G6) (imm : BitVec 16) : Body := fun c r s => do
  checkUse c r s [.g ra] (.g rd)
  let (s', a) := readG c r s ra
  let n := countOf a.val imm
  let d := desc (core s c) h
  needRing (core s c) h
  needCount h (n ≤ d.slots)
  if (if free then d.slots - d.filled else d.filled) < n then
    .error (.wait (if free then .free h n else .filled h n))
  else done (writeG c r s' rd ⟨BitVec.ofNat 64 (NW + slotByte d (if free then d.widx else d.ridx)), false⟩)

/-- CBWAIT (R272). -/
def execCbwait (m : Mark) (h : BitVec 4) (rd ra : G6) (imm : BitVec 16) (s : State) :
    Host.Outcome State Fault Refusal :=
  issue (.cbwait m h rd ra imm) m 1 noGuard (slotWait h.toNat false rd ra imm) s

/-- CBRES (R272). -/
def execCbres (m : Mark) (h : BitVec 4) (rd ra : G6) (imm : BitVec 16) (s : State) :
    Host.Outcome State Fault Refusal :=
  issue (.cbres m h rd ra imm) m 1 noGuard (slotWait h.toNat true rd ra imm) s

/-- Publish n slots of a handle; words of the command rings are placed by the role (R357). -/
def publishBy (s : State) (c : Nat) (r : RoleId) (h n : Nat) : State :=
  let d := desc (core s c) h
  placedBy (setDesc s c h (publish d n)) c r h d.filled n

/-- CBPUSH (R272). -/
def execCbpush (m : Mark) (h : BitVec 4) (ra : G6) (imm : BitVec 16) (s : State) :
    Host.Outcome State Fault Refusal :=
  issue (.cbpush m h ra imm) m 1 noGuard
    (fun c r s => do
      checkUse c r s [.g ra] .none
      let (s', a) := readG c r s ra
      let n := countOf a.val imm
      let d := desc (core s c) h.toNat
      needRing (core s c) h.toNat
      needCount h.toNat (n ≤ d.slots - d.filled)
      done (publishBy s' c r h.toNat n)) s

/-- CBPOP (R272). -/
def execCbpop (m : Mark) (h : BitVec 4) (ra : G6) (imm : BitVec 16) (s : State) :
    Host.Outcome State Fault Refusal :=
  issue (.cbpop m h ra imm) m 1 noGuard
    (fun c r s => do
      checkUse c r s [.g ra] .none
      let (s', a) := readG c r s ra
      let n := countOf a.val imm
      let d := desc (core s c) h.toNat
      needRing (core s c) h.toNat
      needCount h.toNat (n ≤ d.filled)
      done (discardWords (setDesc s' c h.toNat (freeSlots d n)) c h.toNat n)) s

/-! ## Semaphores (R274) -/

/-- The 32-bit operand. -/
def semOperand (a : Word) (imm : BitVec 16) : Nat := countOf a imm % 2 ^ 32

/-- A semaphore instruction: `ready` holds, or the role waits as `w` says; the new value, if any; the old value goes to
gd. `rel`: the update is a release at core scope, else the satisfied wait is an acquire there (R84, R99, R112 note (a)). -/
def semBody (i : Nat) (rd ra : G6) (imm : BitVec 16) (rel : Bool) (w : Nat → Wait) (ready : Nat → Nat → Bool)
    (f : Nat → Nat → Option Nat) : Body := fun c r s => do
  checkUse c r s [.g ra] (.g rd)
  let (s', a) := readG c r s ra
  let n := semOperand a.val imm
  let v := sem (core s c) i
  if rel && !coreQuiet s c r then .error (.wait .other)
  else if !ready v n ∨ (!rel ∧ !semTurn s c i (roleNum r)) then .error (.wait (w n))
  else if !rel && !acqReady s c r .core then .error (.wait .other)
  else
    let s' := match f v n with
      | some x => setSem s' c i x
      | none => s'
    done (writeG c r s' rd ⟨BitVec.ofNat 64 v, false⟩)

/-- SEMW_DEC (R274). -/
def execSemwDec (m : Mark) (sem : BitVec 5) (rd ra : G6) (imm : BitVec 16) (s : State) :
    Host.Outcome State Fault Refusal :=
  issue (.semwDec m sem rd ra imm) m 1 noGuard
    (semBody sem.toNat rd ra imm false (.semGe sem.toNat) (fun v n => decide (n ≤ v)) fun v n => some (v - n)) s

/-- SEMW_GE (R274). -/
def execSemwGe (m : Mark) (sem : BitVec 5) (rd ra : G6) (imm : BitVec 16) (s : State) :
    Host.Outcome State Fault Refusal :=
  issue (.semwGe m sem rd ra imm) m 1 noGuard
    (semBody sem.toNat rd ra imm false (.semGe sem.toNat) (fun v n => decide (n ≤ v)) fun _ _ => none) s

/-- SEMW_EQ (R274). -/
def execSemwEq (m : Mark) (sem : BitVec 5) (rd ra : G6) (imm : BitVec 16) (s : State) :
    Host.Outcome State Fault Refusal :=
  issue (.semwEq m sem rd ra imm) m 1 noGuard
    (semBody sem.toNat rd ra imm false (.semEq sem.toNat) (fun v n => v == n) fun _ _ => none) s

/-- SEMS_ADD (R274). -/
def execSemsAdd (m : Mark) (sem : BitVec 5) (rd ra : G6) (imm : BitVec 16) (s : State) :
    Host.Outcome State Fault Refusal :=
  issue (.semsAdd m sem rd ra imm) m 1 noGuard
    (semBody sem.toNat rd ra imm true (.semGe sem.toNat) (fun _ _ => true) fun v n => some (satAdd 0xFFFFFFFF v n)) s

/-- SEMS_SUB (R274): floors at 0. -/
def execSemsSub (m : Mark) (sem : BitVec 5) (rd ra : G6) (imm : BitVec 16) (s : State) :
    Host.Outcome State Fault Refusal :=
  issue (.semsSub m sem rd ra imm) m 1 noGuard
    (semBody sem.toNat rd ra imm true (.semGe sem.toNat) (fun _ _ => true) fun v n => some (v - n)) s

/-- SEMSET (R274). -/
def execSemset (m : Mark) (sem : BitVec 5) (rd ra : G6) (imm : BitVec 16) (s : State) :
    Host.Outcome State Fault Refusal :=
  issue (.semset m sem rd ra imm) m 1 noGuard
    (semBody sem.toNat rd ra imm true (.semGe sem.toNat) (fun _ _ => true) fun _ n => some n) s

/-! ## Barriers (R275) -/

/-- The object's memory key, or the fatal error. -/
def barKey (s : State) (c : Nat) (a : Word) : Except Stop Nat :=
  match barLoc s c (a.toNat % 2 ^ 57) with
  | .ok k => .ok k
  | .error f => .error (.fatal s f)

/-- A barrier's scope: core for one in the core's own pool, else cluster (R98). -/
def barScope (c key : Nat) : Scope := if poolBase c ≤ key ∧ key < poolBase (c + 1) then .core else .clu

/-- BARI (R275). -/
def execBari (m : Mark) (ra rb : G6) (imm : BitVec 16) (s : State) : Host.Outcome State Fault Refusal :=
  issue (.bari m ra rb imm) m 1 noGuard
    (fun c r s => do
      checkUse c r s [.g ra, .g rb] .none
      let (s', a) := readG c r s ra
      let (s', b) := readG c r s' rb
      let key ← barKey s c a.val
      done (barPut s' key (barInit (barGet s key) (bits (b.val + imm.zeroExtend 64) 15 0)))) s

/-- BARA (R275): a release at the barrier's scope (R98), then the arrival; gd takes the phase it counted in. -/
def execBara (m : Mark) (rd ra : G6) (s : State) : Host.Outcome State Fault Refusal :=
  issue (.bara m rd ra) m 1 noGuard
    (fun c r s => do
      checkUse c r s [.g ra] (.g rd)
      let (s', a) := readG c r s ra
      let key ← barKey s c a.val
      let b := barGet s key
      if !coreQuiet s c r then .error (.wait .other)
      else
        let v : Reg := ⟨BitVec.ofNat 64 (bit b.1 0).toNat, false⟩
        if bits b.1 63 48 = 0 then done (writeG c r s' rd v)
        else if bits b.1 47 32 = bits b.1 63 48 then .error (.wait .other)
        else done (writeG c r (barPut s' key (barArrive b)) rd v)) s

/-- BARX (R275). -/
def execBarx (m : Mark) (ra rb : G6) (imm : BitVec 16) (s : State) : Host.Outcome State Fault Refusal :=
  issue (.barx m ra rb imm) m 1 noGuard
    (fun c r s => do
      checkUse c r s [.g ra, .g rb] .none
      let (s', a) := readG c r s ra
      let (s', b) := readG c r s' rb
      let key ← barKey s c a.val
      done (barPut s' key (barExpect (barGet s key) (bits (b.val + imm.signExtend 64) 47 0)))) s

/-- BARW (R275): waits until the phase differs from bit 0 of the operand, and acquires (R98, R112 note (a)). -/
def execBarw (m : Mark) (ra rb : G6) (imm : BitVec 16) (s : State) : Host.Outcome State Fault Refusal :=
  issue (.barw m ra rb imm) m 1 noGuard
    (fun c r s => do
      checkUse c r s [.g ra, .g rb] .none
      let (s', a) := readG c r s ra
      let (s', b) := readG c r s' rb
      let key ← barKey s c a.val
      if bit (barGet s key).1 0 = bit (b.val + imm.zeroExtend 64) 0 then .error (.wait .barw)
      else if !acqReady s c r (barScope c key) then .error (.wait .other)
      else done s') s

/-! ## Engine commands (R276) -/

/-- The loop format of an mma word, resolved at its push (R359). -/
def resolveFormat (w : Word) (lc0 : BitVec 32) : Word :=
  if bits w 47 42 = 1 ∧ bits w 63 56 ≠ 0xFF ∧ bit w 41 then
    putBits (putBit w 41 false) 40 37 ((bits w 40 37 + lc0.toNat) % 16)
  else w

/-- Write the words of a command into the free slots of a ring. -/
def placeWordsIn (s : State) (c : Nat) (d : Desc) : (i : Nat) → List Word → State
  | _, [] => s
  | i, w :: r => placeWordsIn (poolWrite s c (slotByte d (d.widx + i)) (wordBytes w)) c d (i + 1) r

/-- Push (R276): the checks, the wait for slots, and one handle step. The command follows every earlier memory operation
of the role (R92). -/
def pushBody (h : Nat) (n : BitVec 2) (ra rb rc rd : G6) : Body := fun c r s => do
  let regs := [ra, rb, rc, rd].take (n.toNat + 1)
  checkUse c r s (regs.map Src.g) .none
  let (s', ws) := regs.foldl (fun (p : State × List Word) x =>
    let (t, v) := readG c r p.1 x
    (t, p.2 ++ [v.val])) (s, [])
  let k := n.toNat + 1
  let d := desc (core s c) h
  needRing (core s c) h
  needCount h (k ≤ d.slots)
  let ws := if h = 14 then
      match ws with
      | w :: t => resolveFormat w (tabD (getRole s c r).lc 0 0) :: t
      | [] => []
    else ws
  if d.slots - d.filled < k then .error (.wait (.free h k))
  else if !roleDrained s c r then .error (.wait .other)
  else done (publishBy (placeWordsIn s' c d 0 ws) c r h k)

/-- PUSH_M (R276). -/
def execPushM (m : Mark) (cnt : BitVec 2) (ra rb rc rd : G6) (s : State) : Host.Outcome State Fault Refusal :=
  issue (.pushM m cnt ra rb rc rd) m 1 noGuard (pushBody 14 cnt ra rb rc rd) s

/-- PUSH_C (R276). -/
def execPushC (m : Mark) (cnt : BitVec 2) (ra rb rc rd : G6) (s : State) : Host.Outcome State Fault Refusal :=
  issue (.pushC m cnt ra rb rc rd) m 1 noGuard (pushBody 15 cnt ra rb rc rd) s

end Sys2Proof.Machine
end

