-- ==== Sys2Proof/Machine/Vector.lean ====
section
/-! DEFINITION. Sys2Proof/Machine/Vector.lean: the vector instructions (R333 to R355), lane by lane over the formats of
Float.lean. -/

namespace Sys2Proof.Machine

/-! ## Shared bodies -/

/-- FMT for a reserved type (R241), then UNBOUND, QUEUE and the waits. -/
def vecUse (dts : List DType) (src : List Src) (dst : Dst) (c : Nat) (r : RoleId) (s : State) : Except Stop Unit :=
  if dts.any Check.reserved then .error (.trap tFMT 0) else checkUse c r s src dst

/-- Read vector sources in order. -/
def readVs (c : Nat) (r : RoleId) : State → List V5 → State × List VReg
  | s, [] => (s, [])
  | s, x :: l =>
    let (s, v) := readV c r s x
    let (s, vs) := readVs c r s l
    (s, v :: vs)

/-- SrBase (R338). -/
def srBase (s : State) (c : Nat) (r : RoleId) : Nat :=
  let rank := if isSystem c then 0 else bits (core s c).rect 5 0
  2 ^ 42 * rank + 2 ^ 40 * r.code.toNat + 2 ^ 8 * ((getRole s c r).walk.toNat % 2 ^ 32)

/-- The draws of an instruction's elements (R319, R338); only .sr draws, and then the page is read. -/
def drawOf (c : Nat) (r : RoleId) (s : State) (rm : RM) : Except Stop (State × (Nat → Nat)) :=
  if rm = .sr then do
    let (s', ctr, key) ← streamRead c r s 0
    .ok (s', fun j => (drawAt ctr key (srBase s c r) j).toNat)
  else .ok (s, fun _ => 0)

/-- Elements of w bits of the active lanes, and their flags. -/
def elems (w : Nat) (act : BitVec 64) (f : Nat → Nat × BitVec 5) : VReg × BitVec 5 :=
  let r := (List.range (2048 / w)).foldl (fun (a : Nat × BitVec 5) i =>
    if act.getLsbD (w * i / 32) then
      let (x, fl) := f i
      (a.1 ||| (x % 2 ^ w) <<< (w * i), a.2 ||| fl)
    else a) (0, 0)
  (BitVec.ofNat 2048 r.1, r.2)

/-- An element function of a draw and the operands' codes. -/
abbrev ElemOp := Nat → List Nat → Nat × BitVec 5

/-- Lanewise (R339): every element of the active lanes. -/
def vecMap (dts : List DType) (w : Nat) (rm : RM) (vd : V5) (src : List V5) (g : Guard) (f : ElemOp) : Body :=
  fun c r s => do
    vecUse dts (src.map .v) (.v vd) c r s
    let (s, draw) ← drawOf c r s rm
    let act := guardLanes c r s g
    let (s, vs) := readVs c r s src
    let (v, fl) := elems w act fun i => f (draw i) (vs.map fun x => packed x.toNat w i)
    done (orFlags (writeV c r s vd act v) c r fl)

/-- A float operation: exact, then rounded once (R339). -/
def floatOp (dt : DType) (rm : RM) (sat : Bool) (op : List Val → Val × BitVec 5) : ElemOp := fun u l =>
  match elemFmt dt with
  | none => (0, 0)
  | some f =>
    let (v, fl) := op (l.map f.val)
    let (x, fl') := roundTo f rm sat u v
    (x, fl ||| fl')

/-- An exact integer result of w bits, wrapped, or clamped with OVF (R340). -/
def intResult (w : Nat) (sat : Bool) (v : Int) : Nat × BitVec 5 :=
  let top : Int := (2 ^ (w - 1) : Nat)
  let code (x : Int) : Nat := (x % (2 ^ w : Nat)).toNat
  if sat ∧ top ≤ v then (code (top - 1), fOVF)
  else if sat ∧ v < -top then (code (-top), fOVF)
  else (code v, 0)

def isIntType (t : DType) : Bool := t == .i32 || t == .i8

/-- An integer operation. -/
def intOp (dt : DType) (sat : Bool) (op : List Int → Int) : ElemOp := fun _ l =>
  intResult (elemBits dt) sat (op (l.map (signedOf (elemBits dt))))

/-- An operation on floats or integers. -/
def arithOp (dt : DType) (rm : RM) (sat : Bool) (fop : List Val → Val × BitVec 5) (iop : List Int → Int) : ElemOp :=
  if isIntType dt then intOp dt sat iop else floatOp dt rm sat fop

/-! ### Exact operations on operand lists -/

def val2 (f : Val → Val → Val × BitVec 5) : List Val → Val × BitVec 5
  | [a, b] => f a b
  | _ => (.nan, 0)

def val1 (f : Val → Val × BitVec 5) : List Val → Val × BitVec 5
  | [a] => f a
  | _ => (.nan, 0)

def val3 (f : Val → Val → Val → Val × BitVec 5) : List Val → Val × BitVec 5
  | [a, b, c] => f a b c
  | _ => (.nan, 0)

def int2 (f : Int → Int → Int) : List Int → Int
  | [a, b] => f a b
  | _ => 0

def int1 (f : Int → Int) : List Int → Int
  | [a] => f a
  | _ => 0

/-- An operation on codes that is exact and keeps signs and zeros (R339): any NaN gives the canonical NaN. -/
def codeOp (dt : DType) (op : Fmt → List Nat → Nat) : ElemOp := fun _ l =>
  match elemFmt dt with
  | none => (0, 0)
  | some f => if l.any fun x => isNan (f.val x) then (f.nanCode, 0) else (op f l, 0)

/-- The code that comes first, or last, in the order of R339. -/
def pick (f : Fmt) (first : Bool) (a b : Nat) : Nat :=
  if (decide (totalKey f a ≤ totalKey f b)) == first then a else b

def pick2 (first : Bool) (f : Fmt) : List Nat → Nat
  | [a, b] => pick f first a b
  | _ => 0

/-- min(max(a, b), c). -/
def clamp3 (f : Fmt) : List Nat → Nat
  | [a, b, c] => pick f true (pick f false a b) c
  | _ => 0

def clampInt : List Int → Int
  | [a, b, c] => min (max a b) c
  | _ => 0

/-- An exact operation on floats, and its integer form. -/
def orderOp (dt : DType) (sat : Bool) (fop : Fmt → List Nat → Nat) (iop : List Int → Int) : ElemOp :=
  if isIntType dt then intOp dt sat iop else codeOp dt fop

/-- The sign bit flipped, or cleared. -/
def flipSign (f : Fmt) : List Nat → Nat
  | [a] => (a + 2 ^ f.signBit) % 2 ^ (f.signBit + 1)
  | _ => 0

def clearSign (f : Fmt) : List Nat → Nat
  | [a] => a % 2 ^ f.signBit
  | _ => 0

/-! ## Lanewise arithmetic (R339 to R341) -/

/-- VADD (R339). -/
def execVadd (m : Mark) (dt : DType) (rm : RM) (sat : Bool) (vd va vb : V5) (g : Guard) (s : State) :
    Host.Outcome State Fault Refusal :=
  issue (.vadd m dt rm sat vd va vb g) m 1 (vectorGuard g)
    (vecMap [dt] (elemBits dt) rm vd [va, vb] g (arithOp dt rm sat (val2 (addVal (rm == .rdn))) (int2 (· + ·)))) s

/-- VSUB (R339). -/
def execVsub (m : Mark) (dt : DType) (rm : RM) (sat : Bool) (vd va vb : V5) (g : Guard) (s : State) :
    Host.Outcome State Fault Refusal :=
  issue (.vsub m dt rm sat vd va vb g) m 1 (vectorGuard g)
    (vecMap [dt] (elemBits dt) rm vd [va, vb] g (arithOp dt rm sat (val2 (fun a b => addVal (rm == .rdn) a (negVal b))) (int2 (· - ·)))) s

/-- VMUL (R339). -/
def execVmul (m : Mark) (dt : DType) (rm : RM) (sat : Bool) (vd va vb : V5) (g : Guard) (s : State) :
    Host.Outcome State Fault Refusal :=
  issue (.vmul m dt rm sat vd va vb g) m 1 (vectorGuard g)
    (vecMap [dt] (elemBits dt) rm vd [va, vb] g (arithOp dt rm sat (val2 (mulVal)) (int2 (· * ·)))) s

/-- VFMA (R339). -/
def execVfma (m : Mark) (dt : DType) (rm : RM) (sat : Bool) (vd va vb vc : V5) (g : Guard) (s : State) :
    Host.Outcome State Fault Refusal :=
  issue (.vfma m dt rm sat vd va vb vc g) m 1 (vectorGuard g)
    (vecMap [dt] (elemBits dt) rm vd [va, vb, vc] g (floatOp dt rm sat (val3 (fmaVal (rm == .rdn) false)))) s

/-- VFMS (R339). -/
def execVfms (m : Mark) (dt : DType) (rm : RM) (sat : Bool) (vd va vb vc : V5) (g : Guard) (s : State) :
    Host.Outcome State Fault Refusal :=
  issue (.vfms m dt rm sat vd va vb vc g) m 1 (vectorGuard g)
    (vecMap [dt] (elemBits dt) rm vd [va, vb, vc] g (floatOp dt rm sat (val3 (fun a b c => fmaVal (rm == .rdn) false a b (negVal c))))) s

/-- VFNMA (R339). -/
def execVfnma (m : Mark) (dt : DType) (rm : RM) (sat : Bool) (vd va vb vc : V5) (g : Guard) (s : State) :
    Host.Outcome State Fault Refusal :=
  issue (.vfnma m dt rm sat vd va vb vc g) m 1 (vectorGuard g)
    (vecMap [dt] (elemBits dt) rm vd [va, vb, vc] g (floatOp dt rm sat (val3 (fmaVal (rm == .rdn) true)))) s

/-- VNEG (R339, R340). -/
def execVneg (m : Mark) (dt : DType) (sat : Bool) (vd va : V5) (g : Guard) (s : State) :
    Host.Outcome State Fault Refusal :=
  issue (.vneg m dt sat vd va g) m 1 (vectorGuard g)
    (vecMap [dt] (elemBits dt) .rne vd [va] g (orderOp dt sat flipSign (int1 (- ·)))) s

/-- VABS (R339, R340). -/
def execVabs (m : Mark) (dt : DType) (sat : Bool) (vd va : V5) (g : Guard) (s : State) :
    Host.Outcome State Fault Refusal :=
  issue (.vabs m dt sat vd va g) m 1 (vectorGuard g)
    (vecMap [dt] (elemBits dt) .rne vd [va] g (orderOp dt sat clearSign (int1 fun a => (a.natAbs : Int)))) s

/-- VMIN (R339). -/
def execVmin (m : Mark) (dt : DType) (vd va vb : V5) (g : Guard) (s : State) :
    Host.Outcome State Fault Refusal :=
  issue (.vmin m dt vd va vb g) m 1 (vectorGuard g)
    (vecMap [dt] (elemBits dt) .rne vd [va, vb] g (orderOp dt false (pick2 true) (int2 min))) s

/-- VMAX (R339). -/
def execVmax (m : Mark) (dt : DType) (vd va vb : V5) (g : Guard) (s : State) :
    Host.Outcome State Fault Refusal :=
  issue (.vmax m dt vd va vb g) m 1 (vectorGuard g)
    (vecMap [dt] (elemBits dt) .rne vd [va, vb] g (orderOp dt false (pick2 false) (int2 max))) s

/-- VRCP (R339, R341). -/
def execVrcp (m : Mark) (dt : DType) (rm : RM) (sat : Bool) (vd va : V5) (g : Guard) (s : State) :
    Host.Outcome State Fault Refusal :=
  issue (.vrcp m dt rm sat vd va g) m 1 (vectorGuard g)
    (vecMap [dt] (elemBits dt) rm vd [va] g (floatOp dt rm sat (val1 rcpVal))) s

/-- VRSQ (R339, R341). -/
def execVrsq (m : Mark) (dt : DType) (rm : RM) (sat : Bool) (vd va : V5) (g : Guard) (s : State) :
    Host.Outcome State Fault Refusal :=
  issue (.vrsq m dt rm sat vd va g) m 1 (vectorGuard g)
    (vecMap [dt] (elemBits dt) rm vd [va] g (floatOp dt rm sat (val1 rsqrtVal))) s

/-- VSQRT (R339, R341). -/
def execVsqrt (m : Mark) (dt : DType) (rm : RM) (sat : Bool) (vd va : V5) (g : Guard) (s : State) :
    Host.Outcome State Fault Refusal :=
  issue (.vsqrt m dt rm sat vd va g) m 1 (vectorGuard g)
    (vecMap [dt] (elemBits dt) rm vd [va] g (floatOp dt rm sat (val1 sqrtVal))) s

/-- VDIV (R339, R341). -/
def execVdiv (m : Mark) (dt : DType) (rm : RM) (sat : Bool) (vd va vb : V5) (g : Guard) (s : State) :
    Host.Outcome State Fault Refusal :=
  issue (.vdiv m dt rm sat vd va vb g) m 1 (vectorGuard g)
    (vecMap [dt] (elemBits dt) rm vd [va, vb] g (floatOp dt rm sat (val2 divVal))) s

/-- VEXP2 (R339, R341). -/
def execVexp2 (m : Mark) (dt : DType) (sat : Bool) (vd va : V5) (g : Guard) (s : State) :
    Host.Outcome State Fault Refusal :=
  issue (.vexp2 m dt sat vd va g) m 1 (vectorGuard g)
    (vecMap [dt] (elemBits dt) .rne vd [va] g (floatOp dt .rne sat (val1 exp2Val))) s

/-- VLOG2 (R339, R341). -/
def execVlog2 (m : Mark) (dt : DType) (vd va : V5) (g : Guard) (s : State) :
    Host.Outcome State Fault Refusal :=
  issue (.vlog2 m dt vd va g) m 1 (vectorGuard g)
    (vecMap [dt] (elemBits dt) .rne vd [va] g (floatOp dt .rne false (val1 log2Val))) s

/-- VTANH (R339, R341). -/
def execVtanh (m : Mark) (dt : DType) (vd va : V5) (g : Guard) (s : State) :
    Host.Outcome State Fault Refusal :=
  issue (.vtanh m dt vd va g) m 1 (vectorGuard g)
    (vecMap [dt] (elemBits dt) .rne vd [va] g (floatOp dt .rne false (val1 tanhVal))) s

/-- VCLAMP (R339): the maximum first. -/
def execVclamp (m : Mark) (dt : DType) (vd va vb vc : V5) (g : Guard) (s : State) :
    Host.Outcome State Fault Refusal :=
  issue (.vclamp m dt vd va vb vc g) m 1 (vectorGuard g)
    (vecMap [dt] (elemBits dt) .rne vd [va, vb, vc] g (orderOp dt false clamp3 clampInt)) s

/-! ## Compare, select, logic, shifts (R342 to R344) -/

/-- A comparison of two float codes: with a NaN only ne holds (R342). -/
def floatCond (cc : Cond) (f : Fmt) (a b : Nat) : Bool :=
  if isNan (f.val a) || isNan (f.val b) then cc == .ne
  else
    let x := cmpKey f a
    let y := cmpKey f b
    match cc with
    | .eq => x == y
    | .ne => x != y
    | .lt => decide (x < y)
    | .ge => decide (y ≤ x)
    | .gt => decide (y < x)
    | .le => decide (x ≤ y)
    | _ => false

/-- A comparison of two elements. -/
def elemCond (cc : Cond) (dt : DType) (a b : Nat) : Bool :=
  match elemFmt dt with
  | some f => floatCond cc f a b
  | none => condHolds cc (signLow (BitVec.ofNat 64 a) 32) (signLow (BitVec.ofNat 64 b) 32)

/-- The element that lane i compares or converts. -/
def laneElem (w : Nat) (hi : Bool) (v : VReg) (i : Nat) : Nat :=
  if w = 32 then packed v.toNat 32 i else packed v.toNat 16 (2 * i + hi.toNat)

/-- A word of 64 bits from a function of the bit number. -/
def ofBits (f : Nat → Bool) : Word := BitVec.ofNat 64 ((List.range 64).foldl (fun n i => n + (f i).toNat * 2 ^ i) 0)

/-- VCMP (R342). -/
def execVcmp (m : Mark) (cc : Cond) (hi : Bool) (dt : DType) (pd : P3) (va vb : V5) (g : Guard) (s : State) :
    Host.Outcome State Fault Refusal :=
  issue (.vcmp m cc hi dt pd va vb g) m 1 (vectorGuard g)
    (fun c r s => do
      vecUse [dt] [.v va, .v vb] .none c r s
      let act := guardLanes c r s g
      let (s, a) := readV c r s va
      let (s, b) := readV c r s vb
      let w := elemBits dt
      let t := ofBits fun i => elemCond cc dt (laneElem w hi a i) (laneElem w hi b i)
      done (writeP c r s pd ((readP c r s pd &&& ~~~act) ||| (t &&& act)))) s

/-- Lanes of 32 bits as functions of the operands' lanes; no flags. -/
def laneMap (vd : V5) (src : List V5) (g : Guard) (f : Nat → List (BitVec 32) → BitVec 32) : Body := fun c r s => do
  checkUse c r s (src.map .v) (.v vd)
  let act := guardLanes c r s g
  let (s, vs) := readVs c r s src
  done (writeV c r s vd act (ofLanes fun i => f i (vs.map fun x => lane x i)))

def lane1 (f : BitVec 32 → BitVec 32) : List (BitVec 32) → BitVec 32
  | [a] => f a
  | _ => 0

def lane2 (f : BitVec 32 → BitVec 32 → BitVec 32) : List (BitVec 32) → BitVec 32
  | [a, b] => f a b
  | _ => 0

/-- VSEL (R343). -/
def execVsel (m : Mark) (vd va vb : V5) (p : P3) (g : Guard) (s : State) : Host.Outcome State Fault Refusal :=
  issue (.vsel m vd va vb p g) m 1 (vectorGuard g)
    (fun c r s =>
      let sel := readP c r s p
      laneMap vd [va, vb] g (fun i => lane2 fun a b => if bit sel i then a else b) c r s) s

/-- VAND (R343). -/
def execVand (m : Mark) (vd va vb : V5) (g : Guard) (s : State) :
    Host.Outcome State Fault Refusal :=
  issue (.vand m vd va vb g) m 1 (vectorGuard g)
    (laneMap vd [va, vb] g fun _ => lane2 fun a b => a &&& b) s

/-- VOR (R343). -/
def execVor (m : Mark) (vd va vb : V5) (g : Guard) (s : State) :
    Host.Outcome State Fault Refusal :=
  issue (.vor m vd va vb g) m 1 (vectorGuard g)
    (laneMap vd [va, vb] g fun _ => lane2 fun a b => a ||| b) s

/-- VXOR (R343). -/
def execVxor (m : Mark) (vd va vb : V5) (g : Guard) (s : State) :
    Host.Outcome State Fault Refusal :=
  issue (.vxor m vd va vb g) m 1 (vectorGuard g)
    (laneMap vd [va, vb] g fun _ => lane2 fun a b => a ^^^ b) s

/-- VMOV (R343). -/
def execVmov (m : Mark) (vd va : V5) (g : Guard) (s : State) :
    Host.Outcome State Fault Refusal :=
  issue (.vmov m vd va g) m 1 (vectorGuard g)
    (laneMap vd [va] g fun _ => lane1 id) s

/-- The shift count of R344. -/
def laneCount (b : BitVec 32) : Nat := b.toNat % 64

/-- VSHL (R344): 32 or more shifts every bit out. -/
def execVshl (m : Mark) (vd va vb : V5) (g : Guard) (s : State) :
    Host.Outcome State Fault Refusal :=
  issue (.vshl m vd va vb g) m 1 (vectorGuard g)
    (laneMap vd [va, vb] g fun _ => lane2 fun a b => a <<< (laneCount b)) s

/-- VSHR (R344): 32 or more shifts every bit out. -/
def execVshr (m : Mark) (vd va vb : V5) (g : Guard) (s : State) :
    Host.Outcome State Fault Refusal :=
  issue (.vshr m vd va vb g) m 1 (vectorGuard g)
    (laneMap vd [va, vb] g fun _ => lane2 fun a b => a >>> (laneCount b)) s

/-- VSAR (R344): 32 or more shifts every bit out. -/
def execVsar (m : Mark) (vd va vb : V5) (g : Guard) (s : State) :
    Host.Outcome State Fault Refusal :=
  issue (.vsar m vd va vb g) m 1 (vectorGuard g)
    (laneMap vd [va, vb] g fun _ => lane2 fun a b => a.sshiftRight (laneCount b)) s

/-- VSHL_IMMEDIATE (R344). -/
def execVshlImmediate (m : Mark) (vd va : V5) (n : BitVec 6) (g : Guard) (s : State) :
    Host.Outcome State Fault Refusal :=
  issue (.vshlImmediate m vd va n g) m 1 (vectorGuard g)
    (laneMap vd [va] g fun _ => lane1 fun a => a <<< n.toNat) s

/-- VSHR_IMMEDIATE (R344). -/
def execVshrImmediate (m : Mark) (vd va : V5) (n : BitVec 6) (g : Guard) (s : State) :
    Host.Outcome State Fault Refusal :=
  issue (.vshrImmediate m vd va n g) m 1 (vectorGuard g)
    (laneMap vd [va] g fun _ => lane1 fun a => a >>> n.toNat) s

/-- VSAR_IMMEDIATE (R344). -/
def execVsarImmediate (m : Mark) (vd va : V5) (n : BitVec 6) (g : Guard) (s : State) :
    Host.Outcome State Fault Refusal :=
  issue (.vsarImmediate m vd va n g) m 1 (vectorGuard g)
    (laneMap vd [va] g fun _ => lane1 fun a => a.sshiftRight n.toNat) s

/-! ## Conversions (R345 to R349) -/

/-- The value of a float or INT32 code. -/
def wideVal (t : DType) (x : Nat) : Val :=
  match elemFmt t with
  | some f => f.val x
  | none => intVal (signedOf (elemBits t) x)

/-- The code of a two's-complement integer. -/
def intCode (w : Nat) (v : Int) : Nat := (v % (2 ^ w : Nat)).toNat

/-- Convert a value to a float format or an integer type (R318 to R321). -/
def convert (t : DType) (rm : RM) (sat : Bool) (u : Nat) (v : Val) : Nat × BitVec 5 :=
  match elemFmt t with
  | some f => roundTo f rm sat u v
  | none =>
    let top : Int := if t = .i32 then 2147483647 else if t = .i8 then 127 else 7
    let low : Int := if t = .i32 then -2147483648 else if t = .i8 then -128 else -7
    let (x, fl) := roundInt low top rm u v
    (intCode (elemBits t) x, fl)

/-- VCVT (R345). -/
def execVcvt (m : Mark) (hi : Bool) (dt dt2 : DType) (rm : RM) (sat : Bool) (vd va : V5) (g : Guard) (s : State) :
    Host.Outcome State Fault Refusal :=
  issue (.vcvt m hi dt dt2 rm sat vd va g) m 1 (vectorGuard g)
    (fun c r s => do
      vecUse [dt, dt2] [.v va] (.v vd) c r s
      let (s, draw) ← drawOf c r s rm
      let act := guardLanes c r s g
      let old := tabD (getRole s c r).v vd.toNat 0
      let (s, a) := readV c r s va
      let cvt (j x : Nat) : Nat × BitVec 5 := convert dt rm sat (draw j) (wideVal dt2 x)
      let w := elemBits dt
      let (v, fl) :=
        if w = 16 ∧ elemBits dt2 = 16 then elems 16 act fun i => cvt i (packed a.toNat 16 i)
        else if w = 32 then elems 32 act fun i => cvt i (laneElem (elemBits dt2) hi a i)
        else elems 16 act fun j => if j % 2 = hi.toNat then cvt j (packed a.toNat 32 (j / 2)) else (packed old.toNat 16 j, 0)
      done (orFlags (writeV c r s vd act v) c r fl)) s

/-- Elements of a stretch (R346). -/
def stretchLen (wide : DType) : Nat := if elemBits wide = 32 then 64 else 128

/-- A magnitude as m × 2^e; none for NaN and infinity. -/
def magOf : Val → Option (Nat × Int)
  | .fin _ m e _ => some (m, e)
  | _ => none

/-- a ≤ b for magnitudes. -/
def magLe (a b : Nat × Int) : Bool :=
  let q := min a.2 b.2
  decide (a.1 <<< (a.2 - q).toNat ≤ b.1 <<< (b.2 - q).toNat)

/-- The greatest of a list of magnitudes. -/
def magMax (l : List (Nat × Int)) : Nat × Int := l.foldl (fun a b => if magLe a b then b else a) (0, 0)

/-- Index of the greatest magnitude, the lowest on ties. -/
def argMax (l : List (Nat × Int)) : Nat :=
  (l.zipIdx.foldl (fun (b : Nat × (Nat × Int)) p => if magLe p.1 b.2 then b else (p.2, p.1)) (0, l.headD (0, 0))).1

/-- The smallest e with a ≤ M × 2^e. -/
def leastExp (a : Nat × Int) (top : Nat) : Int :=
  let e := a.2 + (bitLen a.1 : Int) - (bitLen top : Int)
  if magLe a (top, e - 1) then e - 1 else if magLe a (top, e) then e else e + 1

/-- Largest magnitude of a scaled format's elements (R347). -/
def scaleTop : DType → Nat
  | .mxe4m3 => 448
  | .mxe5m2 => 57344
  | .mxf4 => 6
  | _ => 7

/-- ScaleCode (R347). -/
def scaleCode (t : DType) (xs : List Val) : Nat × BitVec 5 :=
  if xs.any fun x => isNan x || isInf x then (0xFF, fINV)
  else
    let l := xs.filterMap magOf
    let k := argMax l
    let l := if t = .k4 ∧ k % 2 = 0 then l.eraseIdx k else l
    let a := magMax l
    if a.1 = 0 then (127, 0) else ((max 0 (min 254 (127 + leastExp a (scaleTop t)))).toNat, 0)

/-- VSCL (R347): the scale bytes of the stretch's blocks. -/
def execVscl (m : Mark) (dt dt2 : DType) (vd va : V5) (q : BitVec 3) (g : Guard) (s : State) :
    Host.Outcome State Fault Refusal :=
  issue (.vscl m dt dt2 vd va q g) m 1 (vectorGuard g)
    (fun c r s => do
      vecUse [dt, dt2] [.v va] (.v vd) c r s
      let act := guardLanes c r s g
      let old := tabD (getRole s c r).v vd.toNat 0
      let (s, a) := readV c r s va
      let n := stretchLen dt2
      let b0 := n * q.toNat / 32
      let (v, fl) := elems 8 act fun b =>
        if b0 ≤ b ∧ b < b0 + n / 32 then
          scaleCode dt ((List.range 32).map fun i => wideVal dt2 (packed a.toNat (elemBits dt2) (32 * (b - b0) + i)))
        else (packed old.toNat 8 b, 0)
      done (orFlags (writeV c r s vd act v) c r fl)) s

/-- The z of R348: the power 2^(3+z) nearest a magnitude up to 1024, the larger on a tie, from z = n down. -/
def nearZ (a : Nat × Int) : (n : Nat) → Nat
  | 0 => 0
  | n + 1 => if magLe (3 * 2 ^ (2 + n), 0) a then n + 1 else nearZ a n

/-- A magnitude rounds to at most 7 (R348). Under .sr, which draws nothing here, a magnitude between 7 and 8 is a free
choice (log 29). -/
def fitsS4 (rm : RM) (v : Val) : Bool :=
  match v with
  | .fin neg m e more =>
    if rm = .sr then magLe (m, e) (7, 0) || (!magLe (8, 0) (m, e) && !Config.k4Escape m e)
    else decide ((roundUnits rm 0 neg m e more 0).1 ≤ 7)
  | _ => false

/-- A pair packed to K4 (R348): even code, odd code, flags. `u`, `w`: the draws of the two elements. -/
def packK4 (rm : RM) (u w : Nat) (e o : Val) : Nat × Nat × BitVec 5 :=
  let s4 (d : Nat) (v : Val) : Nat × BitVec 5 := convert .s4 rm false d v
  if isNan e then
    let (oc, f) := s4 w o
    (0, oc, fINV ||| f)
  else if fitsS4 rm e then
    let (ec, f) := s4 u e
    let (oc, f') := s4 w o
    (ec, oc, f ||| f')
  else
    let lost : BitVec 5 := if isZero o then 0 else fNX
    let sg := (valSign e).toNat * 8
    match magOf e with
    | some a =>
      if magLe a (1024, 0) then
        let z := nearZ a 7
        let ex : Bool := magLe a (2 ^ (3 + z), 0) && magLe (2 ^ (3 + z), 0) a
        (8, sg + z, lost ||| if ex then 0 else fNX)
      else (8, sg + 7, lost ||| fINV)
    | none => (8, sg + 7, lost ||| fINV)

/-- VPACK (R348). -/
def execVpack (m : Mark) (dt dt2 : DType) (rm : RM) (sat : Bool) (vd va vb : V5) (q : BitVec 3) (g : Guard)
    (s : State) : Host.Outcome State Fault Refusal :=
  issue (.vpack m dt dt2 rm sat vd va vb q g) m 1 (vectorGuard g)
    (fun c r s => do
      let src := if isScaled dt then [va, vb] else [va]
      vecUse [dt, dt2] (src.map .v) (.v vd) c r s
      let (s, draw) ← drawOf c r s rm
      let act := guardLanes c r s g
      let old := tabD (getRole s c r).v vd.toNat 0
      let (s, vs) := readVs c r s src
      let a := (vs.getD 0 0).toNat
      let sc := (vs.getD 1 0).toNat
      let n := stretchLen dt2
      let j0 := n * q.toNat
      let w := elemBits dt
      let val (j : Nat) : Val :=
        let x := wideVal dt2 (packed a (elemBits dt2) (j - j0))
        if isScaled dt then
          let k := packed sc 8 (j / 32)
          if k = 0xFF then .nan else scaleVal (127 - (k : Int)) x
        else x
      let (v, fl) := elems w act fun j =>
        if j0 ≤ j ∧ j < j0 + n then
          if dt = .k4 then
            let p := j / 2 * 2
            let (ec, oc, f) := packK4 rm (draw p) (draw (p + 1)) (val p) (val (p + 1))
            (if j = p then ec else oc, f)
          else convert dt rm sat (draw j) (val j)
        else (packed old.toNat w j, 0)
      done (orFlags (writeV c r s vd act v) c r fl)) s

/-- VUNPK (R349). -/
def execVunpk (m : Mark) (dt dt2 : DType) (rm : RM) (sat : Bool) (vd va vb : V5) (q : BitVec 3) (g : Guard)
    (s : State) : Host.Outcome State Fault Refusal :=
  issue (.vunpk m dt dt2 rm sat vd va vb q g) m 1 (vectorGuard g)
    (fun c r s => do
      let src := if isScaled dt2 then [va, vb] else [va]
      vecUse [dt, dt2] (src.map .v) (.v vd) c r s
      let (s, draw) ← drawOf c r s rm
      let act := guardLanes c r s g
      let (s, vs) := readVs c r s src
      let a := (vs.getD 0 0).toNat
      let sc := (vs.getD 1 0).toNat
      let j0 := stretchLen dt * q.toNat
      let (v, fl) := elems (elemBits dt) act fun k =>
        let (x, rsv) := scaledElem dt2 a sc (j0 + k)
        let (y, f) := convert dt rm sat (draw k) x
        (y, f ||| if rsv then fRSV else 0)
      done (orFlags (writeV c r s vd act v) c r fl)) s

/-! ## Reductions (R350, R351) -/

/-- One level of the tree. -/
def pairUp (f : Nat → Nat → Nat × BitVec 5) : List Nat → List Nat × BitVec 5
  | a :: b :: r =>
    let (x, fl) := f a b
    let (l, fl') := pairUp f r
    (x :: l, fl ||| fl')
  | l => (l, 0)

/-- The tree over 2^n values. -/
def tree (f : Nat → Nat → Nat × BitVec 5) : (n : Nat) → List Nat → Nat × BitVec 5
  | 0, l => (l.headD 0, 0)
  | n + 1, l =>
    let (l, fl) := pairUp f l
    let (x, fl') := tree f n l
    (x, fl ||| fl')

/-- The operation of vred on two codes. -/
def redOp (op : RedOp) (dt : DType) (rm : RM) (sat : Bool) (a b : Nat) : Nat × BitVec 5 :=
  match op with
  | .add => arithOp dt rm sat (val2 (addVal (rm == .rdn))) (int2 (· + ·)) 0 [a, b]
  | .min => orderOp dt false (pick2 true) (int2 min) 0 [a, b]
  | .max => orderOp dt false (pick2 false) (int2 max) 0 [a, b]

/-- VRED (R350): a fixed tree over every element, guarded or not. -/
def execVred (m : Mark) (op : RedOp) (dt dt2 : DType) (rm : RM) (sat : Bool) (vd va : V5) (g : Guard) (s : State) :
    Host.Outcome State Fault Refusal :=
  issue (.vred m op dt dt2 rm sat vd va g) m 1 (vectorGuard g)
    (fun c r s => do
      vecUse [dt, dt2] [.v va] (.v vd) c r s
      let act := guardLanes c r s g
      let (s, a) := readV c r s va
      let w := elemBits dt2
      let n := if w = 32 then 6 else 7
      let t := (List.range (2 ^ n)).map fun k =>
        if dt = dt2 then packed a.toNat w k else (convert dt .rne false 0 (wideVal dt2 (packed a.toNat w k))).1
      let (x, fl) := tree (redOp op dt rm sat) n t
      done (orFlags (writeV c r s vd act (BitVec.ofNat 2048 x)) c r fl)) s

/-- Element pairs of bytes 16k to 16k + 15 of two registers, and whether a reserved code was read. -/
def dotPairs (t : DType) (a b : VReg) (k : Nat) : List (Val × Val) × Bool :=
  let n := 128 / elemBits t
  let one (v : VReg) (i : Nat) : Val × Bool := elemVal t v.toNat (n * k + i)
  ((List.range n).map fun i => ((one a i).1, (one b i).1),
    (List.range n).any fun i => (one a i).2 || (one b i).2)

/-- One lane of vdot (R330 to R332). -/
def dotLane (t : DType) (a b : VReg) (acc k : Nat) : Nat × BitVec 5 :=
  if t = .i8 then
    let l := (List.range 16).map fun i =>
      (signedOf 8 (packed a.toNat 8 (16 * k + i)), signedOf 8 (packed b.toNat 8 (16 * k + i)))
    let (x, cl) := intRow l acc
    (x, if cl then fOVF else 0)
  else
    let (ab, rsv) := dotPairs t a b k
    let (x, f) := dotRow t t (groupSize t) ab acc
    (x, f ||| if rsv then fRSV else 0)

/-- VDOT (R330, R351). -/
def execVdot (m : Mark) (dt dt2 : DType) (vd va vb vc : V5) (g : Guard) (s : State) :
    Host.Outcome State Fault Refusal :=
  issue (.vdot m dt dt2 vd va vb vc g) m 1 (vectorGuard g)
    (fun c r s => do
      vecUse [dt, dt2] [.v va, .v vb, .v vc] (.v vd) c r s
      let act := guardLanes c r s g
      let (s, a) := readV c r s va
      let (s, b) := readV c r s vb
      let (s, x) := readV c r s vc
      let (v, fl) := elems 32 act fun k => if k < 16 then dotLane dt2 a b (packed x.toNat 32 k) k else (0, 0)
      done (orFlags (writeV c r s vd act v) c r fl)) s

/-! ## Lane movement (R352 to R354) -/

/-- Every element of the active lanes from a function of its number; no flags. -/
def moveElems (dt : DType) (act : BitVec 64) (f : Nat → Nat) : VReg := (elems (elemBits dt) act fun i => (f i, 0)).1

/-- VBC (R352). -/
def execVbc (m : Mark) (dt : DType) (vd : V5) (ga : G6) (g : Guard) (s : State) : Host.Outcome State Fault Refusal :=
  issue (.vbc m dt vd ga g) m 1 (vectorGuard g)
    (fun c r s => do
      vecUse [dt] [.g ga] (.v vd) c r s
      let act := guardLanes c r s g
      let (s, a) := readG c r s ga
      done (writeV c r s vd act (moveElems dt act fun _ => a.val.toNat))) s

/-- VBC_ELEMENT (R352). -/
def execVbcElement (m : Mark) (dt : DType) (vd va : V5) (idx : BitVec 16) (g : Guard) (s : State) :
    Host.Outcome State Fault Refusal :=
  issue (.vbcElement m dt vd va idx g) m 1 (vectorGuard g)
    (fun c r s => do
      vecUse [dt] [.v va] (.v vd) c r s
      let act := guardLanes c r s g
      let (s, a) := readV c r s va
      let x := packed a.toNat (elemBits dt) idx.toNat
      done (writeV c r s vd act (moveElems dt act fun _ => x))) s

/-- VEXT (R352): guarded as a scalar word. -/
def execVext (m : Mark) (sx : Bool) (dt : DType) (rd : G6) (va : V5) (idx : BitVec 16) (g : Guard) (s : State) :
    Host.Outcome State Fault Refusal :=
  issue (.vext m sx dt rd va idx g) m 1 (scalarGuard g)
    (fun c r s => do
      vecUse [dt] [.v va] (.g rd) c r s
      let (s, a) := readV c r s va
      let w := elemBits dt
      let x : Word := BitVec.ofNat 64 (packed a.toNat w idx.toNat)
      done (writeG c r s rd ⟨if sx then signLow x w else x, false⟩)) s

/-- VINS (R352): the element's lane must be active. -/
def execVins (m : Mark) (dt : DType) (vd : V5) (ga : G6) (idx : BitVec 16) (g : Guard) (s : State) :
    Host.Outcome State Fault Refusal :=
  issue (.vins m dt vd ga idx g) m 1 (vectorGuard g)
    (fun c r s => do
      vecUse [dt] [.g ga] (.v vd) c r s
      let act := guardLanes c r s g
      let old := tabD (getRole s c r).v vd.toNat 0
      let (s, a) := readG c r s ga
      let w := elemBits dt
      let l := w * idx.toNat / 32
      if bit act l then
        let one : BitVec 64 := BitVec.ofNat 64 (2 ^ l)
        let v := moveElems dt one fun i => if i = idx.toNat then a.val.toNat else packed old.toNat w i
        done (writeV c r s vd one v)
      else done s) s

/-- The slide distance (R353). -/
def slideBy (a : Word) (n : BitVec 16) : Nat := (a + n.zeroExtend 64).toNat

/-- vslide: lane i from lane `src i` of va, or 0. -/
def slideBody (vd va : V5) (ga : G6) (n : BitVec 16) (g : Guard) (src : Nat → Nat → Option Nat) : Body :=
  fun c r s => do
    checkUse c r s [.v va, .g ga] (.v vd)
    let act := guardLanes c r s g
    let (s, a) := readV c r s va
    let (s, x) := readG c r s ga
    let d := slideBy x.val n
    done (writeV c r s vd act (ofLanes fun i => match src d i with
      | some j => lane a j
      | none => 0))

/-- VSLIDE_DN (R353). -/
def execVslideDn (m : Mark) (vd va : V5) (ga : G6) (n : BitVec 16) (g : Guard) (s : State) :
    Host.Outcome State Fault Refusal :=
  issue (.vslideDn m vd va ga n g) m 1 (vectorGuard g)
    (slideBody vd va ga n g fun d i => if i + d < 64 then some (i + d) else none) s

/-- VSLIDE_UP (R353). -/
def execVslideUp (m : Mark) (vd va : V5) (ga : G6) (n : BitVec 16) (g : Guard) (s : State) :
    Host.Outcome State Fault Refusal :=
  issue (.vslideUp m vd va ga n g) m 1 (vectorGuard g)
    (slideBody vd va ga n g fun d i => if d ≤ i then some (i - d) else none) s

/-- Active lanes below lane i. -/
def lanesBelow (act : BitVec 64) (i : Nat) : Nat := ((List.range i).filter fun j => bit act j).length

/-- viota: lane i is ga + step × count i. -/
def iotaBody (vd : V5) (ga : G6) (stp : BitVec 16) (g : Guard) (pc : Bool) : Body := fun c r s => do
  checkUse c r s [.g ga] (.v vd)
  let act := guardLanes c r s g
  let (s, a) := readG c r s ga
  let at_ (i : Nat) : BitVec 32 :=
    a.val.setWidth 32 + stp.signExtend 32 * BitVec.ofNat 32 (if pc then lanesBelow act i else i)
  done (writeV c r s vd act (ofLanes at_))

/-- VIOTA (R353). -/
def execViota (m : Mark) (vd : V5) (ga : G6) (stp : BitVec 16) (g : Guard) (s : State) :
    Host.Outcome State Fault Refusal :=
  issue (.viota m vd ga stp g) m 1 (vectorGuard g) (iotaBody vd ga stp g false) s

/-- VIOTA_PC (R353). -/
def execViotaPc (m : Mark) (vd : V5) (ga : G6) (stp : BitVec 16) (g : Guard) (s : State) :
    Host.Outcome State Fault Refusal :=
  issue (.viotaPc m vd ga stp g) m 1 (vectorGuard g) (iotaBody vd ga stp g true) s

/-- VPERM (R354). -/
def execVperm (m : Mark) (vd va vb vc : V5) (g : Guard) (s : State) : Host.Outcome State Fault Refusal :=
  issue (.vperm m vd va vb vc g) m 1 (vectorGuard g)
    (fun c r s => do
      checkUse c r s [.v va, .v vb, .v vc] (.v vd)
      let act := guardLanes c r s g
      let (s, a) := readV c r s va
      let (s, b) := readV c r s vb
      let (s, x) := readV c r s vc
      let pick_ (i : Nat) : BitVec 32 :=
        let j := (lane x i).toNat % 128
        if j < 64 then lane a j else lane b (j - 64)
      done (writeV c r s vd act (ofLanes pick_))) s

/-- vzip and vuzp: element k of vd from element `src k` of the elements of va followed by those of vb. -/
def zipBody (dt : DType) (vd va vb : V5) (g : Guard) (src : Nat → Nat) : Body := fun c r s => do
  vecUse [dt] [.v va, .v vb] (.v vd) c r s
  let act := guardLanes c r s g
  let (s, a) := readV c r s va
  let (s, b) := readV c r s vb
  let w := elemBits dt
  let n := 2048 / w
  let at_ (j : Nat) : Nat := if j < n then packed a.toNat w j else packed b.toNat w (j - n)
  done (writeV c r s vd act (moveElems dt act fun k => at_ (src k)))

/-- VZIP (R354). -/
def execVzip (m : Mark) (hi : Bool) (dt : DType) (vd va vb : V5) (g : Guard) (s : State) :
    Host.Outcome State Fault Refusal :=
  issue (.vzip m hi dt vd va vb g) m 1 (vectorGuard g)
    (zipBody dt vd va vb g fun k =>
      let n := 2048 / elemBits dt
      k % 2 * n + k / 2 + if hi then n / 2 else 0) s

/-- VUZP (R354). -/
def execVuzp (m : Mark) (hi : Bool) (dt : DType) (vd va vb : V5) (g : Guard) (s : State) :
    Host.Outcome State Fault Refusal :=
  issue (.vuzp m hi dt vd va vb g) m 1 (vectorGuard g) (zipBody dt vd va vb g fun k => 2 * k + hi.toNat) s

/-- VRAND (R355). -/
def execVrand (m : Mark) (vd : V5) (ga : G6) (stream : BitVec 6) (g : Guard) (s : State) :
    Host.Outcome State Fault Refusal :=
  issue (.vrand m vd ga stream g) m 1 (vectorGuard g)
    (fun c r s => do
      checkUse c r s [.g ga] (.v vd)
      let (t, ctr, key) ← streamRead c r s stream.toNat
      let act := guardLanes c r s g
      let (t, i) := readG c r t ga
      done (writeV c r t vd act (ofLanes fun k => drawAt ctr key i.val.toNat k))) s

end Sys2Proof.Machine
end

