-- ==== Sys2Proof/Machine/Dispatch.lean ====
section
/-! DEFINITION. Sys2Proof/Machine/Dispatch.lean: one arm per constructor of Instr. -/

namespace Sys2Proof.Machine

/-- The effect of an instruction, command or event. -/
def exec (i : Instr) (s : State) : Host.Outcome State Fault Refusal :=
  match i with
  | .nop m g => Sys2Proof.Machine.execNop m g s
  | .add m rd ra rb g => Sys2Proof.Machine.execAdd m rd ra rb g s
  | .sub m rd ra rb g => Sys2Proof.Machine.execSub m rd ra rb g s
  | .mul m rd ra rb g => Sys2Proof.Machine.execMul m rd ra rb g s
  | .mulh m rd ra rb g => Sys2Proof.Machine.execMulh m rd ra rb g s
  | .mulhu m rd ra rb g => Sys2Proof.Machine.execMulhu m rd ra rb g s
  | .div m rd ra rb g => Sys2Proof.Machine.execDiv m rd ra rb g s
  | .divu m rd ra rb g => Sys2Proof.Machine.execDivu m rd ra rb g s
  | .rem m rd ra rb g => Sys2Proof.Machine.execRem m rd ra rb g s
  | .remu m rd ra rb g => Sys2Proof.Machine.execRemu m rd ra rb g s
  | .and m rd ra rb g => Sys2Proof.Machine.execAnd m rd ra rb g s
  | .or m rd ra rb g => Sys2Proof.Machine.execOr m rd ra rb g s
  | .xor m rd ra rb g => Sys2Proof.Machine.execXor m rd ra rb g s
  | .andn m rd ra rb g => Sys2Proof.Machine.execAndn m rd ra rb g s
  | .shl m rd ra rb g => Sys2Proof.Machine.execShl m rd ra rb g s
  | .shr m rd ra rb g => Sys2Proof.Machine.execShr m rd ra rb g s
  | .sar m rd ra rb g => Sys2Proof.Machine.execSar m rd ra rb g s
  | .rotr m rd ra rb g => Sys2Proof.Machine.execRotr m rd ra rb g s
  | .min m rd ra rb g => Sys2Proof.Machine.execMin m rd ra rb g s
  | .max m rd ra rb g => Sys2Proof.Machine.execMax m rd ra rb g s
  | .minu m rd ra rb g => Sys2Proof.Machine.execMinu m rd ra rb g s
  | .maxu m rd ra rb g => Sys2Proof.Machine.execMaxu m rd ra rb g s
  | .clz m rd ra g => Sys2Proof.Machine.execClz m rd ra g s
  | .ctz m rd ra g => Sys2Proof.Machine.execCtz m rd ra g s
  | .popc m rd ra g => Sys2Proof.Machine.execPopc m rd ra g s
  | .sext m rd ra w g => Sys2Proof.Machine.execSext m rd ra w g s
  | .zext m rd ra w g => Sys2Proof.Machine.execZext m rd ra w g s
  | .bfx m rd ra pos len g => Sys2Proof.Machine.execBfx m rd ra pos len g s
  | .bfi m rd ra rb pos len g => Sys2Proof.Machine.execBfi m rd ra rb pos len g s
  | .sel m rd ra rb p g => Sys2Proof.Machine.execSel m rd ra rb p g s
  | .li m rd imm g => Sys2Proof.Machine.execLi m rd imm g s
  | .lih m rd ra imm g => Sys2Proof.Machine.execLih m rd ra imm g s
  | .mov m rd ra g => Sys2Proof.Machine.execMov m rd ra g s
  | .lea m rd ea g => Sys2Proof.Machine.execLea m rd ea g s
  | .addi m rd ra imm g => Sys2Proof.Machine.execAddi m rd ra imm g s
  | .andi m rd ra imm g => Sys2Proof.Machine.execAndi m rd ra imm g s
  | .ori m rd ra imm g => Sys2Proof.Machine.execOri m rd ra imm g s
  | .xori m rd ra imm g => Sys2Proof.Machine.execXori m rd ra imm g s
  | .shli m rd ra sh g => Sys2Proof.Machine.execShli m rd ra sh g s
  | .shri m rd ra sh g => Sys2Proof.Machine.execShri m rd ra sh g s
  | .sari m rd ra sh g => Sys2Proof.Machine.execSari m rd ra sh g s
  | .cmp m c pd ra rb g => Sys2Proof.Machine.execCmp m c pd ra rb g s
  | .cset m c rd ra rb g => Sys2Proof.Machine.execCset m c rd ra rb g s
  | .pand m pd pa pb g => Sys2Proof.Machine.execPand m pd pa pb g s
  | .por m pd pa pb g => Sys2Proof.Machine.execPor m pd pa pb g s
  | .pxor m pd pa pb g => Sys2Proof.Machine.execPxor m pd pa pb g s
  | .pnot m pd pa g => Sys2Proof.Machine.execPnot m pd pa g s
  | .pmov m pd pa g => Sys2Proof.Machine.execPmov m pd pa g s
  | .pmovFromGeneral m pd ra g => Sys2Proof.Machine.execPmovFromGeneral m pd ra g s
  | .pmovToGeneral m rd pa g => Sys2Proof.Machine.execPmovToGeneral m rd pa g s
  | .bra m disp => Sys2Proof.Machine.execBra m disp s
  | .br m ra => Sys2Proof.Machine.execBr m ra s
  | .brc m c ra rb disp => Sys2Proof.Machine.execBrc m c ra rb disp s
  | .brq m ne q disp => Sys2Proof.Machine.execBrq m ne q disp s
  | .call m rd disp => Sys2Proof.Machine.execCall m rd disp s
  | .ret m ra => Sys2Proof.Machine.execRet m ra s
  | .jmp m rd ra => Sys2Proof.Machine.execJmp m rd ra s
  | .loop m lc disp => Sys2Proof.Machine.execLoop m lc disp s
  | .lrec m lc ra imm => Sys2Proof.Machine.execLrec m lc ra imm s
  | .fin m => Sys2Proof.Machine.execFin m s
  | .safe m gmask vmask => Sys2Proof.Machine.execSafe m gmask vmask s
  | .wait m ra imm => Sys2Proof.Machine.execWait m ra imm s
  | .waitExpiry c r => Sys2Proof.Machine.execWaitExpiry c r s
  | .qcfg m q prod cons => Sys2Proof.Machine.execQcfg m q prod cons s
  | .tokPush m n => Sys2Proof.Machine.execTokPush m n s
  | .tokPop m n => Sys2Proof.Machine.execTokPop m n s
  | .tokQ m rd => Sys2Proof.Machine.execTokQ m rd s
  | .cbinit m h ra rb => Sys2Proof.Machine.execCbinit m h ra rb s
  | .cbwait m h rd ra imm => Sys2Proof.Machine.execCbwait m h rd ra imm s
  | .cbres m h rd ra imm => Sys2Proof.Machine.execCbres m h rd ra imm s
  | .cbpush m h ra imm => Sys2Proof.Machine.execCbpush m h ra imm s
  | .cbpop m h ra imm => Sys2Proof.Machine.execCbpop m h ra imm s
  | .semwDec m sem rd ra imm => Sys2Proof.Machine.execSemwDec m sem rd ra imm s
  | .semwGe m sem rd ra imm => Sys2Proof.Machine.execSemwGe m sem rd ra imm s
  | .semwEq m sem rd ra imm => Sys2Proof.Machine.execSemwEq m sem rd ra imm s
  | .semsAdd m sem rd ra imm => Sys2Proof.Machine.execSemsAdd m sem rd ra imm s
  | .semsSub m sem rd ra imm => Sys2Proof.Machine.execSemsSub m sem rd ra imm s
  | .semset m sem rd ra imm => Sys2Proof.Machine.execSemset m sem rd ra imm s
  | .bari m ra rb imm => Sys2Proof.Machine.execBari m ra rb imm s
  | .bara m rd ra => Sys2Proof.Machine.execBara m rd ra s
  | .barx m ra rb imm => Sys2Proof.Machine.execBarx m ra rb imm s
  | .barw m ra rb imm => Sys2Proof.Machine.execBarw m ra rb imm s
  | .pushM m cnt ra rb rc rd => Sys2Proof.Machine.execPushM m cnt ra rb rc rd s
  | .pushC m cnt ra rb rc rd => Sys2Proof.Machine.execPushC m cnt ra rb rc rd s
  | .spawn m rd ra rb => Sys2Proof.Machine.execSpawn m rd ra rb s
  | .spawnW m rd ra rb => Sys2Proof.Machine.execSpawnW m rd ra rb s
  | .tsig m ra => Sys2Proof.Machine.execTsig m ra s
  | .coll m rd ra sem => Sys2Proof.Machine.execColl m rd ra sem s
  | .mfsr m rd n => Sys2Proof.Machine.execMfsr m rd n s
  | .mtsr m n ra => Sys2Proof.Machine.execMtsr m n ra s
  | .trap t imm => Sys2Proof.Machine.execTrap t imm s
  | .brk t imm => Sys2Proof.Machine.execBrk t imm s
  | .eret m => Sys2Proof.Machine.execEret m s
  | .xinvAll m => Sys2Proof.Machine.execXinvAll m s
  | .xinvX m ra => Sys2Proof.Machine.execXinvX m ra s
  | .xinvVa m ra rb => Sys2Proof.Machine.execXinvVa m ra rb s
  | .xinvG m rb => Sys2Proof.Machine.execXinvG m rb s
  | .ptmc m ra rb => Sys2Proof.Machine.execPtmc m ra rb s
  | .ptmcSync m => Sys2Proof.Machine.execPtmcSync m s
  | .cfgd m rd ra => Sys2Proof.Machine.execCfgd m rd ra s
  | .isync m => Sys2Proof.Machine.execIsync m s
  | .halt m => Sys2Proof.Machine.execHalt m s
  | .systemCoreWake d => Sys2Proof.Machine.execSystemCoreWake d s
  | .ld m sz sx rd ea g => Sys2Proof.Machine.execLd m sz sx rd ea g s
  | .st m sz rs ea g => Sys2Proof.Machine.execSt m sz rs ea g s
  | .ldc m sz sx x rd ea g => Sys2Proof.Machine.execLdc m sz sx x rd ea g s
  | .lda m sz sx x rd ea g => Sys2Proof.Machine.execLda m sz sx x rd ea g s
  | .stl m sz x rs ea g => Sys2Proof.Machine.execStl m sz x rs ea g s
  | .loadDataReturn c r id => Sys2Proof.Machine.execLoadDataReturn c r id s
  | .writeAcknowledge c id => Sys2Proof.Machine.execWriteAcknowledge c id s
  | .vld m n vd ea g => Sys2Proof.Machine.execVld m n vd ea g s
  | .vst m n vs ea g => Sys2Proof.Machine.execVst m n vs ea g s
  | .vldx m sz sx vd ea g => Sys2Proof.Machine.execVldx m sz sx vd ea g s
  | .vstx m sz vs ea g => Sys2Proof.Machine.execVstx m sz vs ea g s
  | .pref m dk n ea g => Sys2Proof.Machine.execPref m dk n ea g s
  | .probe m mode rd ra rb g => Sys2Proof.Machine.execProbe m mode rd ra rb g s
  | .unpin m rd ra rb g => Sys2Proof.Machine.execUnpin m rd ra rb g s
  | .phase m x => Sys2Proof.Machine.execPhase m x s
  | .acq m x => Sys2Proof.Machine.execAcq m x s
  | .rel m x => Sys2Proof.Machine.execRel m x s
  | .drain m sys mask => Sys2Proof.Machine.execDrain m sys mask s
  | .drainComplete c r => Sys2Proof.Machine.execDrainComplete c r s
  | .amo m op dbl rd ra rs => Sys2Proof.Machine.execAmo m op dbl rd ra rs s
  | .cas m rd ra re rn => Sys2Proof.Machine.execCas m rd ra re rn s
  | .casc m rd ra re rn cidx => Sys2Proof.Machine.execCasc m rd ra re rn cidx s
  | .vamo m op vd rb vi sc vs g => Sys2Proof.Machine.execVamo m op vd rb vi sc vs g s
  | .atomicReply c r => Sys2Proof.Machine.execAtomicReply c r s
  | .cascRetry c r => Sys2Proof.Machine.execCascRetry c r s
  | .snopen m rd ra rb rc => Sys2Proof.Machine.execSnopen m rd ra rb rc s
  | .snacc m ra => Sys2Proof.Machine.execSnacc m ra s
  | .snrej m ra => Sys2Proof.Machine.execSnrej m ra s
  | .snq m rd ra => Sys2Proof.Machine.execSnq m rd ra s
  | .vote m ra => Sys2Proof.Machine.execVote m ra s
  | .vwait m rd => Sys2Proof.Machine.execVwait m rd s
  | .vflag m loss sw => Sys2Proof.Machine.execVflag m loss sw s
  | .rand m rd ra stream => Sys2Proof.Machine.execRand m rd ra stream s
  | .gen m rd sel => Sys2Proof.Machine.execGen m rd sel s
  | .vadd m dt rm sat vd va vb g => Sys2Proof.Machine.execVadd m dt rm sat vd va vb g s
  | .vsub m dt rm sat vd va vb g => Sys2Proof.Machine.execVsub m dt rm sat vd va vb g s
  | .vmul m dt rm sat vd va vb g => Sys2Proof.Machine.execVmul m dt rm sat vd va vb g s
  | .vfma m dt rm sat vd va vb vc g => Sys2Proof.Machine.execVfma m dt rm sat vd va vb vc g s
  | .vfms m dt rm sat vd va vb vc g => Sys2Proof.Machine.execVfms m dt rm sat vd va vb vc g s
  | .vfnma m dt rm sat vd va vb vc g => Sys2Proof.Machine.execVfnma m dt rm sat vd va vb vc g s
  | .vneg m dt sat vd va g => Sys2Proof.Machine.execVneg m dt sat vd va g s
  | .vabs m dt sat vd va g => Sys2Proof.Machine.execVabs m dt sat vd va g s
  | .vmin m dt vd va vb g => Sys2Proof.Machine.execVmin m dt vd va vb g s
  | .vmax m dt vd va vb g => Sys2Proof.Machine.execVmax m dt vd va vb g s
  | .vrcp m dt rm sat vd va g => Sys2Proof.Machine.execVrcp m dt rm sat vd va g s
  | .vrsq m dt rm sat vd va g => Sys2Proof.Machine.execVrsq m dt rm sat vd va g s
  | .vsqrt m dt rm sat vd va g => Sys2Proof.Machine.execVsqrt m dt rm sat vd va g s
  | .vdiv m dt rm sat vd va vb g => Sys2Proof.Machine.execVdiv m dt rm sat vd va vb g s
  | .vexp2 m dt sat vd va g => Sys2Proof.Machine.execVexp2 m dt sat vd va g s
  | .vlog2 m dt vd va g => Sys2Proof.Machine.execVlog2 m dt vd va g s
  | .vtanh m dt vd va g => Sys2Proof.Machine.execVtanh m dt vd va g s
  | .vclamp m dt vd va vb vc g => Sys2Proof.Machine.execVclamp m dt vd va vb vc g s
  | .vcmp m c hi dt pd va vb g => Sys2Proof.Machine.execVcmp m c hi dt pd va vb g s
  | .vsel m vd va vb p g => Sys2Proof.Machine.execVsel m vd va vb p g s
  | .vand m vd va vb g => Sys2Proof.Machine.execVand m vd va vb g s
  | .vor m vd va vb g => Sys2Proof.Machine.execVor m vd va vb g s
  | .vxor m vd va vb g => Sys2Proof.Machine.execVxor m vd va vb g s
  | .vmov m vd va g => Sys2Proof.Machine.execVmov m vd va g s
  | .vshl m vd va vb g => Sys2Proof.Machine.execVshl m vd va vb g s
  | .vshr m vd va vb g => Sys2Proof.Machine.execVshr m vd va vb g s
  | .vsar m vd va vb g => Sys2Proof.Machine.execVsar m vd va vb g s
  | .vshlImmediate m vd va n g => Sys2Proof.Machine.execVshlImmediate m vd va n g s
  | .vshrImmediate m vd va n g => Sys2Proof.Machine.execVshrImmediate m vd va n g s
  | .vsarImmediate m vd va n g => Sys2Proof.Machine.execVsarImmediate m vd va n g s
  | .vcvt m hi dt dt2 rm sat vd va g => Sys2Proof.Machine.execVcvt m hi dt dt2 rm sat vd va g s
  | .vscl m dt dt2 vd va q g => Sys2Proof.Machine.execVscl m dt dt2 vd va q g s
  | .vpack m dt dt2 rm sat vd va vb q g => Sys2Proof.Machine.execVpack m dt dt2 rm sat vd va vb q g s
  | .vunpk m dt dt2 rm sat vd va vb q g => Sys2Proof.Machine.execVunpk m dt dt2 rm sat vd va vb q g s
  | .vred m op dt dt2 rm sat vd va g => Sys2Proof.Machine.execVred m op dt dt2 rm sat vd va g s
  | .vdot m dt dt2 vd va vb vc g => Sys2Proof.Machine.execVdot m dt dt2 vd va vb vc g s
  | .vbc m dt vd ga g => Sys2Proof.Machine.execVbc m dt vd ga g s
  | .vbcElement m dt vd va idx g => Sys2Proof.Machine.execVbcElement m dt vd va idx g s
  | .vext m sx dt rd va idx g => Sys2Proof.Machine.execVext m sx dt rd va idx g s
  | .vins m dt vd ga idx g => Sys2Proof.Machine.execVins m dt vd ga idx g s
  | .vslideDn m vd va ga n g => Sys2Proof.Machine.execVslideDn m vd va ga n g s
  | .vslideUp m vd va ga n g => Sys2Proof.Machine.execVslideUp m vd va ga n g s
  | .viota m vd ga stp g => Sys2Proof.Machine.execViota m vd ga stp g s
  | .viotaPc m vd ga stp g => Sys2Proof.Machine.execViotaPc m vd ga stp g s
  | .vperm m vd va vb vc g => Sys2Proof.Machine.execVperm m vd va vb vc g s
  | .vzip m hi dt vd va vb g => Sys2Proof.Machine.execVzip m hi dt vd va vb g s
  | .vuzp m hi dt vd va vb g => Sys2Proof.Machine.execVuzp m hi dt vd va vb g s
  | .vrand m vd ga stream g => Sys2Proof.Machine.execVrand m vd ga stream g s
  | .asyncTrapDelivery c r => Sys2Proof.Machine.execAsyncTrapDelivery c r s
  | .overdue c r => Sys2Proof.Machine.execOverdue c r s
  | .deadlock c => Sys2Proof.Machine.execDeadlock c s
  | .faultRecordWrite d => Sys2Proof.Machine.execFaultRecordWrite d s
  | .mnop ws => Sys2Proof.Machine.execMnop ws s
  | .mma ws lp fidx ha hb acc reuse popa popb => Sys2Proof.Machine.execMma ws lp fidx ha hb acc reuse popa popb s
  | .mzr ws acc ty cs => Sys2Proof.Machine.execMzr ws acc ty cs s
  | .mld ws acc ty cs h pop => Sys2Proof.Machine.execMld ws acc ty cs h pop s
  | .mdr ws acc dt rm sat h clr free => Sys2Proof.Machine.execMdr ws acc dt rm sat h clr free s
  | .mcfgRedundant ws red => Sys2Proof.Machine.execMcfgRedundant ws red s
  | .mcfgLoadFormat ws h pop => Sys2Proof.Machine.execMcfgLoadFormat ws h pop s
  | .matrixCommandStart c => Sys2Proof.Machine.execMatrixCommandStart c s
  | .matrixCommandCompletion c => Sys2Proof.Machine.execMatrixCommandCompletion c s
  | .cnop ws => Sys2Proof.Machine.execCnop ws s
  | .cpy ws dims src dst x len shp => Sys2Proof.Machine.execCpy ws dims src dst x len shp s
  | .cpyd ws sa dst x len => Sys2Proof.Machine.execCpyd ws sa dst x len s
  | .gath ws table dst x nm1 esz idx => Sys2Proof.Machine.execGath ws table dst x nm1 esz idx s
  | .scat ws src table x nm1 esz idx => Sys2Proof.Machine.execScat ws src table x nm1 esz idx s
  | .fill ws dst x len pat => Sys2Proof.Machine.execFill ws dst x len pat s
  | .redc ws src da x len op dbl group srcid => Sys2Proof.Machine.execRedc ws src da x len op dbl group srcid s
  | .bartx ws bcore boff bytes => Sys2Proof.Machine.execBartx ws bcore boff bytes s
  | .copyJobAdmission c => Sys2Proof.Machine.execCopyJobAdmission c s
  | .copyJobCompletion c id => Sys2Proof.Machine.execCopyJobCompletion c id s
  | .copyJobStop c id line => Sys2Proof.Machine.execCopyJobStop c id line s
  | .contributionResend c id => Sys2Proof.Machine.execContributionResend c id s
  | .homeSliceRead c r id part err => Sys2Proof.Machine.execHomeSliceRead c r id part err s
  | .homeSliceWrite c id => Sys2Proof.Machine.execHomeSliceWrite c id s
  | .secondTouchFilterClear sl => Sys2Proof.Machine.execSecondTouchFilterClear sl s
  | .sliceAtomic c r => Sys2Proof.Machine.execSliceAtomic c r s
  | .sliceCasc c r => Sys2Proof.Machine.execSliceCasc c r s
  | .reductionContribution x => Sys2Proof.Machine.execReductionContribution x s
  | .continuationAccept sl => Sys2Proof.Machine.execContinuationAccept sl s
  | .admissionHoldExpiry sl => Sys2Proof.Machine.execAdmissionHoldExpiry sl s
  | .deckWalkerEntry d => Sys2Proof.Machine.execDeckWalkerEntry d s
  | .patrolScrub n found lastRow => Sys2Proof.Machine.execPatrolScrub n found lastRow s
  | .repairPass n => Sys2Proof.Machine.execRepairPass n s
  | .abwRetire k => Sys2Proof.Machine.execAbwRetire k s
  | .xidWrite u x => Sys2Proof.Machine.execXidWrite u x s
  | .carveWrite d x => Sys2Proof.Machine.execCarveWrite d x s
  | .carveResizeDone d => Sys2Proof.Machine.execCarveResizeDone d s
  | .mdregRegister n x => Sys2Proof.Machine.execMdregRegister n x s
  | .mdregDeregister n x => Sys2Proof.Machine.execMdregDeregister n x s
  | .mdregDone n => Sys2Proof.Machine.execMdregDone n s
  | .probeackWrite d x => Sys2Proof.Machine.execProbeackWrite d x s
  | .rgrpWrite n x => Sys2Proof.Machine.execRgrpWrite n x s
  | .rgrpDrop n => Sys2Proof.Machine.execRgrpDrop n s
  | .rgrpDone n => Sys2Proof.Machine.execRgrpDone n s
  | .ctabWriteEntry x => Sys2Proof.Machine.execCtabWriteEntry x s
  | .ctabReadEntry x => Sys2Proof.Machine.execCtabReadEntry x s
  | .ctabUpdateDone => Sys2Proof.Machine.execCtabUpdateDone s
  | .kscfgWrite x => Sys2Proof.Machine.execKscfgWrite x s
  | .start x => Sys2Proof.Machine.execStart x s
  | .stop => Sys2Proof.Machine.execStop s
  | .localAbort => Sys2Proof.Machine.execLocalAbort s
  | .voteFormed => Sys2Proof.Machine.execVoteFormed s
  | .voteTimeout => Sys2Proof.Machine.execVoteTimeout s
  | .voteMessage port gn flags devid => Sys2Proof.Machine.execVoteMessage port gn flags devid s
  | .decideMessage port out gn next flags => Sys2Proof.Machine.execDecideMessage port out gn next flags s
  | .dack port next devid => Sys2Proof.Machine.execDack port next devid s
  | .dackSend => Sys2Proof.Machine.execDackSend s
  | .openMessage port next => Sys2Proof.Machine.execOpenMessage port next s
  | .hostLaunch d off bytes => Sys2Proof.Machine.execHostLaunch d off bytes s
  | .taskSubmission d => Sys2Proof.Machine.execTaskSubmission d s
  | .kennelMove d => Sys2Proof.Machine.execKennelMove d s
  | .successorSubmit d => Sys2Proof.Machine.execSuccessorSubmit d s
  | .dispatchDecision d => Sys2Proof.Machine.execDispatchDecision d s
  | .dispatch d => Sys2Proof.Machine.execDispatch d s
  | .levelRise d id => Sys2Proof.Machine.execLevelRise d id s
  | .nodeDecide d => Sys2Proof.Machine.execNodeDecide d s
  | .segmentEnd d id => Sys2Proof.Machine.execSegmentEnd d id s
  | .taskRetirement d id => Sys2Proof.Machine.execTaskRetirement d id s
  | .preemptRequest d x => Sys2Proof.Machine.execPreemptRequest d x s
  | .preemptSave d => Sys2Proof.Machine.execPreemptSave d s
  | .resume d => Sys2Proof.Machine.execResume d s
  | .collectivePart port part => Sys2Proof.Machine.execCollectivePart port part s
  | .parkedPartDiscard port => Sys2Proof.Machine.execParkedPartDiscard port s
  | .collectiveComplete port k => Sys2Proof.Machine.execCollectiveComplete port k s
  | .collectiveTimeout port k => Sys2Proof.Machine.execCollectiveTimeout port k s
  | .peerRequest port q => Sys2Proof.Machine.execPeerRequest port q s
  | .peerResponse tag st data => Sys2Proof.Machine.execPeerResponse tag st data s
  | .ptmcWriteArrival port origin sq dpa val => Sys2Proof.Machine.execPtmcWriteArrival port origin sq dpa val s
  | .portDown port => Sys2Proof.Machine.execPortDown port s
  | .portcfgWrite port x => Sys2Proof.Machine.execPortcfgWrite port x s
  | .portUp port => Sys2Proof.Machine.execPortUp port s
  | .routeWrite x => Sys2Proof.Machine.execRouteWrite x s
  | .routeRead x => Sys2Proof.Machine.execRouteRead x s
  | .hostRead va n => Sys2Proof.Machine.execHostRead va n s
  | .hostWrite va bytes => Sys2Proof.Machine.execHostWrite va bytes s
  | .unsupportedRequest off n => Sys2Proof.Machine.execUnsupportedRequest off n s
  | .doorbell d x => Sys2Proof.Machine.execDoorbell d x s
  | .doorbellRead d => Sys2Proof.Machine.execDoorbellRead d s
  | .tstampWrite x => Sys2Proof.Machine.execTstampWrite x s
  | .herrRead => Sys2Proof.Machine.execHerrRead s
  | .ehptrRead n => Sys2Proof.Machine.execEhptrRead n s
  | .shstatRead d => Sys2Proof.Machine.execShstatRead d s
  | .ksstatRead => Sys2Proof.Machine.execKsstatRead s
  | .lstatRead d => Sys2Proof.Machine.execLstatRead d s
  | .knstatRead d => Sys2Proof.Machine.execKnstatRead d s
  | .clstatRead d => Sys2Proof.Machine.execClstatRead d s
  | .portstatRead port => Sys2Proof.Machine.execPortstatRead port s
  | .fqptrRead d => Sys2Proof.Machine.execFqptrRead d s
  | .trptrRead d => Sys2Proof.Machine.execTrptrRead d s
  | .registerWrite n x => Sys2Proof.Machine.execRegisterWrite n x s
  | .contextReset x => Sys2Proof.Machine.execContextReset x s
  | .warmReset => Sys2Proof.Machine.execWarmReset s
  | .quiescedWarmReset => Sys2Proof.Machine.execQuiescedWarmReset s
  | .coldReset => Sys2Proof.Machine.execColdReset s
  | .attestationReport x => Sys2Proof.Machine.execAttestationReport x s
  | .attestationDone => Sys2Proof.Machine.execAttestationDone s
  | .cfgswGo => Sys2Proof.Machine.execCfgswGo s
  | .unitPlaneSwitch u => Sys2Proof.Machine.execUnitPlaneSwitch u s
  | .pwrctlWrite isle x => Sys2Proof.Machine.execPwrctlWrite isle x s
  | .powerChangeDone isle => Sys2Proof.Machine.execPowerChangeDone isle s
  | .telemetrySample isl ports => Sys2Proof.Machine.execTelemetrySample isl ports s
  | .debugHalt c x => Sys2Proof.Machine.execDebugHalt c x s
  | .debugStep c r => Sys2Proof.Machine.execDebugStep c r s
  | .addressBreakpoint c r => Sys2Proof.Machine.execAddressBreakpoint c r s
  | .dbgdataRead c => Sys2Proof.Machine.execDbgdataRead c s
  | .dbgdataWrite c x => Sys2Proof.Machine.execDbgdataWrite c x s
  | .flitReplay port => Sys2Proof.Machine.execFlitReplay port s
  | .partAnswer port tag st => Sys2Proof.Machine.execPartAnswer port tag st s
  | .ptmcAcknowledgement origin sq => Sys2Proof.Machine.execPtmcAcknowledgement origin sq s
  | .predecodeSkip c r => Sys2Proof.Machine.execPredecodeSkip c r s

end Sys2Proof.Machine
end

