-- ==== Sys2Proof/Machine/Moves.lean ====
section
/-! DEFINITION. Sys2Proof/Machine/Moves.lean: the meaning of a move that comes about without an input (log 3). -/

namespace Sys2Proof.Machine

/-- An act of a Collie. -/
def runCollie (d : Nat) (a : CollieAct) (s : State) : Host.Outcome State Fault Refusal :=
  match a with
  | .submission => execTaskSubmission d s
  | .kennel => execKennelMove d s
  | .successor => execSuccessorSubmit d s
  | .decision => execDispatchDecision d s
  | .dispatch => execDispatch d s
  | .node => execNodeDecide d s
  | .save => execPreemptSave d s
  | .resume => execResume d s
  | .segmentEnd id => execSegmentEnd d id s
  | .retirement id => execTaskRetirement d id s

/-- A move that Sched has already turned into a turn or an event changes nothing here. -/
def runMove (m : Move) (s : State) : Host.Outcome State Fault Refusal :=
  match m with
  | .given (.event i) => exec i s
  | .given _ => .next s
  | .collie d a => runCollie d a s
  | .boot => .next (boot s)
  | .planeSwitch u => execUnitPlaneSwitch u s
  | .attested => execAttestationDone s
  | .powerDone i => execPowerChangeDone i s
  | .breakpoint c r => execAddressBreakpoint c r s
  | .skip c r => execPredecodeSkip c r s
  | .collective p k => execCollectiveComplete p k s
  | .bar0Read off => execBar0Read off s

end Sys2Proof.Machine
end

