-- ==== Sys2Proof/Machine/Step.lean ====
section
/-! DEFINITION. Sys2Proof/Machine/Step.lean: one step, and the placing of an instruction where the next step fetches. -/

namespace Sys2Proof.Machine

/-- One step: the plan of Sched.lean, run by exec. -/
def step (s : State) : Host.Outcome State Fault Refusal :=
  match plan s with
  | .run i t => exec i t
  | .move m t => runMove m t
  | .settled t => .next t
  | .missing => .fault .noSuchUnit

/-- The state with an instruction of `nbits` bits stored where step fetches its next instruction (log 4). -/
def State.withFetchWord (s : State) (nbits w : Nat) : State :=
  placeWords s (BitVec.ofNat 64 (w % 2 ^ nbits)) (BitVec.ofNat 64 (w % 2 ^ nbits / 2 ^ 64))

end Sys2Proof.Machine
end

