-- ==== Sys2Proof/Laws/Encoding.lean ====
section
/-! SUPPORT. Sys2Proof/Laws/Encoding.lean: parsing undoes packing, for every format and every code. -/

namespace Sys2Proof

/-! ## Fields of a concatenation -/

theorem extract_append_low {w v : Nat} (a : BitVec w) (b : BitVec v) (s l : Nat) (h : s + l ≤ v) :
    (a ++ b).extractLsb' s l = b.extractLsb' s l := by
  apply BitVec.eq_of_getLsbD_eq
  intro i hi
  simp only [BitVec.getLsbD_extractLsb', BitVec.getLsbD_append, hi, decide_true, Bool.true_and]
  rw [if_pos (by omega)]

theorem extract_append_high {w v : Nat} (a : BitVec w) (b : BitVec v) (s l : Nat) (h : v ≤ s) :
    (a ++ b).extractLsb' s l = a.extractLsb' (s - v) l := by
  apply BitVec.eq_of_getLsbD_eq
  intro i hi
  simp only [BitVec.getLsbD_extractLsb', BitVec.getLsbD_append, hi, decide_true, Bool.true_and]
  rw [if_neg (by omega)]
  congr 1
  omega

theorem extract_self {w : Nat} (a : BitVec w) : a.extractLsb' 0 w = a := by
  apply BitVec.eq_of_getLsbD_eq
  intro i hi
  simp [hi]

theorem lsbD_append_low {w v : Nat} (a : BitVec w) (b : BitVec v) (i : Nat) (h : i < v) :
    (a ++ b).getLsbD i = b.getLsbD i := by
  rw [BitVec.getLsbD_append, if_pos h]

theorem lsbD_append_high {w v : Nat} (a : BitVec w) (b : BitVec v) (i : Nat) (h : v ≤ i) :
    (a ++ b).getLsbD i = a.getLsbD (i - v) := by
  rw [BitVec.getLsbD_append, if_neg (by omega)]

theorem extract_append_adj {w : Nat} (x : BitVec w) (s l k : Nat) :
    x.extractLsb' (s + k) l ++ x.extractLsb' s k = x.extractLsb' s (l + k) := by
  apply BitVec.eq_of_getLsbD_eq
  intro i hi
  simp only [BitVec.getLsbD_append, BitVec.getLsbD_extractLsb']
  split
  · rename_i h
    simp [h, hi]
  · rename_i h
    have : i - k < l := by omega
    have e : s + k + (i - k) = s + i := by omega
    simp [this, e, hi]

/-! ## Codes -/

@[simp] theorem RoleTag.ofCode_code (t : RoleTag) : RoleTag.ofCode t.code = t := by cases t <;> rfl
@[simp] theorem RoleId.ofCode_code (t : RoleId) : RoleId.ofCode t.code = some t := by cases t <;> rfl
@[simp] theorem Cond.ofCode_code (t : Cond) : Cond.ofCode t.code = some t := by cases t <;> rfl
@[simp] theorem Scope.ofCode_code (t : Scope) : Scope.ofCode t.code = some t := by cases t <;> rfl
@[simp] theorem DType.ofCode_code (t : DType) : DType.ofCode t.code = t := by cases t <;> rfl
@[simp] theorem RM.ofCode_code (t : RM) : RM.ofCode t.code = some t := by cases t <;> rfl
@[simp] theorem Size.ofCode_code (t : Size) : Size.ofCode t.code = t := by cases t <;> rfl
@[simp] theorem SliceOp.ofCode_code (t : SliceOp) : SliceOp.ofCode t.code = some t := by cases t <;> rfl
@[simp] theorem RedOp.ofCode_code (t : RedOp) : RedOp.ofCode t.code = some t := by cases t <;> rfl
@[simp] theorem AMode.ofCode_code (t : AMode) : AMode.ofCode t.code = some t := by cases t <;> rfl
@[simp] theorem Guard.ofCode_code (g : Guard) : Guard.ofCode g.code = g := by
  obtain ⟨n, p⟩ := g
  simp only [Guard.ofCode, Guard.code]
  rw [lsbD_append_high _ _ _ (by decide), extract_append_low _ _ _ _ (by decide), extract_self]
  cases n <;> rfl

/-! ## Marks and opcodes -/

theorem packWord_mark (m : Mark) (op : BitVec 8) (b : BitVec 52) : Mark.ofWord (packWord m op b) = m := by
  obtain ⟨t, p, q⟩ := m
  simp only [Mark.ofWord, packWord, Mark.code]
  simp (disch := omega) only [extract_append_high, lsbD_append_high]
  cases t <;> cases p <;> cases q <;> rfl

theorem packWord_op (m : Mark) (op : BitVec 8) (b : BitVec 52) : opOf (packWord m op b) = op := by
  simp only [opOf, packWord]
  rw [extract_append_high _ _ _ _ (by decide), extract_append_low _ _ _ _ (by decide), extract_self]

theorem packWord_field (m : Mark) (op : BitVec 8) (b : BitVec 52) (s l : Nat) (h : s + l ≤ 52) :
    (packWord m op b).extractLsb' s l = b.extractLsb' s l := by
  simp only [packWord]
  rw [extract_append_low _ _ _ _ h]

/-! ## Formats -/

theorem FA.parse_pack (m : Mark) (op : BitVec 8) (f : FA) : FA.parse (FA.pack m op f) = f := by
  obtain ⟨x0, x1, x2, x3, x4, x5, x6⟩ := f
  simp (disch := omega) only [FA.parse, FA.pack, packWord_field, FA.body, extract_append_high, extract_append_low,
    extract_self, Nat.reduceSub]

theorem FB.parse_pack (m : Mark) (op : BitVec 8) (f : FB) : FB.parse (FB.pack m op f) = f := by
  obtain ⟨x0, x1, x2, x3, x4⟩ := f
  simp (disch := omega) only [FB.parse, FB.pack, packWord_field, FB.body, extract_append_high, extract_append_low,
    extract_self, Nat.reduceSub]

theorem FM.parse_pack (m : Mark) (op : BitVec 8) (f : FM) : FM.parse (FM.pack m op f) = f := by
  obtain ⟨x0, x1, x2, x3, x4, x5, x6, x7, x8⟩ := f
  simp (disch := omega) only [FM.parse, FM.pack, packWord_field, FM.body, extract_append_high, extract_append_low,
    extract_self, Nat.reduceSub]

theorem FJ.parse_pack (m : Mark) (op : BitVec 8) (f : FJ) : FJ.parse (FJ.pack m op f) = f := by
  obtain ⟨x0, x1, x2, x3, x4, x5⟩ := f
  simp (disch := omega) only [FJ.parse, FJ.pack, packWord_field, FJ.body, extract_append_high, extract_append_low,
    extract_self, Nat.reduceSub]

theorem FQ.parse_pack (m : Mark) (op : BitVec 8) (f : FQ) : FQ.parse (FQ.pack m op f) = f := by
  obtain ⟨x0, x1, x2, x3, x4, x5⟩ := f
  simp (disch := omega) only [FQ.parse, FQ.pack, packWord_field, FQ.body, extract_append_high, extract_append_low,
    extract_self, Nat.reduceSub]

theorem FV.parse_pack (m : Mark) (op : BitVec 8) (f : FV) : FV.parse (FV.pack m op f) = f := by
  obtain ⟨x0, x1, x2, x3, x4, x5, x6, x7, x8, x9⟩ := f
  simp (disch := omega) only [FV.parse, FV.pack, packWord_field, FV.body, extract_append_high, extract_append_low,
    extract_self, Nat.reduceSub]

theorem FVI.parse_pack (m : Mark) (op : BitVec 8) (f : FVI) : FVI.parse (FVI.pack m op f) = f := by
  obtain ⟨x0, x1, x2, x3, x4, x5, x6⟩ := f
  simp (disch := omega) only [FVI.parse, FVI.pack, packWord_field, FVI.body, extract_append_high, extract_append_low,
    extract_self, Nat.reduceSub]

theorem FS.parse_pack (m : Mark) (op : BitVec 8) (f : FS) : FS.parse (FS.pack m op f) = f := by
  obtain ⟨x0, x1, x2, x3, x4, x5⟩ := f
  simp (disch := omega) only [FS.parse, FS.pack, packWord_field, FS.body, extract_append_high, extract_append_low,
    extract_self, Nat.reduceSub]

theorem FSafe.parse_pack (m : Mark) (op : BitVec 8) (f : FSafe) : FSafe.parse (FSafe.pack m op f) = f := by
  obtain ⟨x0, x1⟩ := f
  simp (disch := omega) only [FSafe.parse, FSafe.pack, packWord_field, FSafe.body, extract_append_high, extract_append_low,
    extract_self, Nat.reduceSub]

theorem FExt.parse_pack (m : Mark) (op : BitVec 8) (f : FExt) : FExt.parse (FExt.pack m op f) = f := by
  obtain ⟨x0, x1⟩ := f
  simp (disch := omega) only [FExt.parse, FExt.pack, packWord_field, FExt.body, extract_append_high, extract_append_low,
    extract_self, Nat.reduceSub]

theorem FCmd.parse_bits (f : FCmd) : FCmd.parse f.bits = f := by
  obtain ⟨x0, x1, x2, x3, x4, x5, x6, x7⟩ := f
  simp (disch := omega) only [FCmd.parse, FCmd.bits, extract_append_high, extract_append_low,
    extract_self, Nat.reduceSub]

theorem FMma.parse_bits (f : FMma) : FMma.parse f.bits = f := by
  obtain ⟨x0, x1, x2, x3, x4, x5, x6, x7, x8⟩ := f
  simp (disch := omega) only [FMma.parse, FMma.bits, extract_append_high, extract_append_low,
    extract_self, Nat.reduceSub]

theorem FMzr.parse_bits (f : FMzr) : FMzr.parse f.bits = f := by
  obtain ⟨x0, x1, x2, x3⟩ := f
  simp (disch := omega) only [FMzr.parse, FMzr.bits, extract_append_high, extract_append_low,
    extract_self, Nat.reduceSub]

theorem FMld.parse_bits (f : FMld) : FMld.parse f.bits = f := by
  obtain ⟨x0, x1, x2, x3, x4, x5⟩ := f
  simp (disch := omega) only [FMld.parse, FMld.bits, extract_append_high, extract_append_low,
    extract_self, Nat.reduceSub]

theorem FMdr.parse_bits (f : FMdr) : FMdr.parse f.bits = f := by
  obtain ⟨x0, x1, x2, x3, x4, x5, x6, x7⟩ := f
  simp (disch := omega) only [FMdr.parse, FMdr.bits, extract_append_high, extract_append_low,
    extract_self, Nat.reduceSub]

theorem FMcfg.parse_bits (f : FMcfg) : FMcfg.parse f.bits = f := by
  obtain ⟨x0, x1, x2⟩ := f
  simp (disch := omega) only [FMcfg.parse, FMcfg.bits, extract_append_high, extract_append_low,
    extract_self, Nat.reduceSub]

theorem FCpy.parse_bits (f : FCpy) : FCpy.parse f.bits = f := by
  obtain ⟨x0, x1, x2, x3, x4, x5, x6, x7, x8, x9, x10, x11, x12⟩ := f
  simp (disch := omega) only [FCpy.parse, FCpy.bits, extract_append_high, extract_append_low,
    extract_self, Nat.reduceSub]

theorem FCont.parse_bits (f : FCont) : FCont.parse f.bits = f := by
  obtain ⟨x0, x1⟩ := f
  simp (disch := omega) only [FCont.parse, FCont.bits, extract_append_high, extract_append_low,
    extract_self, Nat.reduceSub]

theorem FLen.parse_bits (f : FLen) : FLen.parse f.bits = f := by
  obtain ⟨x0, x1, x2, x3⟩ := f
  simp (disch := omega) only [FLen.parse, FLen.bits, extract_append_high, extract_append_low,
    extract_self, Nat.reduceSub]

theorem FGath.parse_bits (f : FGath) : FGath.parse f.bits = f := by
  obtain ⟨x0, x1, x2, x3⟩ := f
  simp (disch := omega) only [FGath.parse, FGath.bits, extract_append_high, extract_append_low,
    extract_self, Nat.reduceSub]

theorem FHalf.parse_bits (f : FHalf) : FHalf.parse f.bits = f := by
  obtain ⟨x0, x1⟩ := f
  simp (disch := omega) only [FHalf.parse, FHalf.bits, extract_append_high, extract_append_low,
    extract_self, Nat.reduceSub]

theorem FRedc.parse_bits (f : FRedc) : FRedc.parse f.bits = f := by
  obtain ⟨x0, x1, x2, x3, x4, x5⟩ := f
  simp (disch := omega) only [FRedc.parse, FRedc.bits, extract_append_high, extract_append_low,
    extract_self, Nat.reduceSub]

theorem FBytes.parse_bits (f : FBytes) : FBytes.parse f.bits = f := by
  obtain ⟨x0, x1⟩ := f
  simp (disch := omega) only [FBytes.parse, FBytes.bits, extract_append_high, extract_append_low,
    extract_self, Nat.reduceSub]

/-! ## From words to instructions -/

theorem lsbD_ofBool (b : Bool) : (BitVec.ofBool b).getLsbD 0 = b := by cases b <;> rfl

theorem ofBool_eq_one (b : Bool) : (BitVec.ofBool b == 1) = b := by cases b <;> rfl

theorem rawDecode_FA (m : Mark) (op : BitVec 8) (f : FA) (x : Option Word) (h : fmtOf op.toNat = some .FA) :
    rawDecode (FA.pack m op f) x = decodeFA m op.toNat f := by
  have ho : opOf (FA.pack m op f) = op := packWord_op m op f.body
  have hm : Mark.ofWord (FA.pack m op f) = m := packWord_mark m op f.body
  simp only [rawDecode, ho, h, hm, FA.parse_pack]

theorem rawDecode_FB (m : Mark) (op : BitVec 8) (f : FB) (x : Option Word) (h : fmtOf op.toNat = some .FB) :
    rawDecode (FB.pack m op f) x = decodeFB m op.toNat f := by
  have ho : opOf (FB.pack m op f) = op := packWord_op m op f.body
  have hm : Mark.ofWord (FB.pack m op f) = m := packWord_mark m op f.body
  simp only [rawDecode, ho, h, hm, FB.parse_pack]

theorem rawDecode_FM (m : Mark) (op : BitVec 8) (f : FM) (x : Option Word) (h : fmtOf op.toNat = some .FM) :
    rawDecode (FM.pack m op f) x = decodeFM m op.toNat f := by
  have ho : opOf (FM.pack m op f) = op := packWord_op m op f.body
  have hm : Mark.ofWord (FM.pack m op f) = m := packWord_mark m op f.body
  simp only [rawDecode, ho, h, hm, FM.parse_pack]

theorem rawDecode_FJ (m : Mark) (op : BitVec 8) (f : FJ) (x : Option Word) (h : fmtOf op.toNat = some .FJ) :
    rawDecode (FJ.pack m op f) x = decodeFJ m op.toNat f := by
  have ho : opOf (FJ.pack m op f) = op := packWord_op m op f.body
  have hm : Mark.ofWord (FJ.pack m op f) = m := packWord_mark m op f.body
  simp only [rawDecode, ho, h, hm, FJ.parse_pack]

theorem rawDecode_FQ (m : Mark) (op : BitVec 8) (f : FQ) (x : Option Word) (h : fmtOf op.toNat = some .FQ) :
    rawDecode (FQ.pack m op f) x = decodeFQ m op.toNat f := by
  have ho : opOf (FQ.pack m op f) = op := packWord_op m op f.body
  have hm : Mark.ofWord (FQ.pack m op f) = m := packWord_mark m op f.body
  simp only [rawDecode, ho, h, hm, FQ.parse_pack]

theorem rawDecode_FV (m : Mark) (op : BitVec 8) (f : FV) (x : Option Word) (h : fmtOf op.toNat = some .FV) :
    rawDecode (FV.pack m op f) x = decodeFV m op.toNat f := by
  have ho : opOf (FV.pack m op f) = op := packWord_op m op f.body
  have hm : Mark.ofWord (FV.pack m op f) = m := packWord_mark m op f.body
  simp only [rawDecode, ho, h, hm, FV.parse_pack]

theorem rawDecode_FVI (m : Mark) (op : BitVec 8) (f : FVI) (x : Option Word) (h : fmtOf op.toNat = some .FVI) :
    rawDecode (FVI.pack m op f) x = decodeFVI m op.toNat f := by
  have ho : opOf (FVI.pack m op f) = op := packWord_op m op f.body
  have hm : Mark.ofWord (FVI.pack m op f) = m := packWord_mark m op f.body
  simp only [rawDecode, ho, h, hm, FVI.parse_pack]

theorem rawDecode_FS (m : Mark) (op : BitVec 8) (f : FS) (x : Option Word) (h : fmtOf op.toNat = some .FS) :
    rawDecode (FS.pack m op f) x = decodeFS m op.toNat f := by
  have ho : opOf (FS.pack m op f) = op := packWord_op m op f.body
  have hm : Mark.ofWord (FS.pack m op f) = m := packWord_mark m op f.body
  simp only [rawDecode, ho, h, hm, FS.parse_pack]

theorem rawDecode_safe (m : Mark) (g : FSafe) (t : RoleTag) (h : t = m.tag) (e : FExt) :
    rawDecode (FSafe.pack m 0x2A g) (some (FExt.pack ⟨t, false, false⟩ 0xFE e)) =
      zf (g.zf == 0 && true && e.zf == 0) (.ok (.safe m g.gmask e.vmask)) := by
  subst h
  have h1 : opOf (FSafe.pack m 0x2A g) = 0x2A := packWord_op m _ g.body
  have h2 : Mark.ofWord (FSafe.pack m 0x2A g) = m := packWord_mark m _ g.body
  have h3 : opOf (FExt.pack ⟨m.tag, false, false⟩ 0xFE e) = 0xFE := packWord_op _ _ e.body
  have h4 : (FExt.pack ⟨m.tag, false, false⟩ 0xFE e).extractLsb' 62 2 = (FSafe.pack m 0x2A g).extractLsb' 62 2 := by
    simp (disch := omega) only [FExt.pack, FSafe.pack, packWord, Mark.code, extract_append_high]
  have h5 : ((FExt.pack ⟨m.tag, false, false⟩ 0xFE e).extractLsb' 60 2 == 0) = true := by
    simp (disch := omega) only [FExt.pack, packWord, Mark.code, extract_append_high]
    cases m.tag <;> rfl
  simp only [rawDecode, h1]
  show decodeSafe _ _ = _
  simp only [decodeSafe, h3, h4, h5, FSafe.parse_pack, FExt.parse_pack, h2, beq_self_eq_true, Bool.and_self, if_true]

/-! ## Bytes of words -/

theorem wordOfBytes_bytesOfWord (w : Word) (rest : List Byte) :
    wordOfBytes (bytesOfWord w ++ rest) = some (w, rest) := by
  have h : w.extractLsb' 56 8 ++ w.extractLsb' 48 8 ++ w.extractLsb' 40 8 ++ w.extractLsb' 32 8 ++
      w.extractLsb' 24 8 ++ w.extractLsb' 16 8 ++ w.extractLsb' 8 8 ++ w.extractLsb' 0 8 = w := by
    rw [extract_append_adj w 48 8 8, extract_append_adj w 40 16 8, extract_append_adj w 32 24 8,
      extract_append_adj w 24 32 8, extract_append_adj w 16 40 8, extract_append_adj w 8 48 8,
      extract_append_adj w 0 56 8]
    exact extract_self w
  exact congrArg (fun x => some (x, rest)) h

/-- A word that is no safe decodes alike whatever bytes follow it. -/
theorem decodeBytes_one {i : Instr} {w : Word} (rest : List Byte) (hs : ∀ m g v, i ≠ .safe m g v)
    (hd : ∀ x, decodeWords w x = .ok i) : decodeBytes ([w].flatMap bytesOfWord ++ rest) = .ok (i, rest) := by
  simp only [List.flatMap_cons, List.flatMap_nil, List.append_nil, decodeBytes, wordOfBytes_bytesOfWord]
  split
  · rw [hd]
  · rw [hd]
    split
    · rename_i h; cases h
    · rename_i h; cases h; exact absurd rfl (hs _ _ _)
    · rename_i h; cases h; rfl

/-! ## Commands -/

theorem ws_of_bits (s : WaitSig) (c : BitVec 6) (b : BitVec 42) :
    FCmd.ws ⟨BitVec.ofBool s.wen, s.wsem, s.wcond, BitVec.ofBool s.sen, s.ssem, s.sop, c, b⟩ = s := by
  obtain ⟨w, _, _, n, _, _⟩ := s
  cases w <;> cases n <;> rfl

theorem packCmd_parse (s : WaitSig) (c : BitVec 6) (b : BitVec 42) :
    FCmd.parse (packCmd s c b) = ⟨BitVec.ofBool s.wen, s.wsem, s.wcond, BitVec.ofBool s.sen, s.ssem, s.sop, c, b⟩ :=
  FCmd.parse_bits _

theorem packCmd_marker (s : WaitSig) (c : BitVec 6) (b : BitVec 42) (h : Check.waitSig s = true) :
    isCont (packCmd s c b) = false := by
  have hp : (packCmd s c b).extractLsb' 56 2 = s.wcond := congrArg FCmd.wcond (packCmd_parse s c b)
  apply beq_false_of_ne
  intro hf
  have h2 : (packCmd s c b).extractLsb' 56 2 = ((packCmd s c b).extractLsb' 56 8).extractLsb' 0 2 := by
    apply BitVec.eq_of_getLsbD_eq
    intro i hi
    simp only [BitVec.getLsbD_extractLsb', hi, decide_true, Bool.true_and, Nat.zero_add]
    rw [decide_eq_true (by omega : i < 8), Bool.true_and]
  rw [hf, hp] at h2
  have h3 : s.wcond = 3 := h2
  simp [Check.waitSig, h3] at h

theorem rawMatrix_pack (s : WaitSig) (c : BitVec 6) (b : BitVec 42) (h : Check.waitSig s = true) :
    rawMatrix (packCmd s c b) = (match c.toNat with
  | 0 => zf (b == 0) (.ok (.mnop s))
  | 1 =>
    let x := FMma.parse b
    zf (x.zf == 0) (.ok (.mma s (x.lp == 1) x.fidx x.ha x.hb x.acc (x.reuse == 1) (x.popa == 1) (x.popb == 1)))
  | 2 =>
    let x := FMzr.parse b
    zf (x.zf == 0) (.ok (.mzr s x.acc (x.ty == 1) (x.cs == 1)))
  | 3 =>
    let x := FMld.parse b
    zf (x.zf == 0) (.ok (.mld s x.acc (x.ty == 1) (x.cs == 1) x.h (x.pop == 1)))
  | 4 =>
    let x := FMdr.parse b
    zf (x.zf == 0) (need .rm (RM.ofCode (0#1 ++ x.rm)) fun rm =>
      .ok (.mdr s x.acc x.dt rm (x.sat == 1) x.h (x.clr == 1) (x.free == 1)))
  | 5 =>
    let x := FMcfg.parse b
    match x.sub.toNat with
    | 0 => zf (x.zf == 0 && x.x.extractLsb' 0 4 == 0) (.ok (.mcfgRedundant s (x.x.getLsbD 4)))
    | 1 => zf (x.zf == 0) (.ok (.mcfgLoadFormat s (x.x.extractLsb' 1 4) (x.x.getLsbD 0)))
    | _ => .error .command
  | _ => .error .command) := by
  simp only [rawMatrix, packCmd_parse, packCmd_marker s c b h, ws_of_bits]
  rfl

theorem RM.ofCode_low (rm : RM) : RM.ofCode (0#1 ++ rm.code.extractLsb' 0 3) = some rm := by cases rm <;> rfl

theorem first_head {b : Bool} {e : Ill} {l : List (Bool × Ill)} (h : Check.first ((b, e) :: l) = none) : b = true := by
  cases b
  · cases h
  · rfl

theorem packCont_mark (x : BitVec 56) : isCont (packCont x) = true := by
  rw [isCont, show (packCont x).extractLsb' 56 8 = 0xFF from congrArg FCont.mark (FCont.parse_bits ⟨0xFF, x⟩)]
  rfl

theorem packCont_low (x : BitVec 56) : contLow (packCont x) = x :=
  congrArg FCont.lo (FCont.parse_bits ⟨0xFF, x⟩)

/-- An address from its top bit and its low 56 bits. -/
theorem addr_split (a : BitVec 57) : a.extractLsb' 56 1 ++ a.extractLsb' 0 56 = a := by
  have h := extract_append_adj a 0 1 56
  exact h.trans (extract_self a)

/-- A source side from its fields. -/
theorem side_src (a : CopySide) : sideOf a.fields.1 a.fields.2.1 (a.fields.2.2.1 == 1) a.fields.2.2.2 = a := by
  cases a with
  | addr a => rfl
  | handle h p => cases p <;> rfl

/-- A destination side from its fields. -/
theorem side_dst (a : CopySide) (h : Check.noPop a = true) :
    sideOf a.fields.1 a.fields.2.1 false a.fields.2.2.2 = a := by
  cases a with
  | addr a => rfl
  | handle h p =>
    cases p
    · rfl
    · cases h

theorem side_srcZ (a : CopySide) : sideZ a.fields.1 a.fields.2.1 a.fields.2.2.1 a.fields.2.2.2 = true := by
  cases a <;> rfl

theorem side_dstZ (a : CopySide) : sideZ a.fields.1 a.fields.2.1 0 a.fields.2.2.2 = true := by
  cases a <;> rfl

theorem opts_of_bits (x : CopyOpts) : CopyOpts.mk (BitVec.ofBool x.strm == 1) (BitVec.ofBool x.ben == 1) x.bcore x.boff = x := by
  obtain ⟨a, b, c, d⟩ := x
  cases a <;> cases b <;> rfl

/-- A check of a list that has no failing one holds. -/
theorem first_second {b : Bool} {e : Ill} {l : List (Bool × Ill)} (h : Check.first ((b, e) :: l) = none) :
    Check.first l = none := by
  cases b
  · cases h
  · exact h

theorem rawCopy_one (w : WaitSig) (c : BitVec 6) (b : BitVec 42) (h : Check.waitSig w = true) :
    rawCopy [packCmd w c b] =
      rawCopy1 ⟨BitVec.ofBool w.wen, w.wsem, w.wcond, BitVec.ofBool w.sen, w.ssem, w.sop, c, b⟩ := by
  simp only [rawCopy, packCmd_marker _ _ _ h, packCmd_parse]
  rfl

theorem rawCopy_two (w : WaitSig) (c : BitVec 6) (x : FCpy) (a : BitVec 56) (h : Check.waitSig w = true) :
    rawCopy [packCmd w c x.bits, packCont a] =
      rawCopy2 ⟨BitVec.ofBool w.wen, w.wsem, w.wcond, BitVec.ofBool w.sen, w.ssem, w.sop, c, x.bits⟩ x a := by
  simp only [rawCopy, packCmd_marker _ _ _ h, packCmd_parse, FCpy.parse_bits, packCont_mark, packCont_low]
  rfl

theorem rawCopy_four (w : WaitSig) (c : BitVec 6) (x : FCpy) (a b d : BitVec 56) (h : Check.waitSig w = true) :
    rawCopy [packCmd w c x.bits, packCont a, packCont b, packCont d] =
      rawCopy4 ⟨BitVec.ofBool w.wen, w.wsem, w.wcond, BitVec.ofBool w.sen, w.ssem, w.sop, c, x.bits⟩ x a b d := by
  simp only [rawCopy, packCmd_marker _ _ _ h, packCmd_parse, FCpy.parse_bits, packCont_mark, packCont_low]
  rfl

end Sys2Proof
end

