-- ==== Sys2Proof/Laws/PerInstr.lean ====
section
/-! SUPPORT. Sys2Proof/Laws/PerInstr.lean: the family Encoding: decoding an instruction's encoding gives it back, with
every operand at every value a well-formed instruction admits. -/

set_option linter.unusedSimpArgs false
set_option maxRecDepth 4000

namespace Sys2Proof.Laws.Encoding

/-- Decode and encode agree on an instruction: a well-formed word (a safe: two words), laid out in memory and followed
by any bytes, decodes to it and leaves those bytes; a well-formed command's ring words decode to it. -/
def Statement (i : Instr) : Prop :=
  i.wf = true →
    (encode i ≠ [] → ∀ rest : List Byte, decodeBytes ((encode i).flatMap bytesOfWord ++ rest) = .ok (i, rest)) ∧
    match i.ring with
    | some .matrix => ∃ w, encodeCommand i = [w] ∧ decodeMatrix w = .ok i
    | some .copy => decodeCopy (encodeCommand i) = .ok i
    | none => True

theorem check_of_wf {i : Instr} (h : i.wf = true) : i.check = none := by simpa [Instr.wf] using h

/-- A word of one 64-bit word. -/
theorem one_word {i : Instr} {w : Word} (he : encode i = [w]) (hr : i.ring = none)
    (hs : ∀ m g v, i ≠ .safe m g v) (hd : ∀ x, rawDecode w x = .ok i) : Statement i := by
  intro hw
  refine ⟨fun _ rest => ?_, by rw [hr]; trivial⟩
  rw [he]
  exact decodeBytes_one rest hs fun x => by rw [decodeWords, hd]; simp only [check_of_wf hw]

/-- A command or event has no words. -/
theorem no_word {i : Instr} (he : encode i = []) (hr : i.ring = none) : Statement i :=
  fun _ => ⟨fun h => absurd he h, by rw [hr]; trivial⟩

theorem matrix_word {i : Instr} {w : Word} (he : encode i = []) (hr : i.ring = some .matrix)
    (hc : encodeCommand i = [w]) (hd : i.wf = true → rawMatrix w = .ok i) : Statement i := by
  intro hw
  refine ⟨fun h => absurd he h, ?_⟩
  rw [hr]
  exact ⟨w, hc, by rw [decodeMatrix, hd hw]; simp only [checked, check_of_wf hw]⟩

theorem copy_words {i : Instr} (he : encode i = []) (hr : i.ring = some .copy)
    (hd : i.wf = true → rawCopy (encodeCommand i) = .ok i) : Statement i := by
  intro hw
  refine ⟨fun h => absurd he h, ?_⟩
  rw [hr]
  show decodeCopy (encodeCommand i) = .ok i
  rw [decodeCopy, hd hw]; simp only [checked, check_of_wf hw]

theorem nop (m : Mark) (g : Guard) : Statement (.nop m g) := by
  refine one_word rfl rfl (fun _ _ _ => by simp only [ne_eq, reduceCtorEq, not_false_eq_true]) fun x => ?_
  refine (rawDecode_FA _ _ _ _ rfl).trans ?_
  show decodeFA _ 0x01 _ = _
  simp (disch := omega) only [decodeFA, zf, need, FM.ea, FM.vea, extract_append_high, extract_append_low, extract_self,
    lsbD_append_high, lsbD_append_low, lsbD_ofBool, ofBool_eq_one, Guard.ofCode_code, Cond.ofCode_code, Scope.ofCode_code,
    DType.ofCode_code, RM.ofCode_code, Size.ofCode_code, SliceOp.ofCode_code, RedOp.ofCode_code, AMode.ofCode_code,
    RoleId.ofCode_code, beq_self_eq_true, Bool.and_self, if_true, Nat.sub_self]

theorem add (m : Mark) (rd ra rb : G6) (g : Guard) : Statement (.add m rd ra rb g) := by
  refine one_word rfl rfl (fun _ _ _ => by simp only [ne_eq, reduceCtorEq, not_false_eq_true]) fun x => ?_
  refine (rawDecode_FA _ _ _ _ rfl).trans ?_
  show decodeFA _ 0x02 _ = _
  simp (disch := omega) only [decodeFA, zf, need, FM.ea, FM.vea, extract_append_high, extract_append_low, extract_self,
    lsbD_append_high, lsbD_append_low, lsbD_ofBool, ofBool_eq_one, Guard.ofCode_code, Cond.ofCode_code, Scope.ofCode_code,
    DType.ofCode_code, RM.ofCode_code, Size.ofCode_code, SliceOp.ofCode_code, RedOp.ofCode_code, AMode.ofCode_code,
    RoleId.ofCode_code, beq_self_eq_true, Bool.and_self, if_true, Nat.sub_self]
  all_goals rfl

theorem sub (m : Mark) (rd ra rb : G6) (g : Guard) : Statement (.sub m rd ra rb g) := by
  refine one_word rfl rfl (fun _ _ _ => by simp only [ne_eq, reduceCtorEq, not_false_eq_true]) fun x => ?_
  refine (rawDecode_FA _ _ _ _ rfl).trans ?_
  show decodeFA _ 0x02 _ = _
  simp (disch := omega) only [decodeFA, zf, need, FM.ea, FM.vea, extract_append_high, extract_append_low, extract_self,
    lsbD_append_high, lsbD_append_low, lsbD_ofBool, ofBool_eq_one, Guard.ofCode_code, Cond.ofCode_code, Scope.ofCode_code,
    DType.ofCode_code, RM.ofCode_code, Size.ofCode_code, SliceOp.ofCode_code, RedOp.ofCode_code, AMode.ofCode_code,
    RoleId.ofCode_code, beq_self_eq_true, Bool.and_self, if_true, Nat.sub_self]
  all_goals rfl

theorem mul (m : Mark) (rd ra rb : G6) (g : Guard) : Statement (.mul m rd ra rb g) := by
  refine one_word rfl rfl (fun _ _ _ => by simp only [ne_eq, reduceCtorEq, not_false_eq_true]) fun x => ?_
  refine (rawDecode_FA _ _ _ _ rfl).trans ?_
  show decodeFA _ 0x03 _ = _
  simp (disch := omega) only [decodeFA, zf, need, FM.ea, FM.vea, extract_append_high, extract_append_low, extract_self,
    lsbD_append_high, lsbD_append_low, lsbD_ofBool, ofBool_eq_one, Guard.ofCode_code, Cond.ofCode_code, Scope.ofCode_code,
    DType.ofCode_code, RM.ofCode_code, Size.ofCode_code, SliceOp.ofCode_code, RedOp.ofCode_code, AMode.ofCode_code,
    RoleId.ofCode_code, beq_self_eq_true, Bool.and_self, if_true, Nat.sub_self]
  all_goals rfl

theorem mulh (m : Mark) (rd ra rb : G6) (g : Guard) : Statement (.mulh m rd ra rb g) := by
  refine one_word rfl rfl (fun _ _ _ => by simp only [ne_eq, reduceCtorEq, not_false_eq_true]) fun x => ?_
  refine (rawDecode_FA _ _ _ _ rfl).trans ?_
  show decodeFA _ 0x03 _ = _
  simp (disch := omega) only [decodeFA, zf, need, FM.ea, FM.vea, extract_append_high, extract_append_low, extract_self,
    lsbD_append_high, lsbD_append_low, lsbD_ofBool, ofBool_eq_one, Guard.ofCode_code, Cond.ofCode_code, Scope.ofCode_code,
    DType.ofCode_code, RM.ofCode_code, Size.ofCode_code, SliceOp.ofCode_code, RedOp.ofCode_code, AMode.ofCode_code,
    RoleId.ofCode_code, beq_self_eq_true, Bool.and_self, if_true, Nat.sub_self]
  all_goals rfl

theorem mulhu (m : Mark) (rd ra rb : G6) (g : Guard) : Statement (.mulhu m rd ra rb g) := by
  refine one_word rfl rfl (fun _ _ _ => by simp only [ne_eq, reduceCtorEq, not_false_eq_true]) fun x => ?_
  refine (rawDecode_FA _ _ _ _ rfl).trans ?_
  show decodeFA _ 0x03 _ = _
  simp (disch := omega) only [decodeFA, zf, need, FM.ea, FM.vea, extract_append_high, extract_append_low, extract_self,
    lsbD_append_high, lsbD_append_low, lsbD_ofBool, ofBool_eq_one, Guard.ofCode_code, Cond.ofCode_code, Scope.ofCode_code,
    DType.ofCode_code, RM.ofCode_code, Size.ofCode_code, SliceOp.ofCode_code, RedOp.ofCode_code, AMode.ofCode_code,
    RoleId.ofCode_code, beq_self_eq_true, Bool.and_self, if_true, Nat.sub_self]
  all_goals rfl

theorem div (m : Mark) (rd ra rb : G6) (g : Guard) : Statement (.div m rd ra rb g) := by
  refine one_word rfl rfl (fun _ _ _ => by simp only [ne_eq, reduceCtorEq, not_false_eq_true]) fun x => ?_
  refine (rawDecode_FA _ _ _ _ rfl).trans ?_
  show decodeFA _ 0x04 _ = _
  simp (disch := omega) only [decodeFA, zf, need, FM.ea, FM.vea, extract_append_high, extract_append_low, extract_self,
    lsbD_append_high, lsbD_append_low, lsbD_ofBool, ofBool_eq_one, Guard.ofCode_code, Cond.ofCode_code, Scope.ofCode_code,
    DType.ofCode_code, RM.ofCode_code, Size.ofCode_code, SliceOp.ofCode_code, RedOp.ofCode_code, AMode.ofCode_code,
    RoleId.ofCode_code, beq_self_eq_true, Bool.and_self, if_true, Nat.sub_self]
  all_goals rfl

theorem divu (m : Mark) (rd ra rb : G6) (g : Guard) : Statement (.divu m rd ra rb g) := by
  refine one_word rfl rfl (fun _ _ _ => by simp only [ne_eq, reduceCtorEq, not_false_eq_true]) fun x => ?_
  refine (rawDecode_FA _ _ _ _ rfl).trans ?_
  show decodeFA _ 0x04 _ = _
  simp (disch := omega) only [decodeFA, zf, need, FM.ea, FM.vea, extract_append_high, extract_append_low, extract_self,
    lsbD_append_high, lsbD_append_low, lsbD_ofBool, ofBool_eq_one, Guard.ofCode_code, Cond.ofCode_code, Scope.ofCode_code,
    DType.ofCode_code, RM.ofCode_code, Size.ofCode_code, SliceOp.ofCode_code, RedOp.ofCode_code, AMode.ofCode_code,
    RoleId.ofCode_code, beq_self_eq_true, Bool.and_self, if_true, Nat.sub_self]
  all_goals rfl

theorem rem (m : Mark) (rd ra rb : G6) (g : Guard) : Statement (.rem m rd ra rb g) := by
  refine one_word rfl rfl (fun _ _ _ => by simp only [ne_eq, reduceCtorEq, not_false_eq_true]) fun x => ?_
  refine (rawDecode_FA _ _ _ _ rfl).trans ?_
  show decodeFA _ 0x04 _ = _
  simp (disch := omega) only [decodeFA, zf, need, FM.ea, FM.vea, extract_append_high, extract_append_low, extract_self,
    lsbD_append_high, lsbD_append_low, lsbD_ofBool, ofBool_eq_one, Guard.ofCode_code, Cond.ofCode_code, Scope.ofCode_code,
    DType.ofCode_code, RM.ofCode_code, Size.ofCode_code, SliceOp.ofCode_code, RedOp.ofCode_code, AMode.ofCode_code,
    RoleId.ofCode_code, beq_self_eq_true, Bool.and_self, if_true, Nat.sub_self]
  all_goals rfl

theorem remu (m : Mark) (rd ra rb : G6) (g : Guard) : Statement (.remu m rd ra rb g) := by
  refine one_word rfl rfl (fun _ _ _ => by simp only [ne_eq, reduceCtorEq, not_false_eq_true]) fun x => ?_
  refine (rawDecode_FA _ _ _ _ rfl).trans ?_
  show decodeFA _ 0x04 _ = _
  simp (disch := omega) only [decodeFA, zf, need, FM.ea, FM.vea, extract_append_high, extract_append_low, extract_self,
    lsbD_append_high, lsbD_append_low, lsbD_ofBool, ofBool_eq_one, Guard.ofCode_code, Cond.ofCode_code, Scope.ofCode_code,
    DType.ofCode_code, RM.ofCode_code, Size.ofCode_code, SliceOp.ofCode_code, RedOp.ofCode_code, AMode.ofCode_code,
    RoleId.ofCode_code, beq_self_eq_true, Bool.and_self, if_true, Nat.sub_self]
  all_goals rfl

theorem and (m : Mark) (rd ra rb : G6) (g : Guard) : Statement (.and m rd ra rb g) := by
  refine one_word rfl rfl (fun _ _ _ => by simp only [ne_eq, reduceCtorEq, not_false_eq_true]) fun x => ?_
  refine (rawDecode_FA _ _ _ _ rfl).trans ?_
  show decodeFA _ 0x05 _ = _
  simp (disch := omega) only [decodeFA, zf, need, FM.ea, FM.vea, extract_append_high, extract_append_low, extract_self,
    lsbD_append_high, lsbD_append_low, lsbD_ofBool, ofBool_eq_one, Guard.ofCode_code, Cond.ofCode_code, Scope.ofCode_code,
    DType.ofCode_code, RM.ofCode_code, Size.ofCode_code, SliceOp.ofCode_code, RedOp.ofCode_code, AMode.ofCode_code,
    RoleId.ofCode_code, beq_self_eq_true, Bool.and_self, if_true, Nat.sub_self]
  all_goals rfl

theorem or (m : Mark) (rd ra rb : G6) (g : Guard) : Statement (.or m rd ra rb g) := by
  refine one_word rfl rfl (fun _ _ _ => by simp only [ne_eq, reduceCtorEq, not_false_eq_true]) fun x => ?_
  refine (rawDecode_FA _ _ _ _ rfl).trans ?_
  show decodeFA _ 0x05 _ = _
  simp (disch := omega) only [decodeFA, zf, need, FM.ea, FM.vea, extract_append_high, extract_append_low, extract_self,
    lsbD_append_high, lsbD_append_low, lsbD_ofBool, ofBool_eq_one, Guard.ofCode_code, Cond.ofCode_code, Scope.ofCode_code,
    DType.ofCode_code, RM.ofCode_code, Size.ofCode_code, SliceOp.ofCode_code, RedOp.ofCode_code, AMode.ofCode_code,
    RoleId.ofCode_code, beq_self_eq_true, Bool.and_self, if_true, Nat.sub_self]
  all_goals rfl

theorem xor (m : Mark) (rd ra rb : G6) (g : Guard) : Statement (.xor m rd ra rb g) := by
  refine one_word rfl rfl (fun _ _ _ => by simp only [ne_eq, reduceCtorEq, not_false_eq_true]) fun x => ?_
  refine (rawDecode_FA _ _ _ _ rfl).trans ?_
  show decodeFA _ 0x05 _ = _
  simp (disch := omega) only [decodeFA, zf, need, FM.ea, FM.vea, extract_append_high, extract_append_low, extract_self,
    lsbD_append_high, lsbD_append_low, lsbD_ofBool, ofBool_eq_one, Guard.ofCode_code, Cond.ofCode_code, Scope.ofCode_code,
    DType.ofCode_code, RM.ofCode_code, Size.ofCode_code, SliceOp.ofCode_code, RedOp.ofCode_code, AMode.ofCode_code,
    RoleId.ofCode_code, beq_self_eq_true, Bool.and_self, if_true, Nat.sub_self]
  all_goals rfl

theorem andn (m : Mark) (rd ra rb : G6) (g : Guard) : Statement (.andn m rd ra rb g) := by
  refine one_word rfl rfl (fun _ _ _ => by simp only [ne_eq, reduceCtorEq, not_false_eq_true]) fun x => ?_
  refine (rawDecode_FA _ _ _ _ rfl).trans ?_
  show decodeFA _ 0x05 _ = _
  simp (disch := omega) only [decodeFA, zf, need, FM.ea, FM.vea, extract_append_high, extract_append_low, extract_self,
    lsbD_append_high, lsbD_append_low, lsbD_ofBool, ofBool_eq_one, Guard.ofCode_code, Cond.ofCode_code, Scope.ofCode_code,
    DType.ofCode_code, RM.ofCode_code, Size.ofCode_code, SliceOp.ofCode_code, RedOp.ofCode_code, AMode.ofCode_code,
    RoleId.ofCode_code, beq_self_eq_true, Bool.and_self, if_true, Nat.sub_self]
  all_goals rfl

theorem shl (m : Mark) (rd ra rb : G6) (g : Guard) : Statement (.shl m rd ra rb g) := by
  refine one_word rfl rfl (fun _ _ _ => by simp only [ne_eq, reduceCtorEq, not_false_eq_true]) fun x => ?_
  refine (rawDecode_FA _ _ _ _ rfl).trans ?_
  show decodeFA _ 0x06 _ = _
  simp (disch := omega) only [decodeFA, zf, need, FM.ea, FM.vea, extract_append_high, extract_append_low, extract_self,
    lsbD_append_high, lsbD_append_low, lsbD_ofBool, ofBool_eq_one, Guard.ofCode_code, Cond.ofCode_code, Scope.ofCode_code,
    DType.ofCode_code, RM.ofCode_code, Size.ofCode_code, SliceOp.ofCode_code, RedOp.ofCode_code, AMode.ofCode_code,
    RoleId.ofCode_code, beq_self_eq_true, Bool.and_self, if_true, Nat.sub_self]
  all_goals rfl

theorem shr (m : Mark) (rd ra rb : G6) (g : Guard) : Statement (.shr m rd ra rb g) := by
  refine one_word rfl rfl (fun _ _ _ => by simp only [ne_eq, reduceCtorEq, not_false_eq_true]) fun x => ?_
  refine (rawDecode_FA _ _ _ _ rfl).trans ?_
  show decodeFA _ 0x06 _ = _
  simp (disch := omega) only [decodeFA, zf, need, FM.ea, FM.vea, extract_append_high, extract_append_low, extract_self,
    lsbD_append_high, lsbD_append_low, lsbD_ofBool, ofBool_eq_one, Guard.ofCode_code, Cond.ofCode_code, Scope.ofCode_code,
    DType.ofCode_code, RM.ofCode_code, Size.ofCode_code, SliceOp.ofCode_code, RedOp.ofCode_code, AMode.ofCode_code,
    RoleId.ofCode_code, beq_self_eq_true, Bool.and_self, if_true, Nat.sub_self]
  all_goals rfl

theorem sar (m : Mark) (rd ra rb : G6) (g : Guard) : Statement (.sar m rd ra rb g) := by
  refine one_word rfl rfl (fun _ _ _ => by simp only [ne_eq, reduceCtorEq, not_false_eq_true]) fun x => ?_
  refine (rawDecode_FA _ _ _ _ rfl).trans ?_
  show decodeFA _ 0x06 _ = _
  simp (disch := omega) only [decodeFA, zf, need, FM.ea, FM.vea, extract_append_high, extract_append_low, extract_self,
    lsbD_append_high, lsbD_append_low, lsbD_ofBool, ofBool_eq_one, Guard.ofCode_code, Cond.ofCode_code, Scope.ofCode_code,
    DType.ofCode_code, RM.ofCode_code, Size.ofCode_code, SliceOp.ofCode_code, RedOp.ofCode_code, AMode.ofCode_code,
    RoleId.ofCode_code, beq_self_eq_true, Bool.and_self, if_true, Nat.sub_self]
  all_goals rfl

theorem rotr (m : Mark) (rd ra rb : G6) (g : Guard) : Statement (.rotr m rd ra rb g) := by
  refine one_word rfl rfl (fun _ _ _ => by simp only [ne_eq, reduceCtorEq, not_false_eq_true]) fun x => ?_
  refine (rawDecode_FA _ _ _ _ rfl).trans ?_
  show decodeFA _ 0x06 _ = _
  simp (disch := omega) only [decodeFA, zf, need, FM.ea, FM.vea, extract_append_high, extract_append_low, extract_self,
    lsbD_append_high, lsbD_append_low, lsbD_ofBool, ofBool_eq_one, Guard.ofCode_code, Cond.ofCode_code, Scope.ofCode_code,
    DType.ofCode_code, RM.ofCode_code, Size.ofCode_code, SliceOp.ofCode_code, RedOp.ofCode_code, AMode.ofCode_code,
    RoleId.ofCode_code, beq_self_eq_true, Bool.and_self, if_true, Nat.sub_self]
  all_goals rfl

theorem min (m : Mark) (rd ra rb : G6) (g : Guard) : Statement (.min m rd ra rb g) := by
  refine one_word rfl rfl (fun _ _ _ => by simp only [ne_eq, reduceCtorEq, not_false_eq_true]) fun x => ?_
  refine (rawDecode_FA _ _ _ _ rfl).trans ?_
  show decodeFA _ 0x07 _ = _
  simp (disch := omega) only [decodeFA, zf, need, FM.ea, FM.vea, extract_append_high, extract_append_low, extract_self,
    lsbD_append_high, lsbD_append_low, lsbD_ofBool, ofBool_eq_one, Guard.ofCode_code, Cond.ofCode_code, Scope.ofCode_code,
    DType.ofCode_code, RM.ofCode_code, Size.ofCode_code, SliceOp.ofCode_code, RedOp.ofCode_code, AMode.ofCode_code,
    RoleId.ofCode_code, beq_self_eq_true, Bool.and_self, if_true, Nat.sub_self]
  all_goals rfl

theorem max (m : Mark) (rd ra rb : G6) (g : Guard) : Statement (.max m rd ra rb g) := by
  refine one_word rfl rfl (fun _ _ _ => by simp only [ne_eq, reduceCtorEq, not_false_eq_true]) fun x => ?_
  refine (rawDecode_FA _ _ _ _ rfl).trans ?_
  show decodeFA _ 0x07 _ = _
  simp (disch := omega) only [decodeFA, zf, need, FM.ea, FM.vea, extract_append_high, extract_append_low, extract_self,
    lsbD_append_high, lsbD_append_low, lsbD_ofBool, ofBool_eq_one, Guard.ofCode_code, Cond.ofCode_code, Scope.ofCode_code,
    DType.ofCode_code, RM.ofCode_code, Size.ofCode_code, SliceOp.ofCode_code, RedOp.ofCode_code, AMode.ofCode_code,
    RoleId.ofCode_code, beq_self_eq_true, Bool.and_self, if_true, Nat.sub_self]
  all_goals rfl

theorem minu (m : Mark) (rd ra rb : G6) (g : Guard) : Statement (.minu m rd ra rb g) := by
  refine one_word rfl rfl (fun _ _ _ => by simp only [ne_eq, reduceCtorEq, not_false_eq_true]) fun x => ?_
  refine (rawDecode_FA _ _ _ _ rfl).trans ?_
  show decodeFA _ 0x07 _ = _
  simp (disch := omega) only [decodeFA, zf, need, FM.ea, FM.vea, extract_append_high, extract_append_low, extract_self,
    lsbD_append_high, lsbD_append_low, lsbD_ofBool, ofBool_eq_one, Guard.ofCode_code, Cond.ofCode_code, Scope.ofCode_code,
    DType.ofCode_code, RM.ofCode_code, Size.ofCode_code, SliceOp.ofCode_code, RedOp.ofCode_code, AMode.ofCode_code,
    RoleId.ofCode_code, beq_self_eq_true, Bool.and_self, if_true, Nat.sub_self]
  all_goals rfl

theorem maxu (m : Mark) (rd ra rb : G6) (g : Guard) : Statement (.maxu m rd ra rb g) := by
  refine one_word rfl rfl (fun _ _ _ => by simp only [ne_eq, reduceCtorEq, not_false_eq_true]) fun x => ?_
  refine (rawDecode_FA _ _ _ _ rfl).trans ?_
  show decodeFA _ 0x07 _ = _
  simp (disch := omega) only [decodeFA, zf, need, FM.ea, FM.vea, extract_append_high, extract_append_low, extract_self,
    lsbD_append_high, lsbD_append_low, lsbD_ofBool, ofBool_eq_one, Guard.ofCode_code, Cond.ofCode_code, Scope.ofCode_code,
    DType.ofCode_code, RM.ofCode_code, Size.ofCode_code, SliceOp.ofCode_code, RedOp.ofCode_code, AMode.ofCode_code,
    RoleId.ofCode_code, beq_self_eq_true, Bool.and_self, if_true, Nat.sub_self]
  all_goals rfl

theorem clz (m : Mark) (rd ra : G6) (g : Guard) : Statement (.clz m rd ra g) := by
  refine one_word rfl rfl (fun _ _ _ => by simp only [ne_eq, reduceCtorEq, not_false_eq_true]) fun x => ?_
  refine (rawDecode_FA _ _ _ _ rfl).trans ?_
  show decodeFA _ 0x08 _ = _
  simp (disch := omega) only [decodeFA, zf, need, FM.ea, FM.vea, extract_append_high, extract_append_low, extract_self,
    lsbD_append_high, lsbD_append_low, lsbD_ofBool, ofBool_eq_one, Guard.ofCode_code, Cond.ofCode_code, Scope.ofCode_code,
    DType.ofCode_code, RM.ofCode_code, Size.ofCode_code, SliceOp.ofCode_code, RedOp.ofCode_code, AMode.ofCode_code,
    RoleId.ofCode_code, beq_self_eq_true, Bool.and_self, if_true, Nat.sub_self]
  all_goals rfl

theorem ctz (m : Mark) (rd ra : G6) (g : Guard) : Statement (.ctz m rd ra g) := by
  refine one_word rfl rfl (fun _ _ _ => by simp only [ne_eq, reduceCtorEq, not_false_eq_true]) fun x => ?_
  refine (rawDecode_FA _ _ _ _ rfl).trans ?_
  show decodeFA _ 0x08 _ = _
  simp (disch := omega) only [decodeFA, zf, need, FM.ea, FM.vea, extract_append_high, extract_append_low, extract_self,
    lsbD_append_high, lsbD_append_low, lsbD_ofBool, ofBool_eq_one, Guard.ofCode_code, Cond.ofCode_code, Scope.ofCode_code,
    DType.ofCode_code, RM.ofCode_code, Size.ofCode_code, SliceOp.ofCode_code, RedOp.ofCode_code, AMode.ofCode_code,
    RoleId.ofCode_code, beq_self_eq_true, Bool.and_self, if_true, Nat.sub_self]
  all_goals rfl

theorem popc (m : Mark) (rd ra : G6) (g : Guard) : Statement (.popc m rd ra g) := by
  refine one_word rfl rfl (fun _ _ _ => by simp only [ne_eq, reduceCtorEq, not_false_eq_true]) fun x => ?_
  refine (rawDecode_FA _ _ _ _ rfl).trans ?_
  show decodeFA _ 0x08 _ = _
  simp (disch := omega) only [decodeFA, zf, need, FM.ea, FM.vea, extract_append_high, extract_append_low, extract_self,
    lsbD_append_high, lsbD_append_low, lsbD_ofBool, ofBool_eq_one, Guard.ofCode_code, Cond.ofCode_code, Scope.ofCode_code,
    DType.ofCode_code, RM.ofCode_code, Size.ofCode_code, SliceOp.ofCode_code, RedOp.ofCode_code, AMode.ofCode_code,
    RoleId.ofCode_code, beq_self_eq_true, Bool.and_self, if_true, Nat.sub_self]
  all_goals rfl

theorem sext (m : Mark) (rd ra : G6) (w : BitVec 6) (g : Guard) : Statement (.sext m rd ra w g) := by
  refine one_word rfl rfl (fun _ _ _ => by simp only [ne_eq, reduceCtorEq, not_false_eq_true]) fun x => ?_
  refine (rawDecode_FA _ _ _ _ rfl).trans ?_
  show decodeFA _ 0x09 _ = _
  simp (disch := omega) only [decodeFA, zf, need, FM.ea, FM.vea, extract_append_high, extract_append_low, extract_self,
    lsbD_append_high, lsbD_append_low, lsbD_ofBool, ofBool_eq_one, Guard.ofCode_code, Cond.ofCode_code, Scope.ofCode_code,
    DType.ofCode_code, RM.ofCode_code, Size.ofCode_code, SliceOp.ofCode_code, RedOp.ofCode_code, AMode.ofCode_code,
    RoleId.ofCode_code, beq_self_eq_true, Bool.and_self, if_true, Nat.sub_self]
  all_goals rfl

theorem zext (m : Mark) (rd ra : G6) (w : BitVec 6) (g : Guard) : Statement (.zext m rd ra w g) := by
  refine one_word rfl rfl (fun _ _ _ => by simp only [ne_eq, reduceCtorEq, not_false_eq_true]) fun x => ?_
  refine (rawDecode_FA _ _ _ _ rfl).trans ?_
  show decodeFA _ 0x09 _ = _
  simp (disch := omega) only [decodeFA, zf, need, FM.ea, FM.vea, extract_append_high, extract_append_low, extract_self,
    lsbD_append_high, lsbD_append_low, lsbD_ofBool, ofBool_eq_one, Guard.ofCode_code, Cond.ofCode_code, Scope.ofCode_code,
    DType.ofCode_code, RM.ofCode_code, Size.ofCode_code, SliceOp.ofCode_code, RedOp.ofCode_code, AMode.ofCode_code,
    RoleId.ofCode_code, beq_self_eq_true, Bool.and_self, if_true, Nat.sub_self]
  all_goals rfl

theorem bfx (m : Mark) (rd ra : G6) (pos len : BitVec 6) (g : Guard) : Statement (.bfx m rd ra pos len g) := by
  refine one_word rfl rfl (fun _ _ _ => by simp only [ne_eq, reduceCtorEq, not_false_eq_true]) fun x => ?_
  refine (rawDecode_FA _ _ _ _ rfl).trans ?_
  show decodeFA _ 0x0A _ = _
  simp (disch := omega) only [decodeFA, zf, need, FM.ea, FM.vea, extract_append_high, extract_append_low, extract_self,
    lsbD_append_high, lsbD_append_low, lsbD_ofBool, ofBool_eq_one, Guard.ofCode_code, Cond.ofCode_code, Scope.ofCode_code,
    DType.ofCode_code, RM.ofCode_code, Size.ofCode_code, SliceOp.ofCode_code, RedOp.ofCode_code, AMode.ofCode_code,
    RoleId.ofCode_code, beq_self_eq_true, Bool.and_self, if_true, Nat.sub_self]

theorem bfi (m : Mark) (rd ra rb : G6) (pos len : BitVec 6) (g : Guard) : Statement (.bfi m rd ra rb pos len g) := by
  refine one_word rfl rfl (fun _ _ _ => by simp only [ne_eq, reduceCtorEq, not_false_eq_true]) fun x => ?_
  refine (rawDecode_FA _ _ _ _ rfl).trans ?_
  show decodeFA _ 0x0B _ = _
  simp (disch := omega) only [decodeFA, zf, need, FM.ea, FM.vea, extract_append_high, extract_append_low, extract_self,
    lsbD_append_high, lsbD_append_low, lsbD_ofBool, ofBool_eq_one, Guard.ofCode_code, Cond.ofCode_code, Scope.ofCode_code,
    DType.ofCode_code, RM.ofCode_code, Size.ofCode_code, SliceOp.ofCode_code, RedOp.ofCode_code, AMode.ofCode_code,
    RoleId.ofCode_code, beq_self_eq_true, Bool.and_self, if_true, Nat.sub_self]

theorem sel (m : Mark) (rd ra rb : G6) (p : P3) (g : Guard) : Statement (.sel m rd ra rb p g) := by
  refine one_word rfl rfl (fun _ _ _ => by simp only [ne_eq, reduceCtorEq, not_false_eq_true]) fun x => ?_
  refine (rawDecode_FA _ _ _ _ rfl).trans ?_
  show decodeFA _ 0x0D _ = _
  simp (disch := omega) only [decodeFA, zf, need, FM.ea, FM.vea, extract_append_high, extract_append_low, extract_self,
    lsbD_append_high, lsbD_append_low, lsbD_ofBool, ofBool_eq_one, Guard.ofCode_code, Cond.ofCode_code, Scope.ofCode_code,
    DType.ofCode_code, RM.ofCode_code, Size.ofCode_code, SliceOp.ofCode_code, RedOp.ofCode_code, AMode.ofCode_code,
    RoleId.ofCode_code, beq_self_eq_true, Bool.and_self, if_true, Nat.sub_self]
  all_goals rfl

theorem li (m : Mark) (rd : G6) (imm : BitVec 32) (g : Guard) : Statement (.li m rd imm g) := by
  refine one_word rfl rfl (fun _ _ _ => by simp only [ne_eq, reduceCtorEq, not_false_eq_true]) fun x => ?_
  refine (rawDecode_FB _ _ _ _ rfl).trans ?_
  show decodeFB _ 0x0E _ = _
  simp (disch := omega) only [decodeFB, zf, need, FM.ea, FM.vea, extract_append_high, extract_append_low, extract_self,
    lsbD_append_high, lsbD_append_low, lsbD_ofBool, ofBool_eq_one, Guard.ofCode_code, Cond.ofCode_code, Scope.ofCode_code,
    DType.ofCode_code, RM.ofCode_code, Size.ofCode_code, SliceOp.ofCode_code, RedOp.ofCode_code, AMode.ofCode_code,
    RoleId.ofCode_code, beq_self_eq_true, Bool.and_self, if_true, Nat.sub_self]

theorem lih (m : Mark) (rd ra : G6) (imm : BitVec 32) (g : Guard) : Statement (.lih m rd ra imm g) := by
  refine one_word rfl rfl (fun _ _ _ => by simp only [ne_eq, reduceCtorEq, not_false_eq_true]) fun x => ?_
  refine (rawDecode_FB _ _ _ _ rfl).trans ?_
  show decodeFB _ 0x0F _ = _
  simp (disch := omega) only [decodeFB, zf, need, FM.ea, FM.vea, extract_append_high, extract_append_low, extract_self,
    lsbD_append_high, lsbD_append_low, lsbD_ofBool, ofBool_eq_one, Guard.ofCode_code, Cond.ofCode_code, Scope.ofCode_code,
    DType.ofCode_code, RM.ofCode_code, Size.ofCode_code, SliceOp.ofCode_code, RedOp.ofCode_code, AMode.ofCode_code,
    RoleId.ofCode_code, beq_self_eq_true, Bool.and_self, if_true, Nat.sub_self]

theorem mov (m : Mark) (rd ra : G6) (g : Guard) : Statement (.mov m rd ra g) := by
  refine one_word rfl rfl (fun _ _ _ => by simp only [ne_eq, reduceCtorEq, not_false_eq_true]) fun x => ?_
  refine (rawDecode_FA _ _ _ _ rfl).trans ?_
  show decodeFA _ 0x10 _ = _
  simp (disch := omega) only [decodeFA, zf, need, FM.ea, FM.vea, extract_append_high, extract_append_low, extract_self,
    lsbD_append_high, lsbD_append_low, lsbD_ofBool, ofBool_eq_one, Guard.ofCode_code, Cond.ofCode_code, Scope.ofCode_code,
    DType.ofCode_code, RM.ofCode_code, Size.ofCode_code, SliceOp.ofCode_code, RedOp.ofCode_code, AMode.ofCode_code,
    RoleId.ofCode_code, beq_self_eq_true, Bool.and_self, if_true, Nat.sub_self]

theorem lea (m : Mark) (rd : G6) (ea : EA) (g : Guard) : Statement (.lea m rd ea g) := by
  refine one_word rfl rfl (fun _ _ _ => by simp only [ne_eq, reduceCtorEq, not_false_eq_true]) fun x => ?_
  refine (rawDecode_FM _ _ _ _ rfl).trans ?_
  show decodeFM _ 0x0C _ = _
  simp (disch := omega) only [decodeFM, zf, need, FM.ea, FM.vea, extract_append_high, extract_append_low, extract_self,
    lsbD_append_high, lsbD_append_low, lsbD_ofBool, ofBool_eq_one, Guard.ofCode_code, Cond.ofCode_code, Scope.ofCode_code,
    DType.ofCode_code, RM.ofCode_code, Size.ofCode_code, SliceOp.ofCode_code, RedOp.ofCode_code, AMode.ofCode_code,
    RoleId.ofCode_code, beq_self_eq_true, Bool.and_self, if_true, Nat.sub_self]

theorem addi (m : Mark) (rd ra : G6) (imm : BitVec 32) (g : Guard) : Statement (.addi m rd ra imm g) := by
  refine one_word rfl rfl (fun _ _ _ => by simp only [ne_eq, reduceCtorEq, not_false_eq_true]) fun x => ?_
  refine (rawDecode_FB _ _ _ _ rfl).trans ?_
  show decodeFB _ 0x13 _ = _
  simp (disch := omega) only [decodeFB, zf, need, FM.ea, FM.vea, extract_append_high, extract_append_low, extract_self,
    lsbD_append_high, lsbD_append_low, lsbD_ofBool, ofBool_eq_one, Guard.ofCode_code, Cond.ofCode_code, Scope.ofCode_code,
    DType.ofCode_code, RM.ofCode_code, Size.ofCode_code, SliceOp.ofCode_code, RedOp.ofCode_code, AMode.ofCode_code,
    RoleId.ofCode_code, beq_self_eq_true, Bool.and_self, if_true, Nat.sub_self]

theorem andi (m : Mark) (rd ra : G6) (imm : BitVec 32) (g : Guard) : Statement (.andi m rd ra imm g) := by
  refine one_word rfl rfl (fun _ _ _ => by simp only [ne_eq, reduceCtorEq, not_false_eq_true]) fun x => ?_
  refine (rawDecode_FB _ _ _ _ rfl).trans ?_
  show decodeFB _ 0x14 _ = _
  simp (disch := omega) only [decodeFB, zf, need, FM.ea, FM.vea, extract_append_high, extract_append_low, extract_self,
    lsbD_append_high, lsbD_append_low, lsbD_ofBool, ofBool_eq_one, Guard.ofCode_code, Cond.ofCode_code, Scope.ofCode_code,
    DType.ofCode_code, RM.ofCode_code, Size.ofCode_code, SliceOp.ofCode_code, RedOp.ofCode_code, AMode.ofCode_code,
    RoleId.ofCode_code, beq_self_eq_true, Bool.and_self, if_true, Nat.sub_self]

theorem ori (m : Mark) (rd ra : G6) (imm : BitVec 32) (g : Guard) : Statement (.ori m rd ra imm g) := by
  refine one_word rfl rfl (fun _ _ _ => by simp only [ne_eq, reduceCtorEq, not_false_eq_true]) fun x => ?_
  refine (rawDecode_FB _ _ _ _ rfl).trans ?_
  show decodeFB _ 0x15 _ = _
  simp (disch := omega) only [decodeFB, zf, need, FM.ea, FM.vea, extract_append_high, extract_append_low, extract_self,
    lsbD_append_high, lsbD_append_low, lsbD_ofBool, ofBool_eq_one, Guard.ofCode_code, Cond.ofCode_code, Scope.ofCode_code,
    DType.ofCode_code, RM.ofCode_code, Size.ofCode_code, SliceOp.ofCode_code, RedOp.ofCode_code, AMode.ofCode_code,
    RoleId.ofCode_code, beq_self_eq_true, Bool.and_self, if_true, Nat.sub_self]

theorem xori (m : Mark) (rd ra : G6) (imm : BitVec 32) (g : Guard) : Statement (.xori m rd ra imm g) := by
  refine one_word rfl rfl (fun _ _ _ => by simp only [ne_eq, reduceCtorEq, not_false_eq_true]) fun x => ?_
  refine (rawDecode_FB _ _ _ _ rfl).trans ?_
  show decodeFB _ 0x16 _ = _
  simp (disch := omega) only [decodeFB, zf, need, FM.ea, FM.vea, extract_append_high, extract_append_low, extract_self,
    lsbD_append_high, lsbD_append_low, lsbD_ofBool, ofBool_eq_one, Guard.ofCode_code, Cond.ofCode_code, Scope.ofCode_code,
    DType.ofCode_code, RM.ofCode_code, Size.ofCode_code, SliceOp.ofCode_code, RedOp.ofCode_code, AMode.ofCode_code,
    RoleId.ofCode_code, beq_self_eq_true, Bool.and_self, if_true, Nat.sub_self]

theorem shli (m : Mark) (rd ra : G6) (sh : BitVec 6) (g : Guard) : Statement (.shli m rd ra sh g) := by
  refine one_word rfl rfl (fun _ _ _ => by simp only [ne_eq, reduceCtorEq, not_false_eq_true]) fun x => ?_
  refine (rawDecode_FB _ _ _ _ rfl).trans ?_
  show decodeFB _ 0x17 _ = _
  simp (disch := omega) only [decodeFB, zf, need, FM.ea, FM.vea, extract_append_high, extract_append_low, extract_self,
    lsbD_append_high, lsbD_append_low, lsbD_ofBool, ofBool_eq_one, Guard.ofCode_code, Cond.ofCode_code, Scope.ofCode_code,
    DType.ofCode_code, RM.ofCode_code, Size.ofCode_code, SliceOp.ofCode_code, RedOp.ofCode_code, AMode.ofCode_code,
    RoleId.ofCode_code, beq_self_eq_true, Bool.and_self, if_true, Nat.sub_self]
  all_goals rfl

theorem shri (m : Mark) (rd ra : G6) (sh : BitVec 6) (g : Guard) : Statement (.shri m rd ra sh g) := by
  refine one_word rfl rfl (fun _ _ _ => by simp only [ne_eq, reduceCtorEq, not_false_eq_true]) fun x => ?_
  refine (rawDecode_FB _ _ _ _ rfl).trans ?_
  show decodeFB _ 0x18 _ = _
  simp (disch := omega) only [decodeFB, zf, need, FM.ea, FM.vea, extract_append_high, extract_append_low, extract_self,
    lsbD_append_high, lsbD_append_low, lsbD_ofBool, ofBool_eq_one, Guard.ofCode_code, Cond.ofCode_code, Scope.ofCode_code,
    DType.ofCode_code, RM.ofCode_code, Size.ofCode_code, SliceOp.ofCode_code, RedOp.ofCode_code, AMode.ofCode_code,
    RoleId.ofCode_code, beq_self_eq_true, Bool.and_self, if_true, Nat.sub_self]
  all_goals rfl

theorem sari (m : Mark) (rd ra : G6) (sh : BitVec 6) (g : Guard) : Statement (.sari m rd ra sh g) := by
  refine one_word rfl rfl (fun _ _ _ => by simp only [ne_eq, reduceCtorEq, not_false_eq_true]) fun x => ?_
  refine (rawDecode_FB _ _ _ _ rfl).trans ?_
  show decodeFB _ 0x19 _ = _
  simp (disch := omega) only [decodeFB, zf, need, FM.ea, FM.vea, extract_append_high, extract_append_low, extract_self,
    lsbD_append_high, lsbD_append_low, lsbD_ofBool, ofBool_eq_one, Guard.ofCode_code, Cond.ofCode_code, Scope.ofCode_code,
    DType.ofCode_code, RM.ofCode_code, Size.ofCode_code, SliceOp.ofCode_code, RedOp.ofCode_code, AMode.ofCode_code,
    RoleId.ofCode_code, beq_self_eq_true, Bool.and_self, if_true, Nat.sub_self]
  all_goals rfl

theorem cmp (m : Mark) (c : Cond) (pd : P3) (ra rb : G6) (g : Guard) : Statement (.cmp m c pd ra rb g) := by
  refine one_word rfl rfl (fun _ _ _ => by simp only [ne_eq, reduceCtorEq, not_false_eq_true]) fun x => ?_
  refine (rawDecode_FA _ _ _ _ rfl).trans ?_
  show decodeFA _ 0x11 _ = _
  simp (disch := omega) only [decodeFA, zf, need, FM.ea, FM.vea, extract_append_high, extract_append_low, extract_self,
    lsbD_append_high, lsbD_append_low, lsbD_ofBool, ofBool_eq_one, Guard.ofCode_code, Cond.ofCode_code, Scope.ofCode_code,
    DType.ofCode_code, RM.ofCode_code, Size.ofCode_code, SliceOp.ofCode_code, RedOp.ofCode_code, AMode.ofCode_code,
    RoleId.ofCode_code, beq_self_eq_true, Bool.and_self, if_true, Nat.sub_self]
  all_goals rfl

theorem cset (m : Mark) (c : Cond) (rd ra rb : G6) (g : Guard) : Statement (.cset m c rd ra rb g) := by
  refine one_word rfl rfl (fun _ _ _ => by simp only [ne_eq, reduceCtorEq, not_false_eq_true]) fun x => ?_
  refine (rawDecode_FA _ _ _ _ rfl).trans ?_
  show decodeFA _ 0x12 _ = _
  simp (disch := omega) only [decodeFA, zf, need, FM.ea, FM.vea, extract_append_high, extract_append_low, extract_self,
    lsbD_append_high, lsbD_append_low, lsbD_ofBool, ofBool_eq_one, Guard.ofCode_code, Cond.ofCode_code, Scope.ofCode_code,
    DType.ofCode_code, RM.ofCode_code, Size.ofCode_code, SliceOp.ofCode_code, RedOp.ofCode_code, AMode.ofCode_code,
    RoleId.ofCode_code, beq_self_eq_true, Bool.and_self, if_true, Nat.sub_self]
  all_goals rfl

theorem pand (m : Mark) (pd pa pb : P3) (g : Guard) : Statement (.pand m pd pa pb g) := by
  refine one_word rfl rfl (fun _ _ _ => by simp only [ne_eq, reduceCtorEq, not_false_eq_true]) fun x => ?_
  refine (rawDecode_FA _ _ _ _ rfl).trans ?_
  show decodeFA _ 0x1A _ = _
  simp (disch := omega) only [decodeFA, zf, need, FM.ea, FM.vea, extract_append_high, extract_append_low, extract_self,
    lsbD_append_high, lsbD_append_low, lsbD_ofBool, ofBool_eq_one, Guard.ofCode_code, Cond.ofCode_code, Scope.ofCode_code,
    DType.ofCode_code, RM.ofCode_code, Size.ofCode_code, SliceOp.ofCode_code, RedOp.ofCode_code, AMode.ofCode_code,
    RoleId.ofCode_code, beq_self_eq_true, Bool.and_self, if_true, Nat.sub_self]
  all_goals rfl

theorem por (m : Mark) (pd pa pb : P3) (g : Guard) : Statement (.por m pd pa pb g) := by
  refine one_word rfl rfl (fun _ _ _ => by simp only [ne_eq, reduceCtorEq, not_false_eq_true]) fun x => ?_
  refine (rawDecode_FA _ _ _ _ rfl).trans ?_
  show decodeFA _ 0x1A _ = _
  simp (disch := omega) only [decodeFA, zf, need, FM.ea, FM.vea, extract_append_high, extract_append_low, extract_self,
    lsbD_append_high, lsbD_append_low, lsbD_ofBool, ofBool_eq_one, Guard.ofCode_code, Cond.ofCode_code, Scope.ofCode_code,
    DType.ofCode_code, RM.ofCode_code, Size.ofCode_code, SliceOp.ofCode_code, RedOp.ofCode_code, AMode.ofCode_code,
    RoleId.ofCode_code, beq_self_eq_true, Bool.and_self, if_true, Nat.sub_self]
  all_goals rfl

theorem pxor (m : Mark) (pd pa pb : P3) (g : Guard) : Statement (.pxor m pd pa pb g) := by
  refine one_word rfl rfl (fun _ _ _ => by simp only [ne_eq, reduceCtorEq, not_false_eq_true]) fun x => ?_
  refine (rawDecode_FA _ _ _ _ rfl).trans ?_
  show decodeFA _ 0x1A _ = _
  simp (disch := omega) only [decodeFA, zf, need, FM.ea, FM.vea, extract_append_high, extract_append_low, extract_self,
    lsbD_append_high, lsbD_append_low, lsbD_ofBool, ofBool_eq_one, Guard.ofCode_code, Cond.ofCode_code, Scope.ofCode_code,
    DType.ofCode_code, RM.ofCode_code, Size.ofCode_code, SliceOp.ofCode_code, RedOp.ofCode_code, AMode.ofCode_code,
    RoleId.ofCode_code, beq_self_eq_true, Bool.and_self, if_true, Nat.sub_self]
  all_goals rfl

theorem pnot (m : Mark) (pd pa : P3) (g : Guard) : Statement (.pnot m pd pa g) := by
  refine one_word rfl rfl (fun _ _ _ => by simp only [ne_eq, reduceCtorEq, not_false_eq_true]) fun x => ?_
  refine (rawDecode_FA _ _ _ _ rfl).trans ?_
  show decodeFA _ 0x1A _ = _
  simp (disch := omega) only [decodeFA, zf, need, FM.ea, FM.vea, extract_append_high, extract_append_low, extract_self,
    lsbD_append_high, lsbD_append_low, lsbD_ofBool, ofBool_eq_one, Guard.ofCode_code, Cond.ofCode_code, Scope.ofCode_code,
    DType.ofCode_code, RM.ofCode_code, Size.ofCode_code, SliceOp.ofCode_code, RedOp.ofCode_code, AMode.ofCode_code,
    RoleId.ofCode_code, beq_self_eq_true, Bool.and_self, if_true, Nat.sub_self]
  all_goals rfl

theorem pmov (m : Mark) (pd pa : P3) (g : Guard) : Statement (.pmov m pd pa g) := by
  refine one_word rfl rfl (fun _ _ _ => by simp only [ne_eq, reduceCtorEq, not_false_eq_true]) fun x => ?_
  refine (rawDecode_FA _ _ _ _ rfl).trans ?_
  show decodeFA _ 0x1A _ = _
  simp (disch := omega) only [decodeFA, zf, need, FM.ea, FM.vea, extract_append_high, extract_append_low, extract_self,
    lsbD_append_high, lsbD_append_low, lsbD_ofBool, ofBool_eq_one, Guard.ofCode_code, Cond.ofCode_code, Scope.ofCode_code,
    DType.ofCode_code, RM.ofCode_code, Size.ofCode_code, SliceOp.ofCode_code, RedOp.ofCode_code, AMode.ofCode_code,
    RoleId.ofCode_code, beq_self_eq_true, Bool.and_self, if_true, Nat.sub_self]
  all_goals rfl

theorem pmovFromGeneral (m : Mark) (pd : P3) (ra : G6) (g : Guard) : Statement (.pmovFromGeneral m pd ra g) := by
  refine one_word rfl rfl (fun _ _ _ => by simp only [ne_eq, reduceCtorEq, not_false_eq_true]) fun x => ?_
  refine (rawDecode_FA _ _ _ _ rfl).trans ?_
  show decodeFA _ 0x1A _ = _
  simp (disch := omega) only [decodeFA, zf, need, FM.ea, FM.vea, extract_append_high, extract_append_low, extract_self,
    lsbD_append_high, lsbD_append_low, lsbD_ofBool, ofBool_eq_one, Guard.ofCode_code, Cond.ofCode_code, Scope.ofCode_code,
    DType.ofCode_code, RM.ofCode_code, Size.ofCode_code, SliceOp.ofCode_code, RedOp.ofCode_code, AMode.ofCode_code,
    RoleId.ofCode_code, beq_self_eq_true, Bool.and_self, if_true, Nat.sub_self]
  all_goals rfl

theorem pmovToGeneral (m : Mark) (rd : G6) (pa : P3) (g : Guard) : Statement (.pmovToGeneral m rd pa g) := by
  refine one_word rfl rfl (fun _ _ _ => by simp only [ne_eq, reduceCtorEq, not_false_eq_true]) fun x => ?_
  refine (rawDecode_FA _ _ _ _ rfl).trans ?_
  show decodeFA _ 0x1A _ = _
  simp (disch := omega) only [decodeFA, zf, need, FM.ea, FM.vea, extract_append_high, extract_append_low, extract_self,
    lsbD_append_high, lsbD_append_low, lsbD_ofBool, ofBool_eq_one, Guard.ofCode_code, Cond.ofCode_code, Scope.ofCode_code,
    DType.ofCode_code, RM.ofCode_code, Size.ofCode_code, SliceOp.ofCode_code, RedOp.ofCode_code, AMode.ofCode_code,
    RoleId.ofCode_code, beq_self_eq_true, Bool.and_self, if_true, Nat.sub_self]
  all_goals rfl

theorem bra (m : Mark) (disp : BitVec 32) : Statement (.bra m disp) := by
  refine one_word rfl rfl (fun _ _ _ => by simp only [ne_eq, reduceCtorEq, not_false_eq_true]) fun x => ?_
  refine (rawDecode_FJ _ _ _ _ rfl).trans ?_
  show decodeFJ _ 0x20 _ = _
  simp (disch := omega) only [decodeFJ, zf, need, FM.ea, FM.vea, extract_append_high, extract_append_low, extract_self,
    lsbD_append_high, lsbD_append_low, lsbD_ofBool, ofBool_eq_one, Guard.ofCode_code, Cond.ofCode_code, Scope.ofCode_code,
    DType.ofCode_code, RM.ofCode_code, Size.ofCode_code, SliceOp.ofCode_code, RedOp.ofCode_code, AMode.ofCode_code,
    RoleId.ofCode_code, beq_self_eq_true, Bool.and_self, if_true, Nat.sub_self]

theorem br (m : Mark) (ra : G6) : Statement (.br m ra) := by
  refine one_word rfl rfl (fun _ _ _ => by simp only [ne_eq, reduceCtorEq, not_false_eq_true]) fun x => ?_
  refine (rawDecode_FJ _ _ _ _ rfl).trans ?_
  show decodeFJ _ 0x21 _ = _
  simp (disch := omega) only [decodeFJ, zf, need, FM.ea, FM.vea, extract_append_high, extract_append_low, extract_self,
    lsbD_append_high, lsbD_append_low, lsbD_ofBool, ofBool_eq_one, Guard.ofCode_code, Cond.ofCode_code, Scope.ofCode_code,
    DType.ofCode_code, RM.ofCode_code, Size.ofCode_code, SliceOp.ofCode_code, RedOp.ofCode_code, AMode.ofCode_code,
    RoleId.ofCode_code, beq_self_eq_true, Bool.and_self, if_true, Nat.sub_self]

theorem brc (m : Mark) (c : Cond) (ra rb : G6) (disp : BitVec 32) : Statement (.brc m c ra rb disp) := by
  refine one_word rfl rfl (fun _ _ _ => by simp only [ne_eq, reduceCtorEq, not_false_eq_true]) fun x => ?_
  refine (rawDecode_FJ _ _ _ _ rfl).trans ?_
  show decodeFJ _ 0x22 _ = _
  simp (disch := omega) only [decodeFJ, zf, need, FM.ea, FM.vea, extract_append_high, extract_append_low, extract_self,
    lsbD_append_high, lsbD_append_low, lsbD_ofBool, ofBool_eq_one, Guard.ofCode_code, Cond.ofCode_code, Scope.ofCode_code,
    DType.ofCode_code, RM.ofCode_code, Size.ofCode_code, SliceOp.ofCode_code, RedOp.ofCode_code, AMode.ofCode_code,
    RoleId.ofCode_code, beq_self_eq_true, Bool.and_self, if_true, Nat.sub_self]

theorem brq (m : Mark) (ne : Bool) (q : BitVec 3) (disp : BitVec 32) : Statement (.brq m ne q disp) := by
  refine one_word rfl rfl (fun _ _ _ => by simp only [ne_eq, reduceCtorEq, not_false_eq_true]) fun x => ?_
  refine (rawDecode_FJ _ _ _ _ rfl).trans ?_
  show decodeFJ _ 0x23 _ = _
  simp (disch := omega) only [decodeFJ, zf, need, FM.ea, FM.vea, extract_append_high, extract_append_low, extract_self,
    lsbD_append_high, lsbD_append_low, lsbD_ofBool, ofBool_eq_one, Guard.ofCode_code, Cond.ofCode_code, Scope.ofCode_code,
    DType.ofCode_code, RM.ofCode_code, Size.ofCode_code, SliceOp.ofCode_code, RedOp.ofCode_code, AMode.ofCode_code,
    RoleId.ofCode_code, beq_self_eq_true, Bool.and_self, if_true, Nat.sub_self]
  cases ne <;> rfl

theorem call (m : Mark) (rd : G6) (disp : BitVec 32) : Statement (.call m rd disp) := by
  refine one_word rfl rfl (fun _ _ _ => by simp only [ne_eq, reduceCtorEq, not_false_eq_true]) fun x => ?_
  refine (rawDecode_FJ _ _ _ _ rfl).trans ?_
  show decodeFJ _ 0x24 _ = _
  simp (disch := omega) only [decodeFJ, zf, need, FM.ea, FM.vea, extract_append_high, extract_append_low, extract_self,
    lsbD_append_high, lsbD_append_low, lsbD_ofBool, ofBool_eq_one, Guard.ofCode_code, Cond.ofCode_code, Scope.ofCode_code,
    DType.ofCode_code, RM.ofCode_code, Size.ofCode_code, SliceOp.ofCode_code, RedOp.ofCode_code, AMode.ofCode_code,
    RoleId.ofCode_code, beq_self_eq_true, Bool.and_self, if_true, Nat.sub_self]

theorem ret (m : Mark) (ra : G6) : Statement (.ret m ra) := by
  refine one_word rfl rfl (fun _ _ _ => by simp only [ne_eq, reduceCtorEq, not_false_eq_true]) fun x => ?_
  refine (rawDecode_FJ _ _ _ _ rfl).trans ?_
  show decodeFJ _ 0x25 _ = _
  simp (disch := omega) only [decodeFJ, zf, need, FM.ea, FM.vea, extract_append_high, extract_append_low, extract_self,
    lsbD_append_high, lsbD_append_low, lsbD_ofBool, ofBool_eq_one, Guard.ofCode_code, Cond.ofCode_code, Scope.ofCode_code,
    DType.ofCode_code, RM.ofCode_code, Size.ofCode_code, SliceOp.ofCode_code, RedOp.ofCode_code, AMode.ofCode_code,
    RoleId.ofCode_code, beq_self_eq_true, Bool.and_self, if_true, Nat.sub_self]

theorem jmp (m : Mark) (rd ra : G6) : Statement (.jmp m rd ra) := by
  refine one_word rfl rfl (fun _ _ _ => by simp only [ne_eq, reduceCtorEq, not_false_eq_true]) fun x => ?_
  refine (rawDecode_FJ _ _ _ _ rfl).trans ?_
  show decodeFJ _ 0x26 _ = _
  simp (disch := omega) only [decodeFJ, zf, need, FM.ea, FM.vea, extract_append_high, extract_append_low, extract_self,
    lsbD_append_high, lsbD_append_low, lsbD_ofBool, ofBool_eq_one, Guard.ofCode_code, Cond.ofCode_code, Scope.ofCode_code,
    DType.ofCode_code, RM.ofCode_code, Size.ofCode_code, SliceOp.ofCode_code, RedOp.ofCode_code, AMode.ofCode_code,
    RoleId.ofCode_code, beq_self_eq_true, Bool.and_self, if_true, Nat.sub_self]

theorem loop (m : Mark) (lc : BitVec 2) (disp : BitVec 32) : Statement (.loop m lc disp) := by
  refine one_word rfl rfl (fun _ _ _ => by simp only [ne_eq, reduceCtorEq, not_false_eq_true]) fun x => ?_
  refine (rawDecode_FJ _ _ _ _ rfl).trans ?_
  show decodeFJ _ 0x27 _ = _
  simp (disch := omega) only [decodeFJ, zf, need, FM.ea, FM.vea, extract_append_high, extract_append_low, extract_self,
    lsbD_append_high, lsbD_append_low, lsbD_ofBool, ofBool_eq_one, Guard.ofCode_code, Cond.ofCode_code, Scope.ofCode_code,
    DType.ofCode_code, RM.ofCode_code, Size.ofCode_code, SliceOp.ofCode_code, RedOp.ofCode_code, AMode.ofCode_code,
    RoleId.ofCode_code, beq_self_eq_true, Bool.and_self, if_true, Nat.sub_self]

theorem lrec (m : Mark) (lc : BitVec 2) (ra : G6) (imm : BitVec 32) : Statement (.lrec m lc ra imm) := by
  refine one_word rfl rfl (fun _ _ _ => by simp only [ne_eq, reduceCtorEq, not_false_eq_true]) fun x => ?_
  refine (rawDecode_FJ _ _ _ _ rfl).trans ?_
  show decodeFJ _ 0x28 _ = _
  simp (disch := omega) only [decodeFJ, zf, need, FM.ea, FM.vea, extract_append_high, extract_append_low, extract_self,
    lsbD_append_high, lsbD_append_low, lsbD_ofBool, ofBool_eq_one, Guard.ofCode_code, Cond.ofCode_code, Scope.ofCode_code,
    DType.ofCode_code, RM.ofCode_code, Size.ofCode_code, SliceOp.ofCode_code, RedOp.ofCode_code, AMode.ofCode_code,
    RoleId.ofCode_code, beq_self_eq_true, Bool.and_self, if_true, Nat.sub_self]

theorem fin (m : Mark) : Statement (.fin m) := by
  refine one_word rfl rfl (fun _ _ _ => by simp only [ne_eq, reduceCtorEq, not_false_eq_true]) fun x => ?_
  refine (rawDecode_FJ _ _ _ _ rfl).trans ?_
  show decodeFJ _ 0x29 _ = _
  simp (disch := omega) only [decodeFJ, zf, need, FM.ea, FM.vea, extract_append_high, extract_append_low, extract_self,
    lsbD_append_high, lsbD_append_low, lsbD_ofBool, ofBool_eq_one, Guard.ofCode_code, Cond.ofCode_code, Scope.ofCode_code,
    DType.ofCode_code, RM.ofCode_code, Size.ofCode_code, SliceOp.ofCode_code, RedOp.ofCode_code, AMode.ofCode_code,
    RoleId.ofCode_code, beq_self_eq_true, Bool.and_self, if_true, Nat.sub_self]

theorem wait (m : Mark) (ra : G6) (imm : BitVec 32) : Statement (.wait m ra imm) := by
  refine one_word rfl rfl (fun _ _ _ => by simp only [ne_eq, reduceCtorEq, not_false_eq_true]) fun x => ?_
  refine (rawDecode_FJ _ _ _ _ rfl).trans ?_
  show decodeFJ _ 0x2B _ = _
  simp (disch := omega) only [decodeFJ, zf, need, FM.ea, FM.vea, extract_append_high, extract_append_low, extract_self,
    lsbD_append_high, lsbD_append_low, lsbD_ofBool, ofBool_eq_one, Guard.ofCode_code, Cond.ofCode_code, Scope.ofCode_code,
    DType.ofCode_code, RM.ofCode_code, Size.ofCode_code, SliceOp.ofCode_code, RedOp.ofCode_code, AMode.ofCode_code,
    RoleId.ofCode_code, beq_self_eq_true, Bool.and_self, if_true, Nat.sub_self]

theorem waitExpiry (c : Nat) (r : RoleId) : Statement (.waitExpiry c r) := no_word rfl rfl

theorem qcfg (m : Mark) (q : BitVec 4) (prod cons : RoleId) : Statement (.qcfg m q prod cons) := by
  refine one_word rfl rfl (fun _ _ _ => by simp only [ne_eq, reduceCtorEq, not_false_eq_true]) fun x => ?_
  refine (rawDecode_FQ _ _ _ _ rfl).trans ?_
  show decodeFQ _ 0x30 _ = _
  simp (disch := omega) only [decodeFQ, zf, need, FM.ea, FM.vea, extract_append_high, extract_append_low, extract_self,
    lsbD_append_high, lsbD_append_low, lsbD_ofBool, ofBool_eq_one, Guard.ofCode_code, Cond.ofCode_code, Scope.ofCode_code,
    DType.ofCode_code, RM.ofCode_code, Size.ofCode_code, SliceOp.ofCode_code, RedOp.ofCode_code, AMode.ofCode_code,
    RoleId.ofCode_code, beq_self_eq_true, Bool.and_self, if_true, Nat.sub_self]
  all_goals rfl

theorem tokPush (m : Mark) (n : BitVec 5) : Statement (.tokPush m n) := by
  refine one_word rfl rfl (fun _ _ _ => by simp only [ne_eq, reduceCtorEq, not_false_eq_true]) fun x => ?_
  refine (rawDecode_FQ _ _ _ _ rfl).trans ?_
  show decodeFQ _ 0x31 _ = _
  simp (disch := omega) only [decodeFQ, zf, need, FM.ea, FM.vea, extract_append_high, extract_append_low, extract_self,
    lsbD_append_high, lsbD_append_low, lsbD_ofBool, ofBool_eq_one, Guard.ofCode_code, Cond.ofCode_code, Scope.ofCode_code,
    DType.ofCode_code, RM.ofCode_code, Size.ofCode_code, SliceOp.ofCode_code, RedOp.ofCode_code, AMode.ofCode_code,
    RoleId.ofCode_code, beq_self_eq_true, Bool.and_self, if_true, Nat.sub_self]
  all_goals rfl

theorem tokPop (m : Mark) (n : BitVec 5) : Statement (.tokPop m n) := by
  refine one_word rfl rfl (fun _ _ _ => by simp only [ne_eq, reduceCtorEq, not_false_eq_true]) fun x => ?_
  refine (rawDecode_FQ _ _ _ _ rfl).trans ?_
  show decodeFQ _ 0x31 _ = _
  simp (disch := omega) only [decodeFQ, zf, need, FM.ea, FM.vea, extract_append_high, extract_append_low, extract_self,
    lsbD_append_high, lsbD_append_low, lsbD_ofBool, ofBool_eq_one, Guard.ofCode_code, Cond.ofCode_code, Scope.ofCode_code,
    DType.ofCode_code, RM.ofCode_code, Size.ofCode_code, SliceOp.ofCode_code, RedOp.ofCode_code, AMode.ofCode_code,
    RoleId.ofCode_code, beq_self_eq_true, Bool.and_self, if_true, Nat.sub_self]
  all_goals rfl

theorem tokQ (m : Mark) (rd : G6) : Statement (.tokQ m rd) := by
  refine one_word rfl rfl (fun _ _ _ => by simp only [ne_eq, reduceCtorEq, not_false_eq_true]) fun x => ?_
  refine (rawDecode_FQ _ _ _ _ rfl).trans ?_
  show decodeFQ _ 0x31 _ = _
  simp (disch := omega) only [decodeFQ, zf, need, FM.ea, FM.vea, extract_append_high, extract_append_low, extract_self,
    lsbD_append_high, lsbD_append_low, lsbD_ofBool, ofBool_eq_one, Guard.ofCode_code, Cond.ofCode_code, Scope.ofCode_code,
    DType.ofCode_code, RM.ofCode_code, Size.ofCode_code, SliceOp.ofCode_code, RedOp.ofCode_code, AMode.ofCode_code,
    RoleId.ofCode_code, beq_self_eq_true, Bool.and_self, if_true, Nat.sub_self]
  all_goals rfl

theorem cbinit (m : Mark) (h : BitVec 4) (ra rb : G6) : Statement (.cbinit m h ra rb) := by
  refine one_word rfl rfl (fun _ _ _ => by simp only [ne_eq, reduceCtorEq, not_false_eq_true]) fun x => ?_
  refine (rawDecode_FQ _ _ _ _ rfl).trans ?_
  show decodeFQ _ 0x32 _ = _
  simp (disch := omega) only [decodeFQ, zf, need, FM.ea, FM.vea, extract_append_high, extract_append_low, extract_self,
    lsbD_append_high, lsbD_append_low, lsbD_ofBool, ofBool_eq_one, Guard.ofCode_code, Cond.ofCode_code, Scope.ofCode_code,
    DType.ofCode_code, RM.ofCode_code, Size.ofCode_code, SliceOp.ofCode_code, RedOp.ofCode_code, AMode.ofCode_code,
    RoleId.ofCode_code, beq_self_eq_true, Bool.and_self, if_true, Nat.sub_self]
  all_goals rfl

theorem cbwait (m : Mark) (h : BitVec 4) (rd ra : G6) (imm : BitVec 16) : Statement (.cbwait m h rd ra imm) := by
  refine one_word rfl rfl (fun _ _ _ => by simp only [ne_eq, reduceCtorEq, not_false_eq_true]) fun x => ?_
  refine (rawDecode_FQ _ _ _ _ rfl).trans ?_
  show decodeFQ _ 0x33 _ = _
  simp (disch := omega) only [decodeFQ, zf, need, FM.ea, FM.vea, extract_append_high, extract_append_low, extract_self,
    lsbD_append_high, lsbD_append_low, lsbD_ofBool, ofBool_eq_one, Guard.ofCode_code, Cond.ofCode_code, Scope.ofCode_code,
    DType.ofCode_code, RM.ofCode_code, Size.ofCode_code, SliceOp.ofCode_code, RedOp.ofCode_code, AMode.ofCode_code,
    RoleId.ofCode_code, beq_self_eq_true, Bool.and_self, if_true, Nat.sub_self]
  all_goals rfl

theorem cbres (m : Mark) (h : BitVec 4) (rd ra : G6) (imm : BitVec 16) : Statement (.cbres m h rd ra imm) := by
  refine one_word rfl rfl (fun _ _ _ => by simp only [ne_eq, reduceCtorEq, not_false_eq_true]) fun x => ?_
  refine (rawDecode_FQ _ _ _ _ rfl).trans ?_
  show decodeFQ _ 0x34 _ = _
  simp (disch := omega) only [decodeFQ, zf, need, FM.ea, FM.vea, extract_append_high, extract_append_low, extract_self,
    lsbD_append_high, lsbD_append_low, lsbD_ofBool, ofBool_eq_one, Guard.ofCode_code, Cond.ofCode_code, Scope.ofCode_code,
    DType.ofCode_code, RM.ofCode_code, Size.ofCode_code, SliceOp.ofCode_code, RedOp.ofCode_code, AMode.ofCode_code,
    RoleId.ofCode_code, beq_self_eq_true, Bool.and_self, if_true, Nat.sub_self]
  all_goals rfl

theorem cbpush (m : Mark) (h : BitVec 4) (ra : G6) (imm : BitVec 16) : Statement (.cbpush m h ra imm) := by
  refine one_word rfl rfl (fun _ _ _ => by simp only [ne_eq, reduceCtorEq, not_false_eq_true]) fun x => ?_
  refine (rawDecode_FQ _ _ _ _ rfl).trans ?_
  show decodeFQ _ 0x35 _ = _
  simp (disch := omega) only [decodeFQ, zf, need, FM.ea, FM.vea, extract_append_high, extract_append_low, extract_self,
    lsbD_append_high, lsbD_append_low, lsbD_ofBool, ofBool_eq_one, Guard.ofCode_code, Cond.ofCode_code, Scope.ofCode_code,
    DType.ofCode_code, RM.ofCode_code, Size.ofCode_code, SliceOp.ofCode_code, RedOp.ofCode_code, AMode.ofCode_code,
    RoleId.ofCode_code, beq_self_eq_true, Bool.and_self, if_true, Nat.sub_self]
  all_goals rfl

theorem cbpop (m : Mark) (h : BitVec 4) (ra : G6) (imm : BitVec 16) : Statement (.cbpop m h ra imm) := by
  refine one_word rfl rfl (fun _ _ _ => by simp only [ne_eq, reduceCtorEq, not_false_eq_true]) fun x => ?_
  refine (rawDecode_FQ _ _ _ _ rfl).trans ?_
  show decodeFQ _ 0x36 _ = _
  simp (disch := omega) only [decodeFQ, zf, need, FM.ea, FM.vea, extract_append_high, extract_append_low, extract_self,
    lsbD_append_high, lsbD_append_low, lsbD_ofBool, ofBool_eq_one, Guard.ofCode_code, Cond.ofCode_code, Scope.ofCode_code,
    DType.ofCode_code, RM.ofCode_code, Size.ofCode_code, SliceOp.ofCode_code, RedOp.ofCode_code, AMode.ofCode_code,
    RoleId.ofCode_code, beq_self_eq_true, Bool.and_self, if_true, Nat.sub_self]
  all_goals rfl

theorem semwDec (m : Mark) (sem : BitVec 5) (rd ra : G6) (imm : BitVec 16) : Statement (.semwDec m sem rd ra imm) := by
  refine one_word rfl rfl (fun _ _ _ => by simp only [ne_eq, reduceCtorEq, not_false_eq_true]) fun x => ?_
  refine (rawDecode_FQ _ _ _ _ rfl).trans ?_
  show decodeFQ _ 0x37 _ = _
  simp (disch := omega) only [decodeFQ, zf, need, FM.ea, FM.vea, extract_append_high, extract_append_low, extract_self,
    lsbD_append_high, lsbD_append_low, lsbD_ofBool, ofBool_eq_one, Guard.ofCode_code, Cond.ofCode_code, Scope.ofCode_code,
    DType.ofCode_code, RM.ofCode_code, Size.ofCode_code, SliceOp.ofCode_code, RedOp.ofCode_code, AMode.ofCode_code,
    RoleId.ofCode_code, beq_self_eq_true, Bool.and_self, if_true, Nat.sub_self]
  all_goals rfl

theorem semwGe (m : Mark) (sem : BitVec 5) (rd ra : G6) (imm : BitVec 16) : Statement (.semwGe m sem rd ra imm) := by
  refine one_word rfl rfl (fun _ _ _ => by simp only [ne_eq, reduceCtorEq, not_false_eq_true]) fun x => ?_
  refine (rawDecode_FQ _ _ _ _ rfl).trans ?_
  show decodeFQ _ 0x37 _ = _
  simp (disch := omega) only [decodeFQ, zf, need, FM.ea, FM.vea, extract_append_high, extract_append_low, extract_self,
    lsbD_append_high, lsbD_append_low, lsbD_ofBool, ofBool_eq_one, Guard.ofCode_code, Cond.ofCode_code, Scope.ofCode_code,
    DType.ofCode_code, RM.ofCode_code, Size.ofCode_code, SliceOp.ofCode_code, RedOp.ofCode_code, AMode.ofCode_code,
    RoleId.ofCode_code, beq_self_eq_true, Bool.and_self, if_true, Nat.sub_self]
  all_goals rfl

theorem semwEq (m : Mark) (sem : BitVec 5) (rd ra : G6) (imm : BitVec 16) : Statement (.semwEq m sem rd ra imm) := by
  refine one_word rfl rfl (fun _ _ _ => by simp only [ne_eq, reduceCtorEq, not_false_eq_true]) fun x => ?_
  refine (rawDecode_FQ _ _ _ _ rfl).trans ?_
  show decodeFQ _ 0x37 _ = _
  simp (disch := omega) only [decodeFQ, zf, need, FM.ea, FM.vea, extract_append_high, extract_append_low, extract_self,
    lsbD_append_high, lsbD_append_low, lsbD_ofBool, ofBool_eq_one, Guard.ofCode_code, Cond.ofCode_code, Scope.ofCode_code,
    DType.ofCode_code, RM.ofCode_code, Size.ofCode_code, SliceOp.ofCode_code, RedOp.ofCode_code, AMode.ofCode_code,
    RoleId.ofCode_code, beq_self_eq_true, Bool.and_self, if_true, Nat.sub_self]
  all_goals rfl

theorem semsAdd (m : Mark) (sem : BitVec 5) (rd ra : G6) (imm : BitVec 16) : Statement (.semsAdd m sem rd ra imm) := by
  refine one_word rfl rfl (fun _ _ _ => by simp only [ne_eq, reduceCtorEq, not_false_eq_true]) fun x => ?_
  refine (rawDecode_FQ _ _ _ _ rfl).trans ?_
  show decodeFQ _ 0x38 _ = _
  simp (disch := omega) only [decodeFQ, zf, need, FM.ea, FM.vea, extract_append_high, extract_append_low, extract_self,
    lsbD_append_high, lsbD_append_low, lsbD_ofBool, ofBool_eq_one, Guard.ofCode_code, Cond.ofCode_code, Scope.ofCode_code,
    DType.ofCode_code, RM.ofCode_code, Size.ofCode_code, SliceOp.ofCode_code, RedOp.ofCode_code, AMode.ofCode_code,
    RoleId.ofCode_code, beq_self_eq_true, Bool.and_self, if_true, Nat.sub_self]
  all_goals rfl

theorem semsSub (m : Mark) (sem : BitVec 5) (rd ra : G6) (imm : BitVec 16) : Statement (.semsSub m sem rd ra imm) := by
  refine one_word rfl rfl (fun _ _ _ => by simp only [ne_eq, reduceCtorEq, not_false_eq_true]) fun x => ?_
  refine (rawDecode_FQ _ _ _ _ rfl).trans ?_
  show decodeFQ _ 0x38 _ = _
  simp (disch := omega) only [decodeFQ, zf, need, FM.ea, FM.vea, extract_append_high, extract_append_low, extract_self,
    lsbD_append_high, lsbD_append_low, lsbD_ofBool, ofBool_eq_one, Guard.ofCode_code, Cond.ofCode_code, Scope.ofCode_code,
    DType.ofCode_code, RM.ofCode_code, Size.ofCode_code, SliceOp.ofCode_code, RedOp.ofCode_code, AMode.ofCode_code,
    RoleId.ofCode_code, beq_self_eq_true, Bool.and_self, if_true, Nat.sub_self]
  all_goals rfl

theorem semset (m : Mark) (sem : BitVec 5) (rd ra : G6) (imm : BitVec 16) : Statement (.semset m sem rd ra imm) := by
  refine one_word rfl rfl (fun _ _ _ => by simp only [ne_eq, reduceCtorEq, not_false_eq_true]) fun x => ?_
  refine (rawDecode_FQ _ _ _ _ rfl).trans ?_
  show decodeFQ _ 0x39 _ = _
  simp (disch := omega) only [decodeFQ, zf, need, FM.ea, FM.vea, extract_append_high, extract_append_low, extract_self,
    lsbD_append_high, lsbD_append_low, lsbD_ofBool, ofBool_eq_one, Guard.ofCode_code, Cond.ofCode_code, Scope.ofCode_code,
    DType.ofCode_code, RM.ofCode_code, Size.ofCode_code, SliceOp.ofCode_code, RedOp.ofCode_code, AMode.ofCode_code,
    RoleId.ofCode_code, beq_self_eq_true, Bool.and_self, if_true, Nat.sub_self]
  all_goals rfl

theorem bari (m : Mark) (ra rb : G6) (imm : BitVec 16) : Statement (.bari m ra rb imm) := by
  refine one_word rfl rfl (fun _ _ _ => by simp only [ne_eq, reduceCtorEq, not_false_eq_true]) fun x => ?_
  refine (rawDecode_FQ _ _ _ _ rfl).trans ?_
  show decodeFQ _ 0x3A _ = _
  simp (disch := omega) only [decodeFQ, zf, need, FM.ea, FM.vea, extract_append_high, extract_append_low, extract_self,
    lsbD_append_high, lsbD_append_low, lsbD_ofBool, ofBool_eq_one, Guard.ofCode_code, Cond.ofCode_code, Scope.ofCode_code,
    DType.ofCode_code, RM.ofCode_code, Size.ofCode_code, SliceOp.ofCode_code, RedOp.ofCode_code, AMode.ofCode_code,
    RoleId.ofCode_code, beq_self_eq_true, Bool.and_self, if_true, Nat.sub_self]

theorem bara (m : Mark) (rd ra : G6) : Statement (.bara m rd ra) := by
  refine one_word rfl rfl (fun _ _ _ => by simp only [ne_eq, reduceCtorEq, not_false_eq_true]) fun x => ?_
  refine (rawDecode_FQ _ _ _ _ rfl).trans ?_
  show decodeFQ _ 0x3B _ = _
  simp (disch := omega) only [decodeFQ, zf, need, FM.ea, FM.vea, extract_append_high, extract_append_low, extract_self,
    lsbD_append_high, lsbD_append_low, lsbD_ofBool, ofBool_eq_one, Guard.ofCode_code, Cond.ofCode_code, Scope.ofCode_code,
    DType.ofCode_code, RM.ofCode_code, Size.ofCode_code, SliceOp.ofCode_code, RedOp.ofCode_code, AMode.ofCode_code,
    RoleId.ofCode_code, beq_self_eq_true, Bool.and_self, if_true, Nat.sub_self]

theorem barx (m : Mark) (ra rb : G6) (imm : BitVec 16) : Statement (.barx m ra rb imm) := by
  refine one_word rfl rfl (fun _ _ _ => by simp only [ne_eq, reduceCtorEq, not_false_eq_true]) fun x => ?_
  refine (rawDecode_FQ _ _ _ _ rfl).trans ?_
  show decodeFQ _ 0x3C _ = _
  simp (disch := omega) only [decodeFQ, zf, need, FM.ea, FM.vea, extract_append_high, extract_append_low, extract_self,
    lsbD_append_high, lsbD_append_low, lsbD_ofBool, ofBool_eq_one, Guard.ofCode_code, Cond.ofCode_code, Scope.ofCode_code,
    DType.ofCode_code, RM.ofCode_code, Size.ofCode_code, SliceOp.ofCode_code, RedOp.ofCode_code, AMode.ofCode_code,
    RoleId.ofCode_code, beq_self_eq_true, Bool.and_self, if_true, Nat.sub_self]

theorem barw (m : Mark) (ra rb : G6) (imm : BitVec 16) : Statement (.barw m ra rb imm) := by
  refine one_word rfl rfl (fun _ _ _ => by simp only [ne_eq, reduceCtorEq, not_false_eq_true]) fun x => ?_
  refine (rawDecode_FQ _ _ _ _ rfl).trans ?_
  show decodeFQ _ 0x3D _ = _
  simp (disch := omega) only [decodeFQ, zf, need, FM.ea, FM.vea, extract_append_high, extract_append_low, extract_self,
    lsbD_append_high, lsbD_append_low, lsbD_ofBool, ofBool_eq_one, Guard.ofCode_code, Cond.ofCode_code, Scope.ofCode_code,
    DType.ofCode_code, RM.ofCode_code, Size.ofCode_code, SliceOp.ofCode_code, RedOp.ofCode_code, AMode.ofCode_code,
    RoleId.ofCode_code, beq_self_eq_true, Bool.and_self, if_true, Nat.sub_self]

theorem pushM (m : Mark) (cnt : BitVec 2) (ra rb rc rd : G6) : Statement (.pushM m cnt ra rb rc rd) := by
  refine one_word rfl rfl (fun _ _ _ => by simp only [ne_eq, reduceCtorEq, not_false_eq_true]) fun x => ?_
  refine (rawDecode_FS _ _ _ _ rfl).trans ?_
  show decodeFS _ 0x70 _ = _
  simp (disch := omega) only [decodeFS, zf, need, FM.ea, FM.vea, extract_append_high, extract_append_low, extract_self,
    lsbD_append_high, lsbD_append_low, lsbD_ofBool, ofBool_eq_one, Guard.ofCode_code, Cond.ofCode_code, Scope.ofCode_code,
    DType.ofCode_code, RM.ofCode_code, Size.ofCode_code, SliceOp.ofCode_code, RedOp.ofCode_code, AMode.ofCode_code,
    RoleId.ofCode_code, beq_self_eq_true, Bool.and_self, if_true, Nat.sub_self]
  all_goals rfl

theorem pushC (m : Mark) (cnt : BitVec 2) (ra rb rc rd : G6) : Statement (.pushC m cnt ra rb rc rd) := by
  refine one_word rfl rfl (fun _ _ _ => by simp only [ne_eq, reduceCtorEq, not_false_eq_true]) fun x => ?_
  refine (rawDecode_FS _ _ _ _ rfl).trans ?_
  show decodeFS _ 0x70 _ = _
  simp (disch := omega) only [decodeFS, zf, need, FM.ea, FM.vea, extract_append_high, extract_append_low, extract_self,
    lsbD_append_high, lsbD_append_low, lsbD_ofBool, ofBool_eq_one, Guard.ofCode_code, Cond.ofCode_code, Scope.ofCode_code,
    DType.ofCode_code, RM.ofCode_code, Size.ofCode_code, SliceOp.ofCode_code, RedOp.ofCode_code, AMode.ofCode_code,
    RoleId.ofCode_code, beq_self_eq_true, Bool.and_self, if_true, Nat.sub_self]
  all_goals rfl

theorem spawn (m : Mark) (rd ra rb : G6) : Statement (.spawn m rd ra rb) := by
  refine one_word rfl rfl (fun _ _ _ => by simp only [ne_eq, reduceCtorEq, not_false_eq_true]) fun x => ?_
  refine (rawDecode_FS _ _ _ _ rfl).trans ?_
  show decodeFS _ 0x71 _ = _
  simp (disch := omega) only [decodeFS, zf, need, FM.ea, FM.vea, extract_append_high, extract_append_low, extract_self,
    lsbD_append_high, lsbD_append_low, lsbD_ofBool, ofBool_eq_one, Guard.ofCode_code, Cond.ofCode_code, Scope.ofCode_code,
    DType.ofCode_code, RM.ofCode_code, Size.ofCode_code, SliceOp.ofCode_code, RedOp.ofCode_code, AMode.ofCode_code,
    RoleId.ofCode_code, beq_self_eq_true, Bool.and_self, if_true, Nat.sub_self]
  all_goals rfl

theorem spawnW (m : Mark) (rd ra rb : G6) : Statement (.spawnW m rd ra rb) := by
  refine one_word rfl rfl (fun _ _ _ => by simp only [ne_eq, reduceCtorEq, not_false_eq_true]) fun x => ?_
  refine (rawDecode_FS _ _ _ _ rfl).trans ?_
  show decodeFS _ 0x71 _ = _
  simp (disch := omega) only [decodeFS, zf, need, FM.ea, FM.vea, extract_append_high, extract_append_low, extract_self,
    lsbD_append_high, lsbD_append_low, lsbD_ofBool, ofBool_eq_one, Guard.ofCode_code, Cond.ofCode_code, Scope.ofCode_code,
    DType.ofCode_code, RM.ofCode_code, Size.ofCode_code, SliceOp.ofCode_code, RedOp.ofCode_code, AMode.ofCode_code,
    RoleId.ofCode_code, beq_self_eq_true, Bool.and_self, if_true, Nat.sub_self]
  all_goals rfl

theorem tsig (m : Mark) (ra : G6) : Statement (.tsig m ra) := by
  refine one_word rfl rfl (fun _ _ _ => by simp only [ne_eq, reduceCtorEq, not_false_eq_true]) fun x => ?_
  refine (rawDecode_FS _ _ _ _ rfl).trans ?_
  show decodeFS _ 0x72 _ = _
  simp (disch := omega) only [decodeFS, zf, need, FM.ea, FM.vea, extract_append_high, extract_append_low, extract_self,
    lsbD_append_high, lsbD_append_low, lsbD_ofBool, ofBool_eq_one, Guard.ofCode_code, Cond.ofCode_code, Scope.ofCode_code,
    DType.ofCode_code, RM.ofCode_code, Size.ofCode_code, SliceOp.ofCode_code, RedOp.ofCode_code, AMode.ofCode_code,
    RoleId.ofCode_code, beq_self_eq_true, Bool.and_self, if_true, Nat.sub_self]

theorem coll (m : Mark) (rd ra : G6) (sem : Option (BitVec 5)) : Statement (.coll m rd ra sem) := by
  refine one_word rfl rfl (fun _ _ _ => by simp only [ne_eq, reduceCtorEq, not_false_eq_true]) fun x => ?_
  cases sem <;> refine (rawDecode_FS _ _ _ _ rfl).trans ?_
  · show decodeFS _ 0x73 _ = _
    simp (disch := omega) only [decodeFS, zf, need, FM.ea, FM.vea, extract_append_high, extract_append_low, extract_self,
      lsbD_append_high, lsbD_append_low, lsbD_ofBool, ofBool_eq_one, Guard.ofCode_code, Cond.ofCode_code, Scope.ofCode_code,
      DType.ofCode_code, RM.ofCode_code, Size.ofCode_code, SliceOp.ofCode_code, RedOp.ofCode_code, AMode.ofCode_code,
      RoleId.ofCode_code, beq_self_eq_true, Bool.and_self, if_true, Nat.sub_self]
    rfl
  · show decodeFS _ 0x73 _ = _
    simp (disch := omega) only [decodeFS, zf, need, FM.ea, FM.vea, extract_append_high, extract_append_low, extract_self,
      lsbD_append_high, lsbD_append_low, lsbD_ofBool, ofBool_eq_one, Guard.ofCode_code, Cond.ofCode_code, Scope.ofCode_code,
      DType.ofCode_code, RM.ofCode_code, Size.ofCode_code, SliceOp.ofCode_code, RedOp.ofCode_code, AMode.ofCode_code,
      RoleId.ofCode_code, beq_self_eq_true, Bool.and_self, if_true, Nat.sub_self]
    rfl

theorem mfsr (m : Mark) (rd : G6) (n : BitVec 12) : Statement (.mfsr m rd n) := by
  refine one_word rfl rfl (fun _ _ _ => by simp only [ne_eq, reduceCtorEq, not_false_eq_true]) fun x => ?_
  refine (rawDecode_FS _ _ _ _ rfl).trans ?_
  show decodeFS _ 0x78 _ = _
  simp (disch := omega) only [decodeFS, zf, need, FM.ea, FM.vea, extract_append_high, extract_append_low, extract_self,
    lsbD_append_high, lsbD_append_low, lsbD_ofBool, ofBool_eq_one, Guard.ofCode_code, Cond.ofCode_code, Scope.ofCode_code,
    DType.ofCode_code, RM.ofCode_code, Size.ofCode_code, SliceOp.ofCode_code, RedOp.ofCode_code, AMode.ofCode_code,
    RoleId.ofCode_code, beq_self_eq_true, Bool.and_self, if_true, Nat.sub_self]

theorem mtsr (m : Mark) (n : BitVec 12) (ra : G6) : Statement (.mtsr m n ra) := by
  refine one_word rfl rfl (fun _ _ _ => by simp only [ne_eq, reduceCtorEq, not_false_eq_true]) fun x => ?_
  refine (rawDecode_FS _ _ _ _ rfl).trans ?_
  show decodeFS _ 0x79 _ = _
  simp (disch := omega) only [decodeFS, zf, need, FM.ea, FM.vea, extract_append_high, extract_append_low, extract_self,
    lsbD_append_high, lsbD_append_low, lsbD_ofBool, ofBool_eq_one, Guard.ofCode_code, Cond.ofCode_code, Scope.ofCode_code,
    DType.ofCode_code, RM.ofCode_code, Size.ofCode_code, SliceOp.ofCode_code, RedOp.ofCode_code, AMode.ofCode_code,
    RoleId.ofCode_code, beq_self_eq_true, Bool.and_self, if_true, Nat.sub_self]

theorem trap (t : RoleTag) (imm : BitVec 16) : Statement (.trap t imm) := by
  refine one_word rfl rfl (fun _ _ _ => by simp only [ne_eq, reduceCtorEq, not_false_eq_true]) fun x => ?_
  refine (rawDecode_FS _ _ _ _ rfl).trans ?_
  show decodeFS _ 0x7A _ = _
  simp (disch := omega) only [decodeFS, zf, need, FM.ea, FM.vea, extract_append_high, extract_append_low, extract_self,
    lsbD_append_high, lsbD_append_low, lsbD_ofBool, ofBool_eq_one, Guard.ofCode_code, Cond.ofCode_code, Scope.ofCode_code,
    DType.ofCode_code, RM.ofCode_code, Size.ofCode_code, SliceOp.ofCode_code, RedOp.ofCode_code, AMode.ofCode_code,
    RoleId.ofCode_code, beq_self_eq_true, Bool.and_self, if_true, Nat.sub_self]
  all_goals rfl

theorem brk (t : RoleTag) (imm : BitVec 16) : Statement (.brk t imm) := by
  refine one_word rfl rfl (fun _ _ _ => by simp only [ne_eq, reduceCtorEq, not_false_eq_true]) fun x => ?_
  refine (rawDecode_FS _ _ _ _ rfl).trans ?_
  show decodeFS _ 0x7C _ = _
  simp (disch := omega) only [decodeFS, zf, need, FM.ea, FM.vea, extract_append_high, extract_append_low, extract_self,
    lsbD_append_high, lsbD_append_low, lsbD_ofBool, ofBool_eq_one, Guard.ofCode_code, Cond.ofCode_code, Scope.ofCode_code,
    DType.ofCode_code, RM.ofCode_code, Size.ofCode_code, SliceOp.ofCode_code, RedOp.ofCode_code, AMode.ofCode_code,
    RoleId.ofCode_code, beq_self_eq_true, Bool.and_self, if_true, Nat.sub_self]
  all_goals rfl

theorem eret (m : Mark) : Statement (.eret m) := by
  refine one_word rfl rfl (fun _ _ _ => by simp only [ne_eq, reduceCtorEq, not_false_eq_true]) fun x => ?_
  refine (rawDecode_FS _ _ _ _ rfl).trans ?_
  show decodeFS _ 0x7B _ = _
  simp (disch := omega) only [decodeFS, zf, need, FM.ea, FM.vea, extract_append_high, extract_append_low, extract_self,
    lsbD_append_high, lsbD_append_low, lsbD_ofBool, ofBool_eq_one, Guard.ofCode_code, Cond.ofCode_code, Scope.ofCode_code,
    DType.ofCode_code, RM.ofCode_code, Size.ofCode_code, SliceOp.ofCode_code, RedOp.ofCode_code, AMode.ofCode_code,
    RoleId.ofCode_code, beq_self_eq_true, Bool.and_self, if_true, Nat.sub_self]

theorem xinvAll (m : Mark) : Statement (.xinvAll m) := by
  refine one_word rfl rfl (fun _ _ _ => by simp only [ne_eq, reduceCtorEq, not_false_eq_true]) fun x => ?_
  refine (rawDecode_FS _ _ _ _ rfl).trans ?_
  show decodeFS _ 0x7D _ = _
  simp (disch := omega) only [decodeFS, zf, need, FM.ea, FM.vea, extract_append_high, extract_append_low, extract_self,
    lsbD_append_high, lsbD_append_low, lsbD_ofBool, ofBool_eq_one, Guard.ofCode_code, Cond.ofCode_code, Scope.ofCode_code,
    DType.ofCode_code, RM.ofCode_code, Size.ofCode_code, SliceOp.ofCode_code, RedOp.ofCode_code, AMode.ofCode_code,
    RoleId.ofCode_code, beq_self_eq_true, Bool.and_self, if_true, Nat.sub_self]
  all_goals rfl

theorem xinvX (m : Mark) (ra : G6) : Statement (.xinvX m ra) := by
  refine one_word rfl rfl (fun _ _ _ => by simp only [ne_eq, reduceCtorEq, not_false_eq_true]) fun x => ?_
  refine (rawDecode_FS _ _ _ _ rfl).trans ?_
  show decodeFS _ 0x7D _ = _
  simp (disch := omega) only [decodeFS, zf, need, FM.ea, FM.vea, extract_append_high, extract_append_low, extract_self,
    lsbD_append_high, lsbD_append_low, lsbD_ofBool, ofBool_eq_one, Guard.ofCode_code, Cond.ofCode_code, Scope.ofCode_code,
    DType.ofCode_code, RM.ofCode_code, Size.ofCode_code, SliceOp.ofCode_code, RedOp.ofCode_code, AMode.ofCode_code,
    RoleId.ofCode_code, beq_self_eq_true, Bool.and_self, if_true, Nat.sub_self]
  all_goals rfl

theorem xinvVa (m : Mark) (ra rb : G6) : Statement (.xinvVa m ra rb) := by
  refine one_word rfl rfl (fun _ _ _ => by simp only [ne_eq, reduceCtorEq, not_false_eq_true]) fun x => ?_
  refine (rawDecode_FS _ _ _ _ rfl).trans ?_
  show decodeFS _ 0x7D _ = _
  simp (disch := omega) only [decodeFS, zf, need, FM.ea, FM.vea, extract_append_high, extract_append_low, extract_self,
    lsbD_append_high, lsbD_append_low, lsbD_ofBool, ofBool_eq_one, Guard.ofCode_code, Cond.ofCode_code, Scope.ofCode_code,
    DType.ofCode_code, RM.ofCode_code, Size.ofCode_code, SliceOp.ofCode_code, RedOp.ofCode_code, AMode.ofCode_code,
    RoleId.ofCode_code, beq_self_eq_true, Bool.and_self, if_true, Nat.sub_self]
  all_goals rfl

theorem xinvG (m : Mark) (rb : G6) : Statement (.xinvG m rb) := by
  refine one_word rfl rfl (fun _ _ _ => by simp only [ne_eq, reduceCtorEq, not_false_eq_true]) fun x => ?_
  refine (rawDecode_FS _ _ _ _ rfl).trans ?_
  show decodeFS _ 0x7D _ = _
  simp (disch := omega) only [decodeFS, zf, need, FM.ea, FM.vea, extract_append_high, extract_append_low, extract_self,
    lsbD_append_high, lsbD_append_low, lsbD_ofBool, ofBool_eq_one, Guard.ofCode_code, Cond.ofCode_code, Scope.ofCode_code,
    DType.ofCode_code, RM.ofCode_code, Size.ofCode_code, SliceOp.ofCode_code, RedOp.ofCode_code, AMode.ofCode_code,
    RoleId.ofCode_code, beq_self_eq_true, Bool.and_self, if_true, Nat.sub_self]
  all_goals rfl

theorem ptmc (m : Mark) (ra rb : G6) : Statement (.ptmc m ra rb) := by
  refine one_word rfl rfl (fun _ _ _ => by simp only [ne_eq, reduceCtorEq, not_false_eq_true]) fun x => ?_
  refine (rawDecode_FS _ _ _ _ rfl).trans ?_
  show decodeFS _ 0x7E _ = _
  simp (disch := omega) only [decodeFS, zf, need, FM.ea, FM.vea, extract_append_high, extract_append_low, extract_self,
    lsbD_append_high, lsbD_append_low, lsbD_ofBool, ofBool_eq_one, Guard.ofCode_code, Cond.ofCode_code, Scope.ofCode_code,
    DType.ofCode_code, RM.ofCode_code, Size.ofCode_code, SliceOp.ofCode_code, RedOp.ofCode_code, AMode.ofCode_code,
    RoleId.ofCode_code, beq_self_eq_true, Bool.and_self, if_true, Nat.sub_self]
  all_goals rfl

theorem ptmcSync (m : Mark) : Statement (.ptmcSync m) := by
  refine one_word rfl rfl (fun _ _ _ => by simp only [ne_eq, reduceCtorEq, not_false_eq_true]) fun x => ?_
  refine (rawDecode_FS _ _ _ _ rfl).trans ?_
  show decodeFS _ 0x7E _ = _
  simp (disch := omega) only [decodeFS, zf, need, FM.ea, FM.vea, extract_append_high, extract_append_low, extract_self,
    lsbD_append_high, lsbD_append_low, lsbD_ofBool, ofBool_eq_one, Guard.ofCode_code, Cond.ofCode_code, Scope.ofCode_code,
    DType.ofCode_code, RM.ofCode_code, Size.ofCode_code, SliceOp.ofCode_code, RedOp.ofCode_code, AMode.ofCode_code,
    RoleId.ofCode_code, beq_self_eq_true, Bool.and_self, if_true, Nat.sub_self]
  all_goals rfl

theorem cfgd (m : Mark) (rd ra : G6) : Statement (.cfgd m rd ra) := by
  refine one_word rfl rfl (fun _ _ _ => by simp only [ne_eq, reduceCtorEq, not_false_eq_true]) fun x => ?_
  refine (rawDecode_FS _ _ _ _ rfl).trans ?_
  show decodeFS _ 0x7F _ = _
  simp (disch := omega) only [decodeFS, zf, need, FM.ea, FM.vea, extract_append_high, extract_append_low, extract_self,
    lsbD_append_high, lsbD_append_low, lsbD_ofBool, ofBool_eq_one, Guard.ofCode_code, Cond.ofCode_code, Scope.ofCode_code,
    DType.ofCode_code, RM.ofCode_code, Size.ofCode_code, SliceOp.ofCode_code, RedOp.ofCode_code, AMode.ofCode_code,
    RoleId.ofCode_code, beq_self_eq_true, Bool.and_self, if_true, Nat.sub_self]
  all_goals rfl

theorem isync (m : Mark) : Statement (.isync m) := by
  refine one_word rfl rfl (fun _ _ _ => by simp only [ne_eq, reduceCtorEq, not_false_eq_true]) fun x => ?_
  refine (rawDecode_FS _ _ _ _ rfl).trans ?_
  show decodeFS _ 0x7F _ = _
  simp (disch := omega) only [decodeFS, zf, need, FM.ea, FM.vea, extract_append_high, extract_append_low, extract_self,
    lsbD_append_high, lsbD_append_low, lsbD_ofBool, ofBool_eq_one, Guard.ofCode_code, Cond.ofCode_code, Scope.ofCode_code,
    DType.ofCode_code, RM.ofCode_code, Size.ofCode_code, SliceOp.ofCode_code, RedOp.ofCode_code, AMode.ofCode_code,
    RoleId.ofCode_code, beq_self_eq_true, Bool.and_self, if_true, Nat.sub_self]
  all_goals rfl

theorem halt (m : Mark) : Statement (.halt m) := by
  refine one_word rfl rfl (fun _ _ _ => by simp only [ne_eq, reduceCtorEq, not_false_eq_true]) fun x => ?_
  refine (rawDecode_FS _ _ _ _ rfl).trans ?_
  show decodeFS _ 0x7F _ = _
  simp (disch := omega) only [decodeFS, zf, need, FM.ea, FM.vea, extract_append_high, extract_append_low, extract_self,
    lsbD_append_high, lsbD_append_low, lsbD_ofBool, ofBool_eq_one, Guard.ofCode_code, Cond.ofCode_code, Scope.ofCode_code,
    DType.ofCode_code, RM.ofCode_code, Size.ofCode_code, SliceOp.ofCode_code, RedOp.ofCode_code, AMode.ofCode_code,
    RoleId.ofCode_code, beq_self_eq_true, Bool.and_self, if_true, Nat.sub_self]
  all_goals rfl

theorem systemCoreWake (d : Nat) : Statement (.systemCoreWake d) := no_word rfl rfl

theorem ld (m : Mark) (sz : Size) (sx : Bool) (rd : G6) (ea : EA) (g : Guard) : Statement (.ld m sz sx rd ea g) := by
  refine one_word rfl rfl (fun _ _ _ => by simp only [ne_eq, reduceCtorEq, not_false_eq_true]) fun x => ?_
  refine (rawDecode_FM _ _ _ _ rfl).trans ?_
  show decodeFM _ 0x40 _ = _
  simp (disch := omega) only [decodeFM, zf, need, FM.ea, FM.vea, extract_append_high, extract_append_low, extract_self,
    lsbD_append_high, lsbD_append_low, lsbD_ofBool, ofBool_eq_one, Guard.ofCode_code, Cond.ofCode_code, Scope.ofCode_code,
    DType.ofCode_code, RM.ofCode_code, Size.ofCode_code, SliceOp.ofCode_code, RedOp.ofCode_code, AMode.ofCode_code,
    RoleId.ofCode_code, beq_self_eq_true, Bool.and_self, if_true, Nat.sub_self]
  all_goals rfl

theorem st (m : Mark) (sz : Size) (rs : G6) (ea : EA) (g : Guard) : Statement (.st m sz rs ea g) := by
  refine one_word rfl rfl (fun _ _ _ => by simp only [ne_eq, reduceCtorEq, not_false_eq_true]) fun x => ?_
  refine (rawDecode_FM _ _ _ _ rfl).trans ?_
  show decodeFM _ 0x41 _ = _
  simp (disch := omega) only [decodeFM, zf, need, FM.ea, FM.vea, extract_append_high, extract_append_low, extract_self,
    lsbD_append_high, lsbD_append_low, lsbD_ofBool, ofBool_eq_one, Guard.ofCode_code, Cond.ofCode_code, Scope.ofCode_code,
    DType.ofCode_code, RM.ofCode_code, Size.ofCode_code, SliceOp.ofCode_code, RedOp.ofCode_code, AMode.ofCode_code,
    RoleId.ofCode_code, beq_self_eq_true, Bool.and_self, if_true, Nat.sub_self]

theorem ldc (m : Mark) (sz : Size) (sx : Bool) (x : Scope) (rd : G6) (ea : EA) (g : Guard) : Statement (.ldc m sz sx x rd ea g) := by
  refine one_word rfl rfl (fun _ _ _ => by simp only [ne_eq, reduceCtorEq, not_false_eq_true]) fun x => ?_
  refine (rawDecode_FM _ _ _ _ rfl).trans ?_
  show decodeFM _ 0x42 _ = _
  simp (disch := omega) only [decodeFM, zf, need, FM.ea, FM.vea, extract_append_high, extract_append_low, extract_self,
    lsbD_append_high, lsbD_append_low, lsbD_ofBool, ofBool_eq_one, Guard.ofCode_code, Cond.ofCode_code, Scope.ofCode_code,
    DType.ofCode_code, RM.ofCode_code, Size.ofCode_code, SliceOp.ofCode_code, RedOp.ofCode_code, AMode.ofCode_code,
    RoleId.ofCode_code, beq_self_eq_true, Bool.and_self, if_true, Nat.sub_self]
  all_goals rfl

theorem lda (m : Mark) (sz : Size) (sx : Bool) (x : Scope) (rd : G6) (ea : EA) (g : Guard) : Statement (.lda m sz sx x rd ea g) := by
  refine one_word rfl rfl (fun _ _ _ => by simp only [ne_eq, reduceCtorEq, not_false_eq_true]) fun x => ?_
  refine (rawDecode_FM _ _ _ _ rfl).trans ?_
  show decodeFM _ 0x43 _ = _
  simp (disch := omega) only [decodeFM, zf, need, FM.ea, FM.vea, extract_append_high, extract_append_low, extract_self,
    lsbD_append_high, lsbD_append_low, lsbD_ofBool, ofBool_eq_one, Guard.ofCode_code, Cond.ofCode_code, Scope.ofCode_code,
    DType.ofCode_code, RM.ofCode_code, Size.ofCode_code, SliceOp.ofCode_code, RedOp.ofCode_code, AMode.ofCode_code,
    RoleId.ofCode_code, beq_self_eq_true, Bool.and_self, if_true, Nat.sub_self]
  all_goals rfl

theorem stl (m : Mark) (sz : Size) (x : Scope) (rs : G6) (ea : EA) (g : Guard) : Statement (.stl m sz x rs ea g) := by
  refine one_word rfl rfl (fun _ _ _ => by simp only [ne_eq, reduceCtorEq, not_false_eq_true]) fun x => ?_
  refine (rawDecode_FM _ _ _ _ rfl).trans ?_
  show decodeFM _ 0x44 _ = _
  simp (disch := omega) only [decodeFM, zf, need, FM.ea, FM.vea, extract_append_high, extract_append_low, extract_self,
    lsbD_append_high, lsbD_append_low, lsbD_ofBool, ofBool_eq_one, Guard.ofCode_code, Cond.ofCode_code, Scope.ofCode_code,
    DType.ofCode_code, RM.ofCode_code, Size.ofCode_code, SliceOp.ofCode_code, RedOp.ofCode_code, AMode.ofCode_code,
    RoleId.ofCode_code, beq_self_eq_true, Bool.and_self, if_true, Nat.sub_self]

theorem loadDataReturn (c : Nat) (r : RoleId) (id : Nat) : Statement (.loadDataReturn c r id) := no_word rfl rfl

theorem writeAcknowledge (c : Nat) (id : Nat) : Statement (.writeAcknowledge c id) := no_word rfl rfl

theorem vld (m : Mark) (n : BitVec 2) (vd : V5) (ea : EA) (g : Guard) : Statement (.vld m n vd ea g) := by
  refine one_word rfl rfl (fun _ _ _ => by simp only [ne_eq, reduceCtorEq, not_false_eq_true]) fun x => ?_
  refine (rawDecode_FM _ _ _ _ rfl).trans ?_
  show decodeFM _ 0x45 _ = _
  simp (disch := omega) only [decodeFM, zf, need, FM.ea, FM.vea, extract_append_high, extract_append_low, extract_self,
    lsbD_append_high, lsbD_append_low, lsbD_ofBool, ofBool_eq_one, Guard.ofCode_code, Cond.ofCode_code, Scope.ofCode_code,
    DType.ofCode_code, RM.ofCode_code, Size.ofCode_code, SliceOp.ofCode_code, RedOp.ofCode_code, AMode.ofCode_code,
    RoleId.ofCode_code, beq_self_eq_true, Bool.and_self, if_true, Nat.sub_self]
  all_goals rfl

theorem vst (m : Mark) (n : BitVec 2) (vs : V5) (ea : EA) (g : Guard) : Statement (.vst m n vs ea g) := by
  refine one_word rfl rfl (fun _ _ _ => by simp only [ne_eq, reduceCtorEq, not_false_eq_true]) fun x => ?_
  refine (rawDecode_FM _ _ _ _ rfl).trans ?_
  show decodeFM _ 0x46 _ = _
  simp (disch := omega) only [decodeFM, zf, need, FM.ea, FM.vea, extract_append_high, extract_append_low, extract_self,
    lsbD_append_high, lsbD_append_low, lsbD_ofBool, ofBool_eq_one, Guard.ofCode_code, Cond.ofCode_code, Scope.ofCode_code,
    DType.ofCode_code, RM.ofCode_code, Size.ofCode_code, SliceOp.ofCode_code, RedOp.ofCode_code, AMode.ofCode_code,
    RoleId.ofCode_code, beq_self_eq_true, Bool.and_self, if_true, Nat.sub_self]
  all_goals rfl

theorem vldx (m : Mark) (sz : Size) (sx : Bool) (vd : V5) (ea : VEA) (g : Guard) : Statement (.vldx m sz sx vd ea g) := by
  refine one_word rfl rfl (fun _ _ _ => by simp only [ne_eq, reduceCtorEq, not_false_eq_true]) fun x => ?_
  refine (rawDecode_FM _ _ _ _ rfl).trans ?_
  show decodeFM _ 0x47 _ = _
  simp (disch := omega) only [decodeFM, zf, need, FM.ea, FM.vea, extract_append_high, extract_append_low, extract_self,
    lsbD_append_high, lsbD_append_low, lsbD_ofBool, ofBool_eq_one, Guard.ofCode_code, Cond.ofCode_code, Scope.ofCode_code,
    DType.ofCode_code, RM.ofCode_code, Size.ofCode_code, SliceOp.ofCode_code, RedOp.ofCode_code, AMode.ofCode_code,
    RoleId.ofCode_code, beq_self_eq_true, Bool.and_self, if_true, Nat.sub_self]
  all_goals rfl

theorem vstx (m : Mark) (sz : Size) (vs : V5) (ea : VEA) (g : Guard) : Statement (.vstx m sz vs ea g) := by
  refine one_word rfl rfl (fun _ _ _ => by simp only [ne_eq, reduceCtorEq, not_false_eq_true]) fun x => ?_
  refine (rawDecode_FM _ _ _ _ rfl).trans ?_
  show decodeFM _ 0x48 _ = _
  simp (disch := omega) only [decodeFM, zf, need, FM.ea, FM.vea, extract_append_high, extract_append_low, extract_self,
    lsbD_append_high, lsbD_append_low, lsbD_ofBool, ofBool_eq_one, Guard.ofCode_code, Cond.ofCode_code, Scope.ofCode_code,
    DType.ofCode_code, RM.ofCode_code, Size.ofCode_code, SliceOp.ofCode_code, RedOp.ofCode_code, AMode.ofCode_code,
    RoleId.ofCode_code, beq_self_eq_true, Bool.and_self, if_true, Nat.sub_self]
  all_goals rfl

theorem pref (m : Mark) (dk : Bool) (n : BitVec 2) (ea : EA) (g : Guard) : Statement (.pref m dk n ea g) := by
  refine one_word rfl rfl (fun _ _ _ => by simp only [ne_eq, reduceCtorEq, not_false_eq_true]) fun x => ?_
  refine (rawDecode_FM _ _ _ _ rfl).trans ?_
  show decodeFM _ 0x49 _ = _
  simp (disch := omega) only [decodeFM, zf, need, FM.ea, FM.vea, extract_append_high, extract_append_low, extract_self,
    lsbD_append_high, lsbD_append_low, lsbD_ofBool, ofBool_eq_one, Guard.ofCode_code, Cond.ofCode_code, Scope.ofCode_code,
    DType.ofCode_code, RM.ofCode_code, Size.ofCode_code, SliceOp.ofCode_code, RedOp.ofCode_code, AMode.ofCode_code,
    RoleId.ofCode_code, beq_self_eq_true, Bool.and_self, if_true, Nat.sub_self]
  all_goals rfl

theorem probe (m : Mark) (mode : AMode) (rd ra rb : G6) (g : Guard) : Statement (.probe m mode rd ra rb g) := by
  refine one_word rfl rfl (fun _ _ _ => by simp only [ne_eq, reduceCtorEq, not_false_eq_true]) fun x => ?_
  refine (rawDecode_FA _ _ _ _ rfl).trans ?_
  show decodeFA _ 0x4A _ = _
  simp (disch := omega) only [decodeFA, zf, need, FM.ea, FM.vea, extract_append_high, extract_append_low, extract_self,
    lsbD_append_high, lsbD_append_low, lsbD_ofBool, ofBool_eq_one, Guard.ofCode_code, Cond.ofCode_code, Scope.ofCode_code,
    DType.ofCode_code, RM.ofCode_code, Size.ofCode_code, SliceOp.ofCode_code, RedOp.ofCode_code, AMode.ofCode_code,
    RoleId.ofCode_code, beq_self_eq_true, Bool.and_self, if_true, Nat.sub_self]
  all_goals rfl

theorem unpin (m : Mark) (rd ra rb : G6) (g : Guard) : Statement (.unpin m rd ra rb g) := by
  refine one_word rfl rfl (fun _ _ _ => by simp only [ne_eq, reduceCtorEq, not_false_eq_true]) fun x => ?_
  refine (rawDecode_FA _ _ _ _ rfl).trans ?_
  show decodeFA _ 0x4B _ = _
  simp (disch := omega) only [decodeFA, zf, need, FM.ea, FM.vea, extract_append_high, extract_append_low, extract_self,
    lsbD_append_high, lsbD_append_low, lsbD_ofBool, ofBool_eq_one, Guard.ofCode_code, Cond.ofCode_code, Scope.ofCode_code,
    DType.ofCode_code, RM.ofCode_code, Size.ofCode_code, SliceOp.ofCode_code, RedOp.ofCode_code, AMode.ofCode_code,
    RoleId.ofCode_code, beq_self_eq_true, Bool.and_self, if_true, Nat.sub_self]

theorem phase (m : Mark) (x : Scope) : Statement (.phase m x) := by
  refine one_word rfl rfl (fun _ _ _ => by simp only [ne_eq, reduceCtorEq, not_false_eq_true]) fun x => ?_
  refine (rawDecode_FS _ _ _ _ rfl).trans ?_
  show decodeFS _ 0x4C _ = _
  simp (disch := omega) only [decodeFS, zf, need, FM.ea, FM.vea, extract_append_high, extract_append_low, extract_self,
    lsbD_append_high, lsbD_append_low, lsbD_ofBool, ofBool_eq_one, Guard.ofCode_code, Cond.ofCode_code, Scope.ofCode_code,
    DType.ofCode_code, RM.ofCode_code, Size.ofCode_code, SliceOp.ofCode_code, RedOp.ofCode_code, AMode.ofCode_code,
    RoleId.ofCode_code, beq_self_eq_true, Bool.and_self, if_true, Nat.sub_self]
  all_goals rfl

theorem acq (m : Mark) (x : Scope) : Statement (.acq m x) := by
  refine one_word rfl rfl (fun _ _ _ => by simp only [ne_eq, reduceCtorEq, not_false_eq_true]) fun x => ?_
  refine (rawDecode_FS _ _ _ _ rfl).trans ?_
  show decodeFS _ 0x4D _ = _
  simp (disch := omega) only [decodeFS, zf, need, FM.ea, FM.vea, extract_append_high, extract_append_low, extract_self,
    lsbD_append_high, lsbD_append_low, lsbD_ofBool, ofBool_eq_one, Guard.ofCode_code, Cond.ofCode_code, Scope.ofCode_code,
    DType.ofCode_code, RM.ofCode_code, Size.ofCode_code, SliceOp.ofCode_code, RedOp.ofCode_code, AMode.ofCode_code,
    RoleId.ofCode_code, beq_self_eq_true, Bool.and_self, if_true, Nat.sub_self]
  all_goals rfl

theorem rel (m : Mark) (x : Scope) : Statement (.rel m x) := by
  refine one_word rfl rfl (fun _ _ _ => by simp only [ne_eq, reduceCtorEq, not_false_eq_true]) fun x => ?_
  refine (rawDecode_FS _ _ _ _ rfl).trans ?_
  show decodeFS _ 0x4E _ = _
  simp (disch := omega) only [decodeFS, zf, need, FM.ea, FM.vea, extract_append_high, extract_append_low, extract_self,
    lsbD_append_high, lsbD_append_low, lsbD_ofBool, ofBool_eq_one, Guard.ofCode_code, Cond.ofCode_code, Scope.ofCode_code,
    DType.ofCode_code, RM.ofCode_code, Size.ofCode_code, SliceOp.ofCode_code, RedOp.ofCode_code, AMode.ofCode_code,
    RoleId.ofCode_code, beq_self_eq_true, Bool.and_self, if_true, Nat.sub_self]
  all_goals rfl

theorem drain (m : Mark) (sys : Bool) (mask : BitVec 2) : Statement (.drain m sys mask) := by
  refine one_word rfl rfl (fun _ _ _ => by simp only [ne_eq, reduceCtorEq, not_false_eq_true]) fun x => ?_
  refine (rawDecode_FS _ _ _ _ rfl).trans ?_
  show decodeFS _ 0x4F _ = _
  simp (disch := omega) only [decodeFS, zf, need, FM.ea, FM.vea, extract_append_high, extract_append_low, extract_self,
    lsbD_append_high, lsbD_append_low, lsbD_ofBool, ofBool_eq_one, Guard.ofCode_code, Cond.ofCode_code, Scope.ofCode_code,
    DType.ofCode_code, RM.ofCode_code, Size.ofCode_code, SliceOp.ofCode_code, RedOp.ofCode_code, AMode.ofCode_code,
    RoleId.ofCode_code, beq_self_eq_true, Bool.and_self, if_true, Nat.sub_self]
  cases sys <;> rfl

theorem drainComplete (c : Nat) (r : RoleId) : Statement (.drainComplete c r) := no_word rfl rfl

theorem amo (m : Mark) (op : SliceOp) (dbl : Bool) (rd ra rs : G6) : Statement (.amo m op dbl rd ra rs) := by
  refine one_word rfl rfl (fun _ _ _ => by simp only [ne_eq, reduceCtorEq, not_false_eq_true]) fun x => ?_
  refine (rawDecode_FA _ _ _ _ rfl).trans ?_
  show decodeFA _ 0x60 _ = _
  simp (disch := omega) only [decodeFA, zf, need, FM.ea, FM.vea, extract_append_high, extract_append_low, extract_self,
    lsbD_append_high, lsbD_append_low, lsbD_ofBool, ofBool_eq_one, Guard.ofCode_code, Cond.ofCode_code, Scope.ofCode_code,
    DType.ofCode_code, RM.ofCode_code, Size.ofCode_code, SliceOp.ofCode_code, RedOp.ofCode_code, AMode.ofCode_code,
    RoleId.ofCode_code, beq_self_eq_true, Bool.and_self, if_true, Nat.sub_self]
  all_goals rfl

theorem cas (m : Mark) (rd ra re rn : G6) : Statement (.cas m rd ra re rn) := by
  refine one_word rfl rfl (fun _ _ _ => by simp only [ne_eq, reduceCtorEq, not_false_eq_true]) fun x => ?_
  refine (rawDecode_FA _ _ _ _ rfl).trans ?_
  show decodeFA _ 0x61 _ = _
  simp (disch := omega) only [decodeFA, zf, need, FM.ea, FM.vea, extract_append_high, extract_append_low, extract_self,
    lsbD_append_high, lsbD_append_low, lsbD_ofBool, ofBool_eq_one, Guard.ofCode_code, Cond.ofCode_code, Scope.ofCode_code,
    DType.ofCode_code, RM.ofCode_code, Size.ofCode_code, SliceOp.ofCode_code, RedOp.ofCode_code, AMode.ofCode_code,
    RoleId.ofCode_code, beq_self_eq_true, Bool.and_self, if_true, Nat.sub_self]

theorem casc (m : Mark) (rd ra re rn : G6) (cidx : BitVec 12) : Statement (.casc m rd ra re rn cidx) := by
  refine one_word rfl rfl (fun _ _ _ => by simp only [ne_eq, reduceCtorEq, not_false_eq_true]) fun x => ?_
  refine (rawDecode_FA _ _ _ _ rfl).trans ?_
  show decodeFA _ 0x62 _ = _
  simp (disch := omega) only [decodeFA, zf, need, FM.ea, FM.vea, extract_append_high, extract_append_low, extract_self,
    lsbD_append_high, lsbD_append_low, lsbD_ofBool, ofBool_eq_one, Guard.ofCode_code, Cond.ofCode_code, Scope.ofCode_code,
    DType.ofCode_code, RM.ofCode_code, Size.ofCode_code, SliceOp.ofCode_code, RedOp.ofCode_code, AMode.ofCode_code,
    RoleId.ofCode_code, beq_self_eq_true, Bool.and_self, if_true, Nat.sub_self]

theorem vamo (m : Mark) (op : SliceOp) (vd : V5) (rb : G6) (vi : V5) (sc : BitVec 2) (vs : V5) (g : Guard) : Statement (.vamo m op vd rb vi sc vs g) := by
  refine one_word rfl rfl (fun _ _ _ => by simp only [ne_eq, reduceCtorEq, not_false_eq_true]) fun x => ?_
  refine (rawDecode_FA _ _ _ _ rfl).trans ?_
  show decodeFA _ 0x63 _ = _
  simp (disch := omega) only [decodeFA, zf, need, FM.ea, FM.vea, extract_append_high, extract_append_low, extract_self,
    lsbD_append_high, lsbD_append_low, lsbD_ofBool, ofBool_eq_one, Guard.ofCode_code, Cond.ofCode_code, Scope.ofCode_code,
    DType.ofCode_code, RM.ofCode_code, Size.ofCode_code, SliceOp.ofCode_code, RedOp.ofCode_code, AMode.ofCode_code,
    RoleId.ofCode_code, beq_self_eq_true, Bool.and_self, if_true, Nat.sub_self]
  all_goals rfl

theorem atomicReply (c : Nat) (r : RoleId) : Statement (.atomicReply c r) := no_word rfl rfl

theorem cascRetry (c : Nat) (r : RoleId) : Statement (.cascRetry c r) := no_word rfl rfl

theorem snopen (m : Mark) (rd ra rb rc : G6) : Statement (.snopen m rd ra rb rc) := by
  refine one_word rfl rfl (fun _ _ _ => by simp only [ne_eq, reduceCtorEq, not_false_eq_true]) fun x => ?_
  refine (rawDecode_FS _ _ _ _ rfl).trans ?_
  show decodeFS _ 0x64 _ = _
  simp (disch := omega) only [decodeFS, zf, need, FM.ea, FM.vea, extract_append_high, extract_append_low, extract_self,
    lsbD_append_high, lsbD_append_low, lsbD_ofBool, ofBool_eq_one, Guard.ofCode_code, Cond.ofCode_code, Scope.ofCode_code,
    DType.ofCode_code, RM.ofCode_code, Size.ofCode_code, SliceOp.ofCode_code, RedOp.ofCode_code, AMode.ofCode_code,
    RoleId.ofCode_code, beq_self_eq_true, Bool.and_self, if_true, Nat.sub_self]

theorem snacc (m : Mark) (ra : G6) : Statement (.snacc m ra) := by
  refine one_word rfl rfl (fun _ _ _ => by simp only [ne_eq, reduceCtorEq, not_false_eq_true]) fun x => ?_
  refine (rawDecode_FS _ _ _ _ rfl).trans ?_
  show decodeFS _ 0x65 _ = _
  simp (disch := omega) only [decodeFS, zf, need, FM.ea, FM.vea, extract_append_high, extract_append_low, extract_self,
    lsbD_append_high, lsbD_append_low, lsbD_ofBool, ofBool_eq_one, Guard.ofCode_code, Cond.ofCode_code, Scope.ofCode_code,
    DType.ofCode_code, RM.ofCode_code, Size.ofCode_code, SliceOp.ofCode_code, RedOp.ofCode_code, AMode.ofCode_code,
    RoleId.ofCode_code, beq_self_eq_true, Bool.and_self, if_true, Nat.sub_self]

theorem snrej (m : Mark) (ra : G6) : Statement (.snrej m ra) := by
  refine one_word rfl rfl (fun _ _ _ => by simp only [ne_eq, reduceCtorEq, not_false_eq_true]) fun x => ?_
  refine (rawDecode_FS _ _ _ _ rfl).trans ?_
  show decodeFS _ 0x66 _ = _
  simp (disch := omega) only [decodeFS, zf, need, FM.ea, FM.vea, extract_append_high, extract_append_low, extract_self,
    lsbD_append_high, lsbD_append_low, lsbD_ofBool, ofBool_eq_one, Guard.ofCode_code, Cond.ofCode_code, Scope.ofCode_code,
    DType.ofCode_code, RM.ofCode_code, Size.ofCode_code, SliceOp.ofCode_code, RedOp.ofCode_code, AMode.ofCode_code,
    RoleId.ofCode_code, beq_self_eq_true, Bool.and_self, if_true, Nat.sub_self]

theorem snq (m : Mark) (rd ra : G6) : Statement (.snq m rd ra) := by
  refine one_word rfl rfl (fun _ _ _ => by simp only [ne_eq, reduceCtorEq, not_false_eq_true]) fun x => ?_
  refine (rawDecode_FS _ _ _ _ rfl).trans ?_
  show decodeFS _ 0x67 _ = _
  simp (disch := omega) only [decodeFS, zf, need, FM.ea, FM.vea, extract_append_high, extract_append_low, extract_self,
    lsbD_append_high, lsbD_append_low, lsbD_ofBool, ofBool_eq_one, Guard.ofCode_code, Cond.ofCode_code, Scope.ofCode_code,
    DType.ofCode_code, RM.ofCode_code, Size.ofCode_code, SliceOp.ofCode_code, RedOp.ofCode_code, AMode.ofCode_code,
    RoleId.ofCode_code, beq_self_eq_true, Bool.and_self, if_true, Nat.sub_self]

theorem vote (m : Mark) (ra : G6) : Statement (.vote m ra) := by
  refine one_word rfl rfl (fun _ _ _ => by simp only [ne_eq, reduceCtorEq, not_false_eq_true]) fun x => ?_
  refine (rawDecode_FS _ _ _ _ rfl).trans ?_
  show decodeFS _ 0x68 _ = _
  simp (disch := omega) only [decodeFS, zf, need, FM.ea, FM.vea, extract_append_high, extract_append_low, extract_self,
    lsbD_append_high, lsbD_append_low, lsbD_ofBool, ofBool_eq_one, Guard.ofCode_code, Cond.ofCode_code, Scope.ofCode_code,
    DType.ofCode_code, RM.ofCode_code, Size.ofCode_code, SliceOp.ofCode_code, RedOp.ofCode_code, AMode.ofCode_code,
    RoleId.ofCode_code, beq_self_eq_true, Bool.and_self, if_true, Nat.sub_self]

theorem vwait (m : Mark) (rd : G6) : Statement (.vwait m rd) := by
  refine one_word rfl rfl (fun _ _ _ => by simp only [ne_eq, reduceCtorEq, not_false_eq_true]) fun x => ?_
  refine (rawDecode_FS _ _ _ _ rfl).trans ?_
  show decodeFS _ 0x69 _ = _
  simp (disch := omega) only [decodeFS, zf, need, FM.ea, FM.vea, extract_append_high, extract_append_low, extract_self,
    lsbD_append_high, lsbD_append_low, lsbD_ofBool, ofBool_eq_one, Guard.ofCode_code, Cond.ofCode_code, Scope.ofCode_code,
    DType.ofCode_code, RM.ofCode_code, Size.ofCode_code, SliceOp.ofCode_code, RedOp.ofCode_code, AMode.ofCode_code,
    RoleId.ofCode_code, beq_self_eq_true, Bool.and_self, if_true, Nat.sub_self]

theorem vflag (m : Mark) (loss sw : Bool) : Statement (.vflag m loss sw) := by
  refine one_word rfl rfl (fun _ _ _ => by simp only [ne_eq, reduceCtorEq, not_false_eq_true]) fun x => ?_
  refine (rawDecode_FS _ _ _ _ rfl).trans ?_
  show decodeFS _ 0x6A _ = _
  simp (disch := omega) only [decodeFS, zf, need, FM.ea, FM.vea, extract_append_high, extract_append_low, extract_self,
    lsbD_append_high, lsbD_append_low, lsbD_ofBool, ofBool_eq_one, Guard.ofCode_code, Cond.ofCode_code, Scope.ofCode_code,
    DType.ofCode_code, RM.ofCode_code, Size.ofCode_code, SliceOp.ofCode_code, RedOp.ofCode_code, AMode.ofCode_code,
    RoleId.ofCode_code, beq_self_eq_true, Bool.and_self, if_true, Nat.sub_self]
  all_goals rfl

theorem rand (m : Mark) (rd ra : G6) (stream : BitVec 6) : Statement (.rand m rd ra stream) := by
  refine one_word rfl rfl (fun _ _ _ => by simp only [ne_eq, reduceCtorEq, not_false_eq_true]) fun x => ?_
  refine (rawDecode_FS _ _ _ _ rfl).trans ?_
  show decodeFS _ 0x6B _ = _
  simp (disch := omega) only [decodeFS, zf, need, FM.ea, FM.vea, extract_append_high, extract_append_low, extract_self,
    lsbD_append_high, lsbD_append_low, lsbD_ofBool, ofBool_eq_one, Guard.ofCode_code, Cond.ofCode_code, Scope.ofCode_code,
    DType.ofCode_code, RM.ofCode_code, Size.ofCode_code, SliceOp.ofCode_code, RedOp.ofCode_code, AMode.ofCode_code,
    RoleId.ofCode_code, beq_self_eq_true, Bool.and_self, if_true, Nat.sub_self]
  all_goals rfl

theorem gen (m : Mark) (rd : G6) (sel : BitVec 2) : Statement (.gen m rd sel) := by
  refine one_word rfl rfl (fun _ _ _ => by simp only [ne_eq, reduceCtorEq, not_false_eq_true]) fun x => ?_
  refine (rawDecode_FS _ _ _ _ rfl).trans ?_
  show decodeFS _ 0x6C _ = _
  simp (disch := omega) only [decodeFS, zf, need, FM.ea, FM.vea, extract_append_high, extract_append_low, extract_self,
    lsbD_append_high, lsbD_append_low, lsbD_ofBool, ofBool_eq_one, Guard.ofCode_code, Cond.ofCode_code, Scope.ofCode_code,
    DType.ofCode_code, RM.ofCode_code, Size.ofCode_code, SliceOp.ofCode_code, RedOp.ofCode_code, AMode.ofCode_code,
    RoleId.ofCode_code, beq_self_eq_true, Bool.and_self, if_true, Nat.sub_self]
  all_goals rfl

theorem vadd (m : Mark) (dt : DType) (rm : RM) (sat : Bool) (vd va vb : V5) (g : Guard) : Statement (.vadd m dt rm sat vd va vb g) := by
  refine one_word rfl rfl (fun _ _ _ => by simp only [ne_eq, reduceCtorEq, not_false_eq_true]) fun x => ?_
  refine (rawDecode_FV _ _ _ _ rfl).trans ?_
  show decodeFV _ 0x80 _ = _
  simp (disch := omega) only [decodeFV, zf, need, FM.ea, FM.vea, extract_append_high, extract_append_low, extract_self,
    lsbD_append_high, lsbD_append_low, lsbD_ofBool, ofBool_eq_one, Guard.ofCode_code, Cond.ofCode_code, Scope.ofCode_code,
    DType.ofCode_code, RM.ofCode_code, Size.ofCode_code, SliceOp.ofCode_code, RedOp.ofCode_code, AMode.ofCode_code,
    RoleId.ofCode_code, beq_self_eq_true, Bool.and_self, if_true, Nat.sub_self]

theorem vsub (m : Mark) (dt : DType) (rm : RM) (sat : Bool) (vd va vb : V5) (g : Guard) : Statement (.vsub m dt rm sat vd va vb g) := by
  refine one_word rfl rfl (fun _ _ _ => by simp only [ne_eq, reduceCtorEq, not_false_eq_true]) fun x => ?_
  refine (rawDecode_FV _ _ _ _ rfl).trans ?_
  show decodeFV _ 0x81 _ = _
  simp (disch := omega) only [decodeFV, zf, need, FM.ea, FM.vea, extract_append_high, extract_append_low, extract_self,
    lsbD_append_high, lsbD_append_low, lsbD_ofBool, ofBool_eq_one, Guard.ofCode_code, Cond.ofCode_code, Scope.ofCode_code,
    DType.ofCode_code, RM.ofCode_code, Size.ofCode_code, SliceOp.ofCode_code, RedOp.ofCode_code, AMode.ofCode_code,
    RoleId.ofCode_code, beq_self_eq_true, Bool.and_self, if_true, Nat.sub_self]

theorem vmul (m : Mark) (dt : DType) (rm : RM) (sat : Bool) (vd va vb : V5) (g : Guard) : Statement (.vmul m dt rm sat vd va vb g) := by
  refine one_word rfl rfl (fun _ _ _ => by simp only [ne_eq, reduceCtorEq, not_false_eq_true]) fun x => ?_
  refine (rawDecode_FV _ _ _ _ rfl).trans ?_
  show decodeFV _ 0x82 _ = _
  simp (disch := omega) only [decodeFV, zf, need, FM.ea, FM.vea, extract_append_high, extract_append_low, extract_self,
    lsbD_append_high, lsbD_append_low, lsbD_ofBool, ofBool_eq_one, Guard.ofCode_code, Cond.ofCode_code, Scope.ofCode_code,
    DType.ofCode_code, RM.ofCode_code, Size.ofCode_code, SliceOp.ofCode_code, RedOp.ofCode_code, AMode.ofCode_code,
    RoleId.ofCode_code, beq_self_eq_true, Bool.and_self, if_true, Nat.sub_self]

theorem vfma (m : Mark) (dt : DType) (rm : RM) (sat : Bool) (vd va vb vc : V5) (g : Guard) : Statement (.vfma m dt rm sat vd va vb vc g) := by
  refine one_word rfl rfl (fun _ _ _ => by simp only [ne_eq, reduceCtorEq, not_false_eq_true]) fun x => ?_
  refine (rawDecode_FV _ _ _ _ rfl).trans ?_
  show decodeFV _ 0x83 _ = _
  simp (disch := omega) only [decodeFV, zf, need, FM.ea, FM.vea, extract_append_high, extract_append_low, extract_self,
    lsbD_append_high, lsbD_append_low, lsbD_ofBool, ofBool_eq_one, Guard.ofCode_code, Cond.ofCode_code, Scope.ofCode_code,
    DType.ofCode_code, RM.ofCode_code, Size.ofCode_code, SliceOp.ofCode_code, RedOp.ofCode_code, AMode.ofCode_code,
    RoleId.ofCode_code, beq_self_eq_true, Bool.and_self, if_true, Nat.sub_self]

theorem vfms (m : Mark) (dt : DType) (rm : RM) (sat : Bool) (vd va vb vc : V5) (g : Guard) : Statement (.vfms m dt rm sat vd va vb vc g) := by
  refine one_word rfl rfl (fun _ _ _ => by simp only [ne_eq, reduceCtorEq, not_false_eq_true]) fun x => ?_
  refine (rawDecode_FV _ _ _ _ rfl).trans ?_
  show decodeFV _ 0x84 _ = _
  simp (disch := omega) only [decodeFV, zf, need, FM.ea, FM.vea, extract_append_high, extract_append_low, extract_self,
    lsbD_append_high, lsbD_append_low, lsbD_ofBool, ofBool_eq_one, Guard.ofCode_code, Cond.ofCode_code, Scope.ofCode_code,
    DType.ofCode_code, RM.ofCode_code, Size.ofCode_code, SliceOp.ofCode_code, RedOp.ofCode_code, AMode.ofCode_code,
    RoleId.ofCode_code, beq_self_eq_true, Bool.and_self, if_true, Nat.sub_self]

theorem vfnma (m : Mark) (dt : DType) (rm : RM) (sat : Bool) (vd va vb vc : V5) (g : Guard) : Statement (.vfnma m dt rm sat vd va vb vc g) := by
  refine one_word rfl rfl (fun _ _ _ => by simp only [ne_eq, reduceCtorEq, not_false_eq_true]) fun x => ?_
  refine (rawDecode_FV _ _ _ _ rfl).trans ?_
  show decodeFV _ 0x85 _ = _
  simp (disch := omega) only [decodeFV, zf, need, FM.ea, FM.vea, extract_append_high, extract_append_low, extract_self,
    lsbD_append_high, lsbD_append_low, lsbD_ofBool, ofBool_eq_one, Guard.ofCode_code, Cond.ofCode_code, Scope.ofCode_code,
    DType.ofCode_code, RM.ofCode_code, Size.ofCode_code, SliceOp.ofCode_code, RedOp.ofCode_code, AMode.ofCode_code,
    RoleId.ofCode_code, beq_self_eq_true, Bool.and_self, if_true, Nat.sub_self]

theorem vneg (m : Mark) (dt : DType) (sat : Bool) (vd va : V5) (g : Guard) : Statement (.vneg m dt sat vd va g) := by
  refine one_word rfl rfl (fun _ _ _ => by simp only [ne_eq, reduceCtorEq, not_false_eq_true]) fun x => ?_
  refine (rawDecode_FV _ _ _ _ rfl).trans ?_
  show decodeFV _ 0x86 _ = _
  simp (disch := omega) only [decodeFV, zf, need, FM.ea, FM.vea, extract_append_high, extract_append_low, extract_self,
    lsbD_append_high, lsbD_append_low, lsbD_ofBool, ofBool_eq_one, Guard.ofCode_code, Cond.ofCode_code, Scope.ofCode_code,
    DType.ofCode_code, RM.ofCode_code, Size.ofCode_code, SliceOp.ofCode_code, RedOp.ofCode_code, AMode.ofCode_code,
    RoleId.ofCode_code, beq_self_eq_true, Bool.and_self, if_true, Nat.sub_self]

theorem vabs (m : Mark) (dt : DType) (sat : Bool) (vd va : V5) (g : Guard) : Statement (.vabs m dt sat vd va g) := by
  refine one_word rfl rfl (fun _ _ _ => by simp only [ne_eq, reduceCtorEq, not_false_eq_true]) fun x => ?_
  refine (rawDecode_FV _ _ _ _ rfl).trans ?_
  show decodeFV _ 0x87 _ = _
  simp (disch := omega) only [decodeFV, zf, need, FM.ea, FM.vea, extract_append_high, extract_append_low, extract_self,
    lsbD_append_high, lsbD_append_low, lsbD_ofBool, ofBool_eq_one, Guard.ofCode_code, Cond.ofCode_code, Scope.ofCode_code,
    DType.ofCode_code, RM.ofCode_code, Size.ofCode_code, SliceOp.ofCode_code, RedOp.ofCode_code, AMode.ofCode_code,
    RoleId.ofCode_code, beq_self_eq_true, Bool.and_self, if_true, Nat.sub_self]

theorem vmin (m : Mark) (dt : DType) (vd va vb : V5) (g : Guard) : Statement (.vmin m dt vd va vb g) := by
  refine one_word rfl rfl (fun _ _ _ => by simp only [ne_eq, reduceCtorEq, not_false_eq_true]) fun x => ?_
  refine (rawDecode_FV _ _ _ _ rfl).trans ?_
  show decodeFV _ 0x88 _ = _
  simp (disch := omega) only [decodeFV, zf, need, FM.ea, FM.vea, extract_append_high, extract_append_low, extract_self,
    lsbD_append_high, lsbD_append_low, lsbD_ofBool, ofBool_eq_one, Guard.ofCode_code, Cond.ofCode_code, Scope.ofCode_code,
    DType.ofCode_code, RM.ofCode_code, Size.ofCode_code, SliceOp.ofCode_code, RedOp.ofCode_code, AMode.ofCode_code,
    RoleId.ofCode_code, beq_self_eq_true, Bool.and_self, if_true, Nat.sub_self]

theorem vmax (m : Mark) (dt : DType) (vd va vb : V5) (g : Guard) : Statement (.vmax m dt vd va vb g) := by
  refine one_word rfl rfl (fun _ _ _ => by simp only [ne_eq, reduceCtorEq, not_false_eq_true]) fun x => ?_
  refine (rawDecode_FV _ _ _ _ rfl).trans ?_
  show decodeFV _ 0x89 _ = _
  simp (disch := omega) only [decodeFV, zf, need, FM.ea, FM.vea, extract_append_high, extract_append_low, extract_self,
    lsbD_append_high, lsbD_append_low, lsbD_ofBool, ofBool_eq_one, Guard.ofCode_code, Cond.ofCode_code, Scope.ofCode_code,
    DType.ofCode_code, RM.ofCode_code, Size.ofCode_code, SliceOp.ofCode_code, RedOp.ofCode_code, AMode.ofCode_code,
    RoleId.ofCode_code, beq_self_eq_true, Bool.and_self, if_true, Nat.sub_self]

theorem vrcp (m : Mark) (dt : DType) (rm : RM) (sat : Bool) (vd va : V5) (g : Guard) : Statement (.vrcp m dt rm sat vd va g) := by
  refine one_word rfl rfl (fun _ _ _ => by simp only [ne_eq, reduceCtorEq, not_false_eq_true]) fun x => ?_
  refine (rawDecode_FV _ _ _ _ rfl).trans ?_
  show decodeFV _ 0x8A _ = _
  simp (disch := omega) only [decodeFV, zf, need, FM.ea, FM.vea, extract_append_high, extract_append_low, extract_self,
    lsbD_append_high, lsbD_append_low, lsbD_ofBool, ofBool_eq_one, Guard.ofCode_code, Cond.ofCode_code, Scope.ofCode_code,
    DType.ofCode_code, RM.ofCode_code, Size.ofCode_code, SliceOp.ofCode_code, RedOp.ofCode_code, AMode.ofCode_code,
    RoleId.ofCode_code, beq_self_eq_true, Bool.and_self, if_true, Nat.sub_self]

theorem vrsq (m : Mark) (dt : DType) (rm : RM) (sat : Bool) (vd va : V5) (g : Guard) : Statement (.vrsq m dt rm sat vd va g) := by
  refine one_word rfl rfl (fun _ _ _ => by simp only [ne_eq, reduceCtorEq, not_false_eq_true]) fun x => ?_
  refine (rawDecode_FV _ _ _ _ rfl).trans ?_
  show decodeFV _ 0x8B _ = _
  simp (disch := omega) only [decodeFV, zf, need, FM.ea, FM.vea, extract_append_high, extract_append_low, extract_self,
    lsbD_append_high, lsbD_append_low, lsbD_ofBool, ofBool_eq_one, Guard.ofCode_code, Cond.ofCode_code, Scope.ofCode_code,
    DType.ofCode_code, RM.ofCode_code, Size.ofCode_code, SliceOp.ofCode_code, RedOp.ofCode_code, AMode.ofCode_code,
    RoleId.ofCode_code, beq_self_eq_true, Bool.and_self, if_true, Nat.sub_self]

theorem vsqrt (m : Mark) (dt : DType) (rm : RM) (sat : Bool) (vd va : V5) (g : Guard) : Statement (.vsqrt m dt rm sat vd va g) := by
  refine one_word rfl rfl (fun _ _ _ => by simp only [ne_eq, reduceCtorEq, not_false_eq_true]) fun x => ?_
  refine (rawDecode_FV _ _ _ _ rfl).trans ?_
  show decodeFV _ 0x8C _ = _
  simp (disch := omega) only [decodeFV, zf, need, FM.ea, FM.vea, extract_append_high, extract_append_low, extract_self,
    lsbD_append_high, lsbD_append_low, lsbD_ofBool, ofBool_eq_one, Guard.ofCode_code, Cond.ofCode_code, Scope.ofCode_code,
    DType.ofCode_code, RM.ofCode_code, Size.ofCode_code, SliceOp.ofCode_code, RedOp.ofCode_code, AMode.ofCode_code,
    RoleId.ofCode_code, beq_self_eq_true, Bool.and_self, if_true, Nat.sub_self]

theorem vdiv (m : Mark) (dt : DType) (rm : RM) (sat : Bool) (vd va vb : V5) (g : Guard) : Statement (.vdiv m dt rm sat vd va vb g) := by
  refine one_word rfl rfl (fun _ _ _ => by simp only [ne_eq, reduceCtorEq, not_false_eq_true]) fun x => ?_
  refine (rawDecode_FV _ _ _ _ rfl).trans ?_
  show decodeFV _ 0x8D _ = _
  simp (disch := omega) only [decodeFV, zf, need, FM.ea, FM.vea, extract_append_high, extract_append_low, extract_self,
    lsbD_append_high, lsbD_append_low, lsbD_ofBool, ofBool_eq_one, Guard.ofCode_code, Cond.ofCode_code, Scope.ofCode_code,
    DType.ofCode_code, RM.ofCode_code, Size.ofCode_code, SliceOp.ofCode_code, RedOp.ofCode_code, AMode.ofCode_code,
    RoleId.ofCode_code, beq_self_eq_true, Bool.and_self, if_true, Nat.sub_self]

theorem vexp2 (m : Mark) (dt : DType) (sat : Bool) (vd va : V5) (g : Guard) : Statement (.vexp2 m dt sat vd va g) := by
  refine one_word rfl rfl (fun _ _ _ => by simp only [ne_eq, reduceCtorEq, not_false_eq_true]) fun x => ?_
  refine (rawDecode_FV _ _ _ _ rfl).trans ?_
  show decodeFV _ 0x8E _ = _
  simp (disch := omega) only [decodeFV, zf, need, FM.ea, FM.vea, extract_append_high, extract_append_low, extract_self,
    lsbD_append_high, lsbD_append_low, lsbD_ofBool, ofBool_eq_one, Guard.ofCode_code, Cond.ofCode_code, Scope.ofCode_code,
    DType.ofCode_code, RM.ofCode_code, Size.ofCode_code, SliceOp.ofCode_code, RedOp.ofCode_code, AMode.ofCode_code,
    RoleId.ofCode_code, beq_self_eq_true, Bool.and_self, if_true, Nat.sub_self]

theorem vlog2 (m : Mark) (dt : DType) (vd va : V5) (g : Guard) : Statement (.vlog2 m dt vd va g) := by
  refine one_word rfl rfl (fun _ _ _ => by simp only [ne_eq, reduceCtorEq, not_false_eq_true]) fun x => ?_
  refine (rawDecode_FV _ _ _ _ rfl).trans ?_
  show decodeFV _ 0x8F _ = _
  simp (disch := omega) only [decodeFV, zf, need, FM.ea, FM.vea, extract_append_high, extract_append_low, extract_self,
    lsbD_append_high, lsbD_append_low, lsbD_ofBool, ofBool_eq_one, Guard.ofCode_code, Cond.ofCode_code, Scope.ofCode_code,
    DType.ofCode_code, RM.ofCode_code, Size.ofCode_code, SliceOp.ofCode_code, RedOp.ofCode_code, AMode.ofCode_code,
    RoleId.ofCode_code, beq_self_eq_true, Bool.and_self, if_true, Nat.sub_self]

theorem vtanh (m : Mark) (dt : DType) (vd va : V5) (g : Guard) : Statement (.vtanh m dt vd va g) := by
  refine one_word rfl rfl (fun _ _ _ => by simp only [ne_eq, reduceCtorEq, not_false_eq_true]) fun x => ?_
  refine (rawDecode_FV _ _ _ _ rfl).trans ?_
  show decodeFV _ 0x90 _ = _
  simp (disch := omega) only [decodeFV, zf, need, FM.ea, FM.vea, extract_append_high, extract_append_low, extract_self,
    lsbD_append_high, lsbD_append_low, lsbD_ofBool, ofBool_eq_one, Guard.ofCode_code, Cond.ofCode_code, Scope.ofCode_code,
    DType.ofCode_code, RM.ofCode_code, Size.ofCode_code, SliceOp.ofCode_code, RedOp.ofCode_code, AMode.ofCode_code,
    RoleId.ofCode_code, beq_self_eq_true, Bool.and_self, if_true, Nat.sub_self]

theorem vclamp (m : Mark) (dt : DType) (vd va vb vc : V5) (g : Guard) : Statement (.vclamp m dt vd va vb vc g) := by
  refine one_word rfl rfl (fun _ _ _ => by simp only [ne_eq, reduceCtorEq, not_false_eq_true]) fun x => ?_
  refine (rawDecode_FV _ _ _ _ rfl).trans ?_
  show decodeFV _ 0xA3 _ = _
  simp (disch := omega) only [decodeFV, zf, need, FM.ea, FM.vea, extract_append_high, extract_append_low, extract_self,
    lsbD_append_high, lsbD_append_low, lsbD_ofBool, ofBool_eq_one, Guard.ofCode_code, Cond.ofCode_code, Scope.ofCode_code,
    DType.ofCode_code, RM.ofCode_code, Size.ofCode_code, SliceOp.ofCode_code, RedOp.ofCode_code, AMode.ofCode_code,
    RoleId.ofCode_code, beq_self_eq_true, Bool.and_self, if_true, Nat.sub_self]

theorem vcmp (m : Mark) (c : Cond) (hi : Bool) (dt : DType) (pd : P3) (va vb : V5) (g : Guard) : Statement (.vcmp m c hi dt pd va vb g) := by
  refine one_word rfl rfl (fun _ _ _ => by simp only [ne_eq, reduceCtorEq, not_false_eq_true]) fun x => ?_
  refine (rawDecode_FV _ _ _ _ rfl).trans ?_
  show decodeFV _ 0x91 _ = _
  simp (disch := omega) only [decodeFV, zf, need, FM.ea, FM.vea, extract_append_high, extract_append_low, extract_self,
    lsbD_append_high, lsbD_append_low, lsbD_ofBool, ofBool_eq_one, Guard.ofCode_code, Cond.ofCode_code, Scope.ofCode_code,
    DType.ofCode_code, RM.ofCode_code, Size.ofCode_code, SliceOp.ofCode_code, RedOp.ofCode_code, AMode.ofCode_code,
    RoleId.ofCode_code, beq_self_eq_true, Bool.and_self, if_true, Nat.sub_self]
  all_goals rfl

theorem vsel (m : Mark) (vd va vb : V5) (p : P3) (g : Guard) : Statement (.vsel m vd va vb p g) := by
  refine one_word rfl rfl (fun _ _ _ => by simp only [ne_eq, reduceCtorEq, not_false_eq_true]) fun x => ?_
  refine (rawDecode_FV _ _ _ _ rfl).trans ?_
  show decodeFV _ 0x92 _ = _
  simp (disch := omega) only [decodeFV, zf, need, FM.ea, FM.vea, extract_append_high, extract_append_low, extract_self,
    lsbD_append_high, lsbD_append_low, lsbD_ofBool, ofBool_eq_one, Guard.ofCode_code, Cond.ofCode_code, Scope.ofCode_code,
    DType.ofCode_code, RM.ofCode_code, Size.ofCode_code, SliceOp.ofCode_code, RedOp.ofCode_code, AMode.ofCode_code,
    RoleId.ofCode_code, beq_self_eq_true, Bool.and_self, if_true, Nat.sub_self]
  all_goals rfl

theorem vand (m : Mark) (vd va vb : V5) (g : Guard) : Statement (.vand m vd va vb g) := by
  refine one_word rfl rfl (fun _ _ _ => by simp only [ne_eq, reduceCtorEq, not_false_eq_true]) fun x => ?_
  refine (rawDecode_FV _ _ _ _ rfl).trans ?_
  show decodeFV _ 0x93 _ = _
  simp (disch := omega) only [decodeFV, zf, need, FM.ea, FM.vea, extract_append_high, extract_append_low, extract_self,
    lsbD_append_high, lsbD_append_low, lsbD_ofBool, ofBool_eq_one, Guard.ofCode_code, Cond.ofCode_code, Scope.ofCode_code,
    DType.ofCode_code, RM.ofCode_code, Size.ofCode_code, SliceOp.ofCode_code, RedOp.ofCode_code, AMode.ofCode_code,
    RoleId.ofCode_code, beq_self_eq_true, Bool.and_self, if_true, Nat.sub_self]

theorem vor (m : Mark) (vd va vb : V5) (g : Guard) : Statement (.vor m vd va vb g) := by
  refine one_word rfl rfl (fun _ _ _ => by simp only [ne_eq, reduceCtorEq, not_false_eq_true]) fun x => ?_
  refine (rawDecode_FV _ _ _ _ rfl).trans ?_
  show decodeFV _ 0x94 _ = _
  simp (disch := omega) only [decodeFV, zf, need, FM.ea, FM.vea, extract_append_high, extract_append_low, extract_self,
    lsbD_append_high, lsbD_append_low, lsbD_ofBool, ofBool_eq_one, Guard.ofCode_code, Cond.ofCode_code, Scope.ofCode_code,
    DType.ofCode_code, RM.ofCode_code, Size.ofCode_code, SliceOp.ofCode_code, RedOp.ofCode_code, AMode.ofCode_code,
    RoleId.ofCode_code, beq_self_eq_true, Bool.and_self, if_true, Nat.sub_self]

theorem vxor (m : Mark) (vd va vb : V5) (g : Guard) : Statement (.vxor m vd va vb g) := by
  refine one_word rfl rfl (fun _ _ _ => by simp only [ne_eq, reduceCtorEq, not_false_eq_true]) fun x => ?_
  refine (rawDecode_FV _ _ _ _ rfl).trans ?_
  show decodeFV _ 0x95 _ = _
  simp (disch := omega) only [decodeFV, zf, need, FM.ea, FM.vea, extract_append_high, extract_append_low, extract_self,
    lsbD_append_high, lsbD_append_low, lsbD_ofBool, ofBool_eq_one, Guard.ofCode_code, Cond.ofCode_code, Scope.ofCode_code,
    DType.ofCode_code, RM.ofCode_code, Size.ofCode_code, SliceOp.ofCode_code, RedOp.ofCode_code, AMode.ofCode_code,
    RoleId.ofCode_code, beq_self_eq_true, Bool.and_self, if_true, Nat.sub_self]

theorem vmov (m : Mark) (vd va : V5) (g : Guard) : Statement (.vmov m vd va g) := by
  refine one_word rfl rfl (fun _ _ _ => by simp only [ne_eq, reduceCtorEq, not_false_eq_true]) fun x => ?_
  refine (rawDecode_FV _ _ _ _ rfl).trans ?_
  show decodeFV _ 0x9F _ = _
  simp (disch := omega) only [decodeFV, zf, need, FM.ea, FM.vea, extract_append_high, extract_append_low, extract_self,
    lsbD_append_high, lsbD_append_low, lsbD_ofBool, ofBool_eq_one, Guard.ofCode_code, Cond.ofCode_code, Scope.ofCode_code,
    DType.ofCode_code, RM.ofCode_code, Size.ofCode_code, SliceOp.ofCode_code, RedOp.ofCode_code, AMode.ofCode_code,
    RoleId.ofCode_code, beq_self_eq_true, Bool.and_self, if_true, Nat.sub_self]

theorem vshl (m : Mark) (vd va vb : V5) (g : Guard) : Statement (.vshl m vd va vb g) := by
  refine one_word rfl rfl (fun _ _ _ => by simp only [ne_eq, reduceCtorEq, not_false_eq_true]) fun x => ?_
  refine (rawDecode_FV _ _ _ _ rfl).trans ?_
  show decodeFV _ 0x96 _ = _
  simp (disch := omega) only [decodeFV, zf, need, FM.ea, FM.vea, extract_append_high, extract_append_low, extract_self,
    lsbD_append_high, lsbD_append_low, lsbD_ofBool, ofBool_eq_one, Guard.ofCode_code, Cond.ofCode_code, Scope.ofCode_code,
    DType.ofCode_code, RM.ofCode_code, Size.ofCode_code, SliceOp.ofCode_code, RedOp.ofCode_code, AMode.ofCode_code,
    RoleId.ofCode_code, beq_self_eq_true, Bool.and_self, if_true, Nat.sub_self]

theorem vshr (m : Mark) (vd va vb : V5) (g : Guard) : Statement (.vshr m vd va vb g) := by
  refine one_word rfl rfl (fun _ _ _ => by simp only [ne_eq, reduceCtorEq, not_false_eq_true]) fun x => ?_
  refine (rawDecode_FV _ _ _ _ rfl).trans ?_
  show decodeFV _ 0x97 _ = _
  simp (disch := omega) only [decodeFV, zf, need, FM.ea, FM.vea, extract_append_high, extract_append_low, extract_self,
    lsbD_append_high, lsbD_append_low, lsbD_ofBool, ofBool_eq_one, Guard.ofCode_code, Cond.ofCode_code, Scope.ofCode_code,
    DType.ofCode_code, RM.ofCode_code, Size.ofCode_code, SliceOp.ofCode_code, RedOp.ofCode_code, AMode.ofCode_code,
    RoleId.ofCode_code, beq_self_eq_true, Bool.and_self, if_true, Nat.sub_self]

theorem vsar (m : Mark) (vd va vb : V5) (g : Guard) : Statement (.vsar m vd va vb g) := by
  refine one_word rfl rfl (fun _ _ _ => by simp only [ne_eq, reduceCtorEq, not_false_eq_true]) fun x => ?_
  refine (rawDecode_FV _ _ _ _ rfl).trans ?_
  show decodeFV _ 0x98 _ = _
  simp (disch := omega) only [decodeFV, zf, need, FM.ea, FM.vea, extract_append_high, extract_append_low, extract_self,
    lsbD_append_high, lsbD_append_low, lsbD_ofBool, ofBool_eq_one, Guard.ofCode_code, Cond.ofCode_code, Scope.ofCode_code,
    DType.ofCode_code, RM.ofCode_code, Size.ofCode_code, SliceOp.ofCode_code, RedOp.ofCode_code, AMode.ofCode_code,
    RoleId.ofCode_code, beq_self_eq_true, Bool.and_self, if_true, Nat.sub_self]

theorem vshlImmediate (m : Mark) (vd va : V5) (n : BitVec 6) (g : Guard) : Statement (.vshlImmediate m vd va n g) := by
  refine one_word rfl rfl (fun _ _ _ => by simp only [ne_eq, reduceCtorEq, not_false_eq_true]) fun x => ?_
  refine (rawDecode_FVI _ _ _ _ rfl).trans ?_
  show decodeFVI _ 0xA8 _ = _
  simp (disch := omega) only [decodeFVI, zf, need, FM.ea, FM.vea, extract_append_high, extract_append_low, extract_self,
    lsbD_append_high, lsbD_append_low, lsbD_ofBool, ofBool_eq_one, Guard.ofCode_code, Cond.ofCode_code, Scope.ofCode_code,
    DType.ofCode_code, RM.ofCode_code, Size.ofCode_code, SliceOp.ofCode_code, RedOp.ofCode_code, AMode.ofCode_code,
    RoleId.ofCode_code, beq_self_eq_true, Bool.and_self, if_true, Nat.sub_self]
  all_goals rfl

theorem vshrImmediate (m : Mark) (vd va : V5) (n : BitVec 6) (g : Guard) : Statement (.vshrImmediate m vd va n g) := by
  refine one_word rfl rfl (fun _ _ _ => by simp only [ne_eq, reduceCtorEq, not_false_eq_true]) fun x => ?_
  refine (rawDecode_FVI _ _ _ _ rfl).trans ?_
  show decodeFVI _ 0xA9 _ = _
  simp (disch := omega) only [decodeFVI, zf, need, FM.ea, FM.vea, extract_append_high, extract_append_low, extract_self,
    lsbD_append_high, lsbD_append_low, lsbD_ofBool, ofBool_eq_one, Guard.ofCode_code, Cond.ofCode_code, Scope.ofCode_code,
    DType.ofCode_code, RM.ofCode_code, Size.ofCode_code, SliceOp.ofCode_code, RedOp.ofCode_code, AMode.ofCode_code,
    RoleId.ofCode_code, beq_self_eq_true, Bool.and_self, if_true, Nat.sub_self]
  all_goals rfl

theorem vsarImmediate (m : Mark) (vd va : V5) (n : BitVec 6) (g : Guard) : Statement (.vsarImmediate m vd va n g) := by
  refine one_word rfl rfl (fun _ _ _ => by simp only [ne_eq, reduceCtorEq, not_false_eq_true]) fun x => ?_
  refine (rawDecode_FVI _ _ _ _ rfl).trans ?_
  show decodeFVI _ 0xAA _ = _
  simp (disch := omega) only [decodeFVI, zf, need, FM.ea, FM.vea, extract_append_high, extract_append_low, extract_self,
    lsbD_append_high, lsbD_append_low, lsbD_ofBool, ofBool_eq_one, Guard.ofCode_code, Cond.ofCode_code, Scope.ofCode_code,
    DType.ofCode_code, RM.ofCode_code, Size.ofCode_code, SliceOp.ofCode_code, RedOp.ofCode_code, AMode.ofCode_code,
    RoleId.ofCode_code, beq_self_eq_true, Bool.and_self, if_true, Nat.sub_self]
  all_goals rfl

theorem vcvt (m : Mark) (hi : Bool) (dt dt2 : DType) (rm : RM) (sat : Bool) (vd va : V5) (g : Guard) : Statement (.vcvt m hi dt dt2 rm sat vd va g) := by
  refine one_word rfl rfl (fun _ _ _ => by simp only [ne_eq, reduceCtorEq, not_false_eq_true]) fun x => ?_
  refine (rawDecode_FV _ _ _ _ rfl).trans ?_
  show decodeFV _ 0x99 _ = _
  simp (disch := omega) only [decodeFV, zf, need, FM.ea, FM.vea, extract_append_high, extract_append_low, extract_self,
    lsbD_append_high, lsbD_append_low, lsbD_ofBool, ofBool_eq_one, Guard.ofCode_code, Cond.ofCode_code, Scope.ofCode_code,
    DType.ofCode_code, RM.ofCode_code, Size.ofCode_code, SliceOp.ofCode_code, RedOp.ofCode_code, AMode.ofCode_code,
    RoleId.ofCode_code, beq_self_eq_true, Bool.and_self, if_true, Nat.sub_self]
  all_goals rfl

theorem vscl (m : Mark) (dt dt2 : DType) (vd va : V5) (q : BitVec 3) (g : Guard) : Statement (.vscl m dt dt2 vd va q g) := by
  refine one_word rfl rfl (fun _ _ _ => by simp only [ne_eq, reduceCtorEq, not_false_eq_true]) fun x => ?_
  refine (rawDecode_FV _ _ _ _ rfl).trans ?_
  show decodeFV _ 0x9C _ = _
  simp (disch := omega) only [decodeFV, zf, need, FM.ea, FM.vea, extract_append_high, extract_append_low, extract_self,
    lsbD_append_high, lsbD_append_low, lsbD_ofBool, ofBool_eq_one, Guard.ofCode_code, Cond.ofCode_code, Scope.ofCode_code,
    DType.ofCode_code, RM.ofCode_code, Size.ofCode_code, SliceOp.ofCode_code, RedOp.ofCode_code, AMode.ofCode_code,
    RoleId.ofCode_code, beq_self_eq_true, Bool.and_self, if_true, Nat.sub_self]
  all_goals rfl

theorem vpack (m : Mark) (dt dt2 : DType) (rm : RM) (sat : Bool) (vd va vb : V5) (q : BitVec 3) (g : Guard) : Statement (.vpack m dt dt2 rm sat vd va vb q g) := by
  refine one_word rfl rfl (fun _ _ _ => by simp only [ne_eq, reduceCtorEq, not_false_eq_true]) fun x => ?_
  refine (rawDecode_FV _ _ _ _ rfl).trans ?_
  show decodeFV _ 0x9A _ = _
  simp (disch := omega) only [decodeFV, zf, need, FM.ea, FM.vea, extract_append_high, extract_append_low, extract_self,
    lsbD_append_high, lsbD_append_low, lsbD_ofBool, ofBool_eq_one, Guard.ofCode_code, Cond.ofCode_code, Scope.ofCode_code,
    DType.ofCode_code, RM.ofCode_code, Size.ofCode_code, SliceOp.ofCode_code, RedOp.ofCode_code, AMode.ofCode_code,
    RoleId.ofCode_code, beq_self_eq_true, Bool.and_self, if_true, Nat.sub_self]
  all_goals rfl

theorem vunpk (m : Mark) (dt dt2 : DType) (rm : RM) (sat : Bool) (vd va vb : V5) (q : BitVec 3) (g : Guard) : Statement (.vunpk m dt dt2 rm sat vd va vb q g) := by
  refine one_word rfl rfl (fun _ _ _ => by simp only [ne_eq, reduceCtorEq, not_false_eq_true]) fun x => ?_
  refine (rawDecode_FV _ _ _ _ rfl).trans ?_
  show decodeFV _ 0x9B _ = _
  simp (disch := omega) only [decodeFV, zf, need, FM.ea, FM.vea, extract_append_high, extract_append_low, extract_self,
    lsbD_append_high, lsbD_append_low, lsbD_ofBool, ofBool_eq_one, Guard.ofCode_code, Cond.ofCode_code, Scope.ofCode_code,
    DType.ofCode_code, RM.ofCode_code, Size.ofCode_code, SliceOp.ofCode_code, RedOp.ofCode_code, AMode.ofCode_code,
    RoleId.ofCode_code, beq_self_eq_true, Bool.and_self, if_true, Nat.sub_self]
  all_goals rfl

theorem vred (m : Mark) (op : RedOp) (dt dt2 : DType) (rm : RM) (sat : Bool) (vd va : V5) (g : Guard) : Statement (.vred m op dt dt2 rm sat vd va g) := by
  refine one_word rfl rfl (fun _ _ _ => by simp only [ne_eq, reduceCtorEq, not_false_eq_true]) fun x => ?_
  refine (rawDecode_FV _ _ _ _ rfl).trans ?_
  show decodeFV _ 0x9D _ = _
  simp (disch := omega) only [decodeFV, zf, need, FM.ea, FM.vea, extract_append_high, extract_append_low, extract_self,
    lsbD_append_high, lsbD_append_low, lsbD_ofBool, ofBool_eq_one, Guard.ofCode_code, Cond.ofCode_code, Scope.ofCode_code,
    DType.ofCode_code, RM.ofCode_code, Size.ofCode_code, SliceOp.ofCode_code, RedOp.ofCode_code, AMode.ofCode_code,
    RoleId.ofCode_code, beq_self_eq_true, Bool.and_self, if_true, Nat.sub_self]
  all_goals rfl

theorem vdot (m : Mark) (dt dt2 : DType) (vd va vb vc : V5) (g : Guard) : Statement (.vdot m dt dt2 vd va vb vc g) := by
  refine one_word rfl rfl (fun _ _ _ => by simp only [ne_eq, reduceCtorEq, not_false_eq_true]) fun x => ?_
  refine (rawDecode_FV _ _ _ _ rfl).trans ?_
  show decodeFV _ 0x9E _ = _
  simp (disch := omega) only [decodeFV, zf, need, FM.ea, FM.vea, extract_append_high, extract_append_low, extract_self,
    lsbD_append_high, lsbD_append_low, lsbD_ofBool, ofBool_eq_one, Guard.ofCode_code, Cond.ofCode_code, Scope.ofCode_code,
    DType.ofCode_code, RM.ofCode_code, Size.ofCode_code, SliceOp.ofCode_code, RedOp.ofCode_code, AMode.ofCode_code,
    RoleId.ofCode_code, beq_self_eq_true, Bool.and_self, if_true, Nat.sub_self]

theorem vbc (m : Mark) (dt : DType) (vd : V5) (ga : G6) (g : Guard) : Statement (.vbc m dt vd ga g) := by
  refine one_word rfl rfl (fun _ _ _ => by simp only [ne_eq, reduceCtorEq, not_false_eq_true]) fun x => ?_
  refine (rawDecode_FVI _ _ _ _ rfl).trans ?_
  show decodeFVI _ 0xAB _ = _
  simp (disch := omega) only [decodeFVI, zf, need, FM.ea, FM.vea, extract_append_high, extract_append_low, extract_self,
    lsbD_append_high, lsbD_append_low, lsbD_ofBool, ofBool_eq_one, Guard.ofCode_code, Cond.ofCode_code, Scope.ofCode_code,
    DType.ofCode_code, RM.ofCode_code, Size.ofCode_code, SliceOp.ofCode_code, RedOp.ofCode_code, AMode.ofCode_code,
    RoleId.ofCode_code, beq_self_eq_true, Bool.and_self, if_true, Nat.sub_self]
  all_goals rfl

theorem vbcElement (m : Mark) (dt : DType) (vd va : V5) (idx : BitVec 16) (g : Guard) : Statement (.vbcElement m dt vd va idx g) := by
  refine one_word rfl rfl (fun _ _ _ => by simp only [ne_eq, reduceCtorEq, not_false_eq_true]) fun x => ?_
  refine (rawDecode_FVI _ _ _ _ rfl).trans ?_
  show decodeFVI _ 0xAB _ = _
  simp (disch := omega) only [decodeFVI, zf, need, FM.ea, FM.vea, extract_append_high, extract_append_low, extract_self,
    lsbD_append_high, lsbD_append_low, lsbD_ofBool, ofBool_eq_one, Guard.ofCode_code, Cond.ofCode_code, Scope.ofCode_code,
    DType.ofCode_code, RM.ofCode_code, Size.ofCode_code, SliceOp.ofCode_code, RedOp.ofCode_code, AMode.ofCode_code,
    RoleId.ofCode_code, beq_self_eq_true, Bool.and_self, if_true, Nat.sub_self]
  all_goals rfl

theorem vext (m : Mark) (sx : Bool) (dt : DType) (rd : G6) (va : V5) (idx : BitVec 16) (g : Guard) : Statement (.vext m sx dt rd va idx g) := by
  refine one_word rfl rfl (fun _ _ _ => by simp only [ne_eq, reduceCtorEq, not_false_eq_true]) fun x => ?_
  refine (rawDecode_FVI _ _ _ _ rfl).trans ?_
  show decodeFVI _ 0xAC _ = _
  simp (disch := omega) only [decodeFVI, zf, need, FM.ea, FM.vea, extract_append_high, extract_append_low, extract_self,
    lsbD_append_high, lsbD_append_low, lsbD_ofBool, ofBool_eq_one, Guard.ofCode_code, Cond.ofCode_code, Scope.ofCode_code,
    DType.ofCode_code, RM.ofCode_code, Size.ofCode_code, SliceOp.ofCode_code, RedOp.ofCode_code, AMode.ofCode_code,
    RoleId.ofCode_code, beq_self_eq_true, Bool.and_self, if_true, Nat.sub_self]
  all_goals rfl

theorem vins (m : Mark) (dt : DType) (vd : V5) (ga : G6) (idx : BitVec 16) (g : Guard) : Statement (.vins m dt vd ga idx g) := by
  refine one_word rfl rfl (fun _ _ _ => by simp only [ne_eq, reduceCtorEq, not_false_eq_true]) fun x => ?_
  refine (rawDecode_FVI _ _ _ _ rfl).trans ?_
  show decodeFVI _ 0xAD _ = _
  simp (disch := omega) only [decodeFVI, zf, need, FM.ea, FM.vea, extract_append_high, extract_append_low, extract_self,
    lsbD_append_high, lsbD_append_low, lsbD_ofBool, ofBool_eq_one, Guard.ofCode_code, Cond.ofCode_code, Scope.ofCode_code,
    DType.ofCode_code, RM.ofCode_code, Size.ofCode_code, SliceOp.ofCode_code, RedOp.ofCode_code, AMode.ofCode_code,
    RoleId.ofCode_code, beq_self_eq_true, Bool.and_self, if_true, Nat.sub_self]
  all_goals rfl

theorem vslideDn (m : Mark) (vd va : V5) (ga : G6) (n : BitVec 16) (g : Guard) : Statement (.vslideDn m vd va ga n g) := by
  refine one_word rfl rfl (fun _ _ _ => by simp only [ne_eq, reduceCtorEq, not_false_eq_true]) fun x => ?_
  refine (rawDecode_FVI _ _ _ _ rfl).trans ?_
  show decodeFVI _ 0xAE _ = _
  simp (disch := omega) only [decodeFVI, zf, need, FM.ea, FM.vea, extract_append_high, extract_append_low, extract_self,
    lsbD_append_high, lsbD_append_low, lsbD_ofBool, ofBool_eq_one, Guard.ofCode_code, Cond.ofCode_code, Scope.ofCode_code,
    DType.ofCode_code, RM.ofCode_code, Size.ofCode_code, SliceOp.ofCode_code, RedOp.ofCode_code, AMode.ofCode_code,
    RoleId.ofCode_code, beq_self_eq_true, Bool.and_self, if_true, Nat.sub_self]
  all_goals rfl

theorem vslideUp (m : Mark) (vd va : V5) (ga : G6) (n : BitVec 16) (g : Guard) : Statement (.vslideUp m vd va ga n g) := by
  refine one_word rfl rfl (fun _ _ _ => by simp only [ne_eq, reduceCtorEq, not_false_eq_true]) fun x => ?_
  refine (rawDecode_FVI _ _ _ _ rfl).trans ?_
  show decodeFVI _ 0xAE _ = _
  simp (disch := omega) only [decodeFVI, zf, need, FM.ea, FM.vea, extract_append_high, extract_append_low, extract_self,
    lsbD_append_high, lsbD_append_low, lsbD_ofBool, ofBool_eq_one, Guard.ofCode_code, Cond.ofCode_code, Scope.ofCode_code,
    DType.ofCode_code, RM.ofCode_code, Size.ofCode_code, SliceOp.ofCode_code, RedOp.ofCode_code, AMode.ofCode_code,
    RoleId.ofCode_code, beq_self_eq_true, Bool.and_self, if_true, Nat.sub_self]
  all_goals rfl

theorem viota (m : Mark) (vd : V5) (ga : G6) (stp : BitVec 16) (g : Guard) : Statement (.viota m vd ga stp g) := by
  refine one_word rfl rfl (fun _ _ _ => by simp only [ne_eq, reduceCtorEq, not_false_eq_true]) fun x => ?_
  refine (rawDecode_FVI _ _ _ _ rfl).trans ?_
  show decodeFVI _ 0xAF _ = _
  simp (disch := omega) only [decodeFVI, zf, need, FM.ea, FM.vea, extract_append_high, extract_append_low, extract_self,
    lsbD_append_high, lsbD_append_low, lsbD_ofBool, ofBool_eq_one, Guard.ofCode_code, Cond.ofCode_code, Scope.ofCode_code,
    DType.ofCode_code, RM.ofCode_code, Size.ofCode_code, SliceOp.ofCode_code, RedOp.ofCode_code, AMode.ofCode_code,
    RoleId.ofCode_code, beq_self_eq_true, Bool.and_self, if_true, Nat.sub_self]
  all_goals rfl

theorem viotaPc (m : Mark) (vd : V5) (ga : G6) (stp : BitVec 16) (g : Guard) : Statement (.viotaPc m vd ga stp g) := by
  refine one_word rfl rfl (fun _ _ _ => by simp only [ne_eq, reduceCtorEq, not_false_eq_true]) fun x => ?_
  refine (rawDecode_FVI _ _ _ _ rfl).trans ?_
  show decodeFVI _ 0xAF _ = _
  simp (disch := omega) only [decodeFVI, zf, need, FM.ea, FM.vea, extract_append_high, extract_append_low, extract_self,
    lsbD_append_high, lsbD_append_low, lsbD_ofBool, ofBool_eq_one, Guard.ofCode_code, Cond.ofCode_code, Scope.ofCode_code,
    DType.ofCode_code, RM.ofCode_code, Size.ofCode_code, SliceOp.ofCode_code, RedOp.ofCode_code, AMode.ofCode_code,
    RoleId.ofCode_code, beq_self_eq_true, Bool.and_self, if_true, Nat.sub_self]
  all_goals rfl

theorem vperm (m : Mark) (vd va vb vc : V5) (g : Guard) : Statement (.vperm m vd va vb vc g) := by
  refine one_word rfl rfl (fun _ _ _ => by simp only [ne_eq, reduceCtorEq, not_false_eq_true]) fun x => ?_
  refine (rawDecode_FV _ _ _ _ rfl).trans ?_
  show decodeFV _ 0xA0 _ = _
  simp (disch := omega) only [decodeFV, zf, need, FM.ea, FM.vea, extract_append_high, extract_append_low, extract_self,
    lsbD_append_high, lsbD_append_low, lsbD_ofBool, ofBool_eq_one, Guard.ofCode_code, Cond.ofCode_code, Scope.ofCode_code,
    DType.ofCode_code, RM.ofCode_code, Size.ofCode_code, SliceOp.ofCode_code, RedOp.ofCode_code, AMode.ofCode_code,
    RoleId.ofCode_code, beq_self_eq_true, Bool.and_self, if_true, Nat.sub_self]

theorem vzip (m : Mark) (hi : Bool) (dt : DType) (vd va vb : V5) (g : Guard) : Statement (.vzip m hi dt vd va vb g) := by
  refine one_word rfl rfl (fun _ _ _ => by simp only [ne_eq, reduceCtorEq, not_false_eq_true]) fun x => ?_
  refine (rawDecode_FV _ _ _ _ rfl).trans ?_
  show decodeFV _ 0xA1 _ = _
  simp (disch := omega) only [decodeFV, zf, need, FM.ea, FM.vea, extract_append_high, extract_append_low, extract_self,
    lsbD_append_high, lsbD_append_low, lsbD_ofBool, ofBool_eq_one, Guard.ofCode_code, Cond.ofCode_code, Scope.ofCode_code,
    DType.ofCode_code, RM.ofCode_code, Size.ofCode_code, SliceOp.ofCode_code, RedOp.ofCode_code, AMode.ofCode_code,
    RoleId.ofCode_code, beq_self_eq_true, Bool.and_self, if_true, Nat.sub_self]
  all_goals rfl

theorem vuzp (m : Mark) (hi : Bool) (dt : DType) (vd va vb : V5) (g : Guard) : Statement (.vuzp m hi dt vd va vb g) := by
  refine one_word rfl rfl (fun _ _ _ => by simp only [ne_eq, reduceCtorEq, not_false_eq_true]) fun x => ?_
  refine (rawDecode_FV _ _ _ _ rfl).trans ?_
  show decodeFV _ 0xA2 _ = _
  simp (disch := omega) only [decodeFV, zf, need, FM.ea, FM.vea, extract_append_high, extract_append_low, extract_self,
    lsbD_append_high, lsbD_append_low, lsbD_ofBool, ofBool_eq_one, Guard.ofCode_code, Cond.ofCode_code, Scope.ofCode_code,
    DType.ofCode_code, RM.ofCode_code, Size.ofCode_code, SliceOp.ofCode_code, RedOp.ofCode_code, AMode.ofCode_code,
    RoleId.ofCode_code, beq_self_eq_true, Bool.and_self, if_true, Nat.sub_self]
  all_goals rfl

theorem vrand (m : Mark) (vd : V5) (ga : G6) (stream : BitVec 6) (g : Guard) : Statement (.vrand m vd ga stream g) := by
  refine one_word rfl rfl (fun _ _ _ => by simp only [ne_eq, reduceCtorEq, not_false_eq_true]) fun x => ?_
  refine (rawDecode_FVI _ _ _ _ rfl).trans ?_
  show decodeFVI _ 0xB0 _ = _
  simp (disch := omega) only [decodeFVI, zf, need, FM.ea, FM.vea, extract_append_high, extract_append_low, extract_self,
    lsbD_append_high, lsbD_append_low, lsbD_ofBool, ofBool_eq_one, Guard.ofCode_code, Cond.ofCode_code, Scope.ofCode_code,
    DType.ofCode_code, RM.ofCode_code, Size.ofCode_code, SliceOp.ofCode_code, RedOp.ofCode_code, AMode.ofCode_code,
    RoleId.ofCode_code, beq_self_eq_true, Bool.and_self, if_true, Nat.sub_self]
  all_goals rfl

theorem asyncTrapDelivery (c : Nat) (r : RoleId) : Statement (.asyncTrapDelivery c r) := no_word rfl rfl

theorem overdue (c : Nat) (r : RoleId) : Statement (.overdue c r) := no_word rfl rfl

theorem deadlock (c : Nat) : Statement (.deadlock c) := no_word rfl rfl

theorem faultRecordWrite (d : Nat) : Statement (.faultRecordWrite d) := no_word rfl rfl

theorem matrixCommandStart (c : Nat) : Statement (.matrixCommandStart c) := no_word rfl rfl

theorem matrixCommandCompletion (c : Nat) : Statement (.matrixCommandCompletion c) := no_word rfl rfl

theorem copyJobAdmission (c : Nat) : Statement (.copyJobAdmission c) := no_word rfl rfl

theorem copyJobCompletion (c : Nat) (id : Nat) : Statement (.copyJobCompletion c id) := no_word rfl rfl

theorem copyJobStop (c : Nat) (id : Nat) (line : Nat) : Statement (.copyJobStop c id line) := no_word rfl rfl

theorem contributionResend (c : Nat) (id : Nat) : Statement (.contributionResend c id) := no_word rfl rfl

theorem homeSliceRead (c : Nat) (r : RoleId) (id part : Nat) (err : Option MemErr) :
    Statement (.homeSliceRead c r id part err) := no_word rfl rfl

theorem homeSliceWrite (c : Nat) (id : Nat) : Statement (.homeSliceWrite c id) := no_word rfl rfl

theorem secondTouchFilterClear (sl : Nat) : Statement (.secondTouchFilterClear sl) := no_word rfl rfl

theorem sliceAtomic (c : Nat) (r : RoleId) : Statement (.sliceAtomic c r) := no_word rfl rfl

theorem sliceCasc (c : Nat) (r : RoleId) : Statement (.sliceCasc c r) := no_word rfl rfl

theorem reductionContribution (x : Contribution) : Statement (.reductionContribution x) := no_word rfl rfl

theorem continuationAccept (sl : Nat) : Statement (.continuationAccept sl) := no_word rfl rfl

theorem admissionHoldExpiry (sl : Nat) : Statement (.admissionHoldExpiry sl) := no_word rfl rfl

theorem deckWalkerEntry (d : Nat) : Statement (.deckWalkerEntry d) := no_word rfl rfl

theorem patrolScrub (n : Nat) (found : List ScrubFinding) (lastRow : Bool) : Statement (.patrolScrub n found lastRow) := no_word rfl rfl

theorem repairPass (n : Nat) : Statement (.repairPass n) := no_word rfl rfl

theorem abwRetire (k : Nat) : Statement (.abwRetire k) := no_word rfl rfl

theorem xidWrite (u : Nat) (x : BitVec 64) : Statement (.xidWrite u x) := no_word rfl rfl

theorem carveWrite (d : Nat) (x : BitVec 64) : Statement (.carveWrite d x) := no_word rfl rfl

theorem carveResizeDone (d : Nat) : Statement (.carveResizeDone d) := no_word rfl rfl

theorem mdregRegister (n : Nat) (x : BitVec 64) : Statement (.mdregRegister n x) := no_word rfl rfl

theorem mdregDeregister (n : Nat) (x : BitVec 64) : Statement (.mdregDeregister n x) := no_word rfl rfl

theorem mdregDone (n : Nat) : Statement (.mdregDone n) := no_word rfl rfl

theorem probeackWrite (d : Nat) (x : BitVec 64) : Statement (.probeackWrite d x) := no_word rfl rfl

theorem rgrpWrite (n : Nat) (x : BitVec 64) : Statement (.rgrpWrite n x) := no_word rfl rfl

theorem rgrpDrop (n : Nat) : Statement (.rgrpDrop n) := no_word rfl rfl

theorem rgrpDone (n : Nat) : Statement (.rgrpDone n) := no_word rfl rfl

theorem ctabWriteEntry (x : BitVec 64) : Statement (.ctabWriteEntry x) := no_word rfl rfl

theorem ctabReadEntry (x : BitVec 64) : Statement (.ctabReadEntry x) := no_word rfl rfl

theorem ctabUpdateDone : Statement .ctabUpdateDone := no_word rfl rfl

theorem kscfgWrite (x : BitVec 64) : Statement (.kscfgWrite x) := no_word rfl rfl

theorem start (x : BitVec 64) : Statement (.start x) := no_word rfl rfl

theorem stop : Statement .stop := no_word rfl rfl

theorem localAbort : Statement .localAbort := no_word rfl rfl

theorem voteFormed : Statement .voteFormed := no_word rfl rfl

theorem voteTimeout : Statement .voteTimeout := no_word rfl rfl

theorem voteMessage (port : Nat) (gn : BitVec 48) (flags : BitVec 8) (devid : BitVec 12) : Statement (.voteMessage port gn flags devid) := no_word rfl rfl

theorem decideMessage (port : Nat) (out : TreeOut) (gn next : BitVec 48) (flags : BitVec 8) : Statement (.decideMessage port out gn next flags) := no_word rfl rfl

theorem dack (port : Nat) (next : BitVec 48) (devid : BitVec 12) : Statement (.dack port next devid) := no_word rfl rfl

theorem dackSend : Statement .dackSend := no_word rfl rfl

theorem openMessage (port : Nat) (next : BitVec 48) : Statement (.openMessage port next) := no_word rfl rfl

theorem hostLaunch (d : Nat) (off : Nat) (bytes : List (BitVec 8)) : Statement (.hostLaunch d off bytes) := no_word rfl rfl

theorem taskSubmission (d : Nat) : Statement (.taskSubmission d) := no_word rfl rfl

theorem kennelMove (d : Nat) : Statement (.kennelMove d) := no_word rfl rfl

theorem successorSubmit (d : Nat) : Statement (.successorSubmit d) := no_word rfl rfl

theorem dispatchDecision (d : Nat) : Statement (.dispatchDecision d) := no_word rfl rfl

theorem dispatch (d : Nat) : Statement (.dispatch d) := no_word rfl rfl

theorem levelRise (d : Nat) (id : Nat) : Statement (.levelRise d id) := no_word rfl rfl

theorem nodeDecide (d : Nat) : Statement (.nodeDecide d) := no_word rfl rfl

theorem segmentEnd (d : Nat) (id : Nat) : Statement (.segmentEnd d id) := no_word rfl rfl

theorem taskRetirement (d : Nat) (id : Nat) : Statement (.taskRetirement d id) := no_word rfl rfl

theorem preemptRequest (d : Nat) (x : BitVec 64) : Statement (.preemptRequest d x) := no_word rfl rfl

theorem preemptSave (d : Nat) : Statement (.preemptSave d) := no_word rfl rfl

theorem resume (d : Nat) : Statement (.resume d) := no_word rfl rfl

theorem collectivePart (port : Nat) (part : CollPart) : Statement (.collectivePart port part) := no_word rfl rfl

theorem parkedPartDiscard (port : Nat) : Statement (.parkedPartDiscard port) := no_word rfl rfl

theorem collectiveComplete (port : Nat) (k : Nat) : Statement (.collectiveComplete port k) := no_word rfl rfl

theorem collectiveTimeout (port : Nat) (k : Nat) : Statement (.collectiveTimeout port k) := no_word rfl rfl

theorem peerRequest (port : Nat) (q : PeerReq) : Statement (.peerRequest port q) := no_word rfl rfl

theorem peerResponse (tag : Nat) (st : PeerStatus) (data : List (BitVec 8)) : Statement (.peerResponse tag st data) := no_word rfl rfl

theorem ptmcWriteArrival (port : Nat) (origin sq : Nat) (dpa : BitVec 44) (val : BitVec 64) : Statement (.ptmcWriteArrival port origin sq dpa val) := no_word rfl rfl

theorem portDown (port : Nat) : Statement (.portDown port) := no_word rfl rfl

theorem portcfgWrite (port : Nat) (x : BitVec 64) : Statement (.portcfgWrite port x) := no_word rfl rfl

theorem portUp (port : Nat) : Statement (.portUp port) := no_word rfl rfl

theorem routeWrite (x : BitVec 64) : Statement (.routeWrite x) := no_word rfl rfl

theorem routeRead (x : BitVec 64) : Statement (.routeRead x) := no_word rfl rfl

theorem hostRead (va : Nat) (n : Nat) : Statement (.hostRead va n) := no_word rfl rfl

theorem hostWrite (va : Nat) (bytes : List (BitVec 8)) : Statement (.hostWrite va bytes) := no_word rfl rfl

theorem unsupportedRequest (off n : Nat) : Statement (.unsupportedRequest off n) := no_word rfl rfl

theorem doorbell (d : Nat) (x : BitVec 64) : Statement (.doorbell d x) := no_word rfl rfl

theorem doorbellRead (d : Nat) : Statement (.doorbellRead d) := no_word rfl rfl

theorem tstampWrite (x : BitVec 64) : Statement (.tstampWrite x) := no_word rfl rfl

theorem herrRead : Statement .herrRead := no_word rfl rfl

theorem ehptrRead (n : Nat) : Statement (.ehptrRead n) := no_word rfl rfl

theorem shstatRead (d : Nat) : Statement (.shstatRead d) := no_word rfl rfl

theorem ksstatRead : Statement .ksstatRead := no_word rfl rfl

theorem lstatRead (d : Nat) : Statement (.lstatRead d) := no_word rfl rfl

theorem knstatRead (d : Nat) : Statement (.knstatRead d) := no_word rfl rfl

theorem clstatRead (d : Nat) : Statement (.clstatRead d) := no_word rfl rfl

theorem portstatRead (port : Nat) : Statement (.portstatRead port) := no_word rfl rfl

theorem fqptrRead (d : Nat) : Statement (.fqptrRead d) := no_word rfl rfl

theorem trptrRead (d : Nat) : Statement (.trptrRead d) := no_word rfl rfl

theorem registerWrite (n : Nat) (x : BitVec 64) : Statement (.registerWrite n x) := no_word rfl rfl

theorem contextReset (x : BitVec 64) : Statement (.contextReset x) := no_word rfl rfl

theorem warmReset : Statement .warmReset := no_word rfl rfl

theorem quiescedWarmReset : Statement .quiescedWarmReset := no_word rfl rfl

theorem coldReset : Statement .coldReset := no_word rfl rfl

theorem attestationReport (x : BitVec 64) : Statement (.attestationReport x) := no_word rfl rfl

theorem attestationDone : Statement .attestationDone := no_word rfl rfl

theorem cfgswGo : Statement .cfgswGo := no_word rfl rfl

theorem unitPlaneSwitch (u : Nat) : Statement (.unitPlaneSwitch u) := no_word rfl rfl

theorem pwrctlWrite (i : Nat) (x : BitVec 64) : Statement (.pwrctlWrite i x) := no_word rfl rfl

theorem powerChangeDone (i : Nat) : Statement (.powerChangeDone i) := no_word rfl rfl

theorem telemetrySample (isl : List TeleSample) (ports : List PortSample) : Statement (.telemetrySample isl ports) := no_word rfl rfl

theorem debugHalt (c : Nat) (x : BitVec 64) : Statement (.debugHalt c x) := no_word rfl rfl

theorem debugStep (c : Nat) (r : RoleId) : Statement (.debugStep c r) := no_word rfl rfl

theorem addressBreakpoint (c : Nat) (r : RoleId) : Statement (.addressBreakpoint c r) := no_word rfl rfl

theorem dbgdataRead (c : Nat) : Statement (.dbgdataRead c) := no_word rfl rfl

theorem dbgdataWrite (c : Nat) (x : BitVec 64) : Statement (.dbgdataWrite c x) := no_word rfl rfl

theorem flitReplay (port : Nat) : Statement (.flitReplay port) := no_word rfl rfl

theorem partAnswer (port : Nat) (tag : Nat) (st : PartStatus) : Statement (.partAnswer port tag st) := no_word rfl rfl

theorem ptmcAcknowledgement (origin sq : Nat) : Statement (.ptmcAcknowledgement origin sq) := no_word rfl rfl

theorem predecodeSkip (c : Nat) (r : RoleId) : Statement (.predecodeSkip c r) := no_word rfl rfl

/-- A safe has two words (R236). -/
theorem safe (m : Mark) (gmask : BitVec 47) (vmask : BitVec 28) : Statement (.safe m gmask vmask) := by
  intro hw
  refine ⟨fun _ rest => ?_, trivial⟩
  have hd : decodeWords (FSafe.pack m 0x2A { gmask := gmask }) (some (FExt.pack ⟨m.tag, false, false⟩ 0xFE { vmask := vmask })) =
      .ok (.safe m gmask vmask) := by
    rw [decodeWords, rawDecode_safe _ _ _ rfl]
    rfl
  show decodeBytes ((bytesOfWord _ ++ (bytesOfWord _ ++ [])) ++ rest) = _
  rw [List.append_nil, List.append_assoc]
  simp only [decodeBytes, wordOfBytes_bytesOfWord, hd]

theorem mnop (w : WaitSig) : Statement (.mnop w) :=
  matrix_word rfl rfl rfl fun hw => (rawMatrix_pack _ _ _ (first_head (check_of_wf hw))).trans rfl

theorem mma (w : WaitSig) (lp : Bool) (fidx ha hb : BitVec 4) (acc : BitVec 3) (reuse popa popb : Bool) :
    Statement (.mma w lp fidx ha hb acc reuse popa popb) := by
  refine matrix_word rfl rfl rfl fun hw => (rawMatrix_pack _ _ _ (first_head (check_of_wf hw))).trans ?_
  show zf ((FMma.parse (FMma.bits _)).zf == 0) _ = _
  simp only [FMma.parse_bits, ofBool_eq_one]
  rfl

theorem mzr (w : WaitSig) (acc : BitVec 3) (ty cs : Bool) : Statement (.mzr w acc ty cs) := by
  refine matrix_word rfl rfl rfl fun hw => (rawMatrix_pack _ _ _ (first_head (check_of_wf hw))).trans ?_
  show zf ((FMzr.parse (FMzr.bits _)).zf == 0) _ = _
  simp only [FMzr.parse_bits, ofBool_eq_one]
  rfl

theorem mld (w : WaitSig) (acc : BitVec 3) (ty cs : Bool) (h : BitVec 4) (pop : Bool) :
    Statement (.mld w acc ty cs h pop) := by
  refine matrix_word rfl rfl rfl fun hw => (rawMatrix_pack _ _ _ (first_head (check_of_wf hw))).trans ?_
  show zf ((FMld.parse (FMld.bits _)).zf == 0) _ = _
  simp only [FMld.parse_bits, ofBool_eq_one]
  rfl

theorem mdr (w : WaitSig) (acc : BitVec 3) (dt : BitVec 4) (rm : RM) (sat : Bool) (h : BitVec 4) (clr free : Bool) :
    Statement (.mdr w acc dt rm sat h clr free) := by
  refine matrix_word rfl rfl rfl fun hw => (rawMatrix_pack _ _ _ (first_head (check_of_wf hw))).trans ?_
  show zf ((FMdr.parse (FMdr.bits _)).zf == 0) _ = _
  simp only [FMdr.parse_bits, ofBool_eq_one, RM.ofCode_low, need]
  rfl

theorem mcfgRedundant (w : WaitSig) (red : Bool) : Statement (.mcfgRedundant w red) := by
  refine matrix_word rfl rfl rfl fun hw => (rawMatrix_pack _ _ _ (first_head (check_of_wf hw))).trans ?_
  show (match (FMcfg.parse (FMcfg.bits _)).sub.toNat with | 0 => _ | 1 => _ | _ => _) = _
  simp only [FMcfg.parse_bits]
  cases red <;> rfl

theorem mcfgLoadFormat (w : WaitSig) (h : BitVec 4) (pop : Bool) : Statement (.mcfgLoadFormat w h pop) := by
  refine matrix_word rfl rfl rfl fun hw => (rawMatrix_pack _ _ _ (first_head (check_of_wf hw))).trans ?_
  show (match (FMcfg.parse (FMcfg.bits _)).sub.toNat with | 0 => _ | 1 => _ | _ => _) = _
  simp (disch := omega) only [FMcfg.parse_bits, lsbD_append_low, lsbD_ofBool, extract_append_high, extract_self, Nat.sub_self]
  rfl

theorem cnop (w : WaitSig) : Statement (.cnop w) := by
  refine copy_words rfl rfl fun hw => (rawCopy_one w 0 0 (first_head (check_of_wf hw))).trans ?_
  show zf (0 == 0) (.ok (.cnop (FCmd.ws _))) = _
  rw [ws_of_bits]
  rfl

theorem bartx (w : WaitSig) (bcore : BitVec 6) (boff : BitVec 17) (bytes : BitVec 48) :
    Statement (.bartx w bcore boff bytes) := by
  refine copy_words rfl rfl fun hw => (rawCopy_two w 7 _ _ (first_head (check_of_wf hw))).trans ?_
  show zf (_ && (FBytes.parse (FBytes.bits _)).zf == 0) (.ok (.bartx (FCmd.ws _) _ _ (FBytes.parse (FBytes.bits _)).bytes)) = _
  rw [ws_of_bits, FBytes.parse_bits]
  rfl

theorem cpy (w : WaitSig) (dims : BitVec 2) (src dst : CopySide) (x : CopyOpts) (len : BitVec 24) (shp : BitVec 18) : Statement (.cpy w dims src dst x len shp) := by
  refine copy_words rfl rfl fun hw => (rawCopy_four w 1 _ _ _ _ (first_head (check_of_wf hw))).trans ?_
  have hp := first_head (first_second (first_second (first_second (first_second (check_of_wf hw)))))
  simp only [rawCopy4, ws_of_bits, addr_split, FLen.parse_bits, FCpy.srcZ, FCpy.dstZ, FCpy.noSrc, FCpy.noDst, FCpy.opts,
    side_src, side_dst _ hp, side_srcZ, side_dstZ, opts_of_bits, ofBool_eq_one]
  rfl

theorem cpyd (w : WaitSig) (sa : BitVec 57) (dst : CopySide) (x : CopyOpts) (len : BitVec 24) : Statement (.cpyd w sa dst x len) := by
  refine copy_words rfl rfl fun hw => (rawCopy_four w 2 _ _ _ _ (first_head (check_of_wf hw))).trans ?_
  have hp := first_head (first_second (first_second (check_of_wf hw)))
  simp only [rawCopy4, ws_of_bits, addr_split, FHalf.parse_bits, FCpy.srcZ, FCpy.dstZ, FCpy.noSrc, FCpy.noDst, FCpy.opts,
    side_dst _ hp, side_dstZ, opts_of_bits, ofBool_eq_one]
  rfl

theorem gath (w : WaitSig) (table : BitVec 57) (dst : CopySide) (x : CopyOpts) (nm1 : BitVec 16) (esz : BitVec 4)
    (idx : BitVec 19) : Statement (.gath w table dst x nm1 esz idx) := by
  refine copy_words rfl rfl fun hw => (rawCopy_four w 3 _ _ _ _ (first_head (check_of_wf hw))).trans ?_
  have hp := first_head (first_second (first_second (check_of_wf hw)))
  simp only [rawCopy4, ws_of_bits, addr_split, FGath.parse_bits, FCpy.srcZ, FCpy.dstZ, FCpy.noSrc, FCpy.noDst, FCpy.opts,
    side_dst _ hp, side_dstZ, opts_of_bits, ofBool_eq_one]
  rfl

theorem scat (w : WaitSig) (src : CopySide) (table : BitVec 57) (x : CopyOpts) (nm1 : BitVec 16) (esz : BitVec 4)
    (idx : BitVec 19) : Statement (.scat w src table x nm1 esz idx) := by
  refine copy_words rfl rfl fun hw => (rawCopy_four w 4 _ _ _ _ (first_head (check_of_wf hw))).trans ?_
  simp only [rawCopy4, ws_of_bits, addr_split, FGath.parse_bits, FCpy.srcZ, FCpy.dstZ, FCpy.noSrc, FCpy.noDst, FCpy.opts,
    side_src, side_srcZ, opts_of_bits, ofBool_eq_one]
  rfl

theorem fill (w : WaitSig) (dst : CopySide) (x : CopyOpts) (len : BitVec 24) (pat : BitVec 64) : Statement (.fill w dst x len pat) := by
  refine copy_words rfl rfl fun hw => (rawCopy_four w 5 _ _ _ _ (first_head (check_of_wf hw))).trans ?_
  have hp := first_head (first_second (first_second (check_of_wf hw)))
  have he : pat.extractLsb' 32 32 ++ pat.extractLsb' 0 32 = pat := (extract_append_adj pat 0 32 32).trans (extract_self pat)
  simp only [rawCopy4, ws_of_bits, addr_split, FHalf.parse_bits, FCpy.srcZ, FCpy.dstZ, FCpy.noSrc, FCpy.noDst, FCpy.opts,
    side_dst _ hp, side_dstZ, opts_of_bits, ofBool_eq_one, he]
  rfl

theorem redc (w : WaitSig) (src : CopySide) (da : BitVec 57) (x : CopyOpts) (len : BitVec 24) (op : BitVec 4) (dbl : Bool)
    (group : BitVec 8) (srcid : BitVec 16) : Statement (.redc w src da x len op dbl group srcid) := by
  refine copy_words rfl rfl fun hw => (rawCopy_four w 6 _ _ _ _ (first_head (check_of_wf hw))).trans ?_
  simp only [rawCopy4, ws_of_bits, addr_split, FRedc.parse_bits, FCpy.srcZ, FCpy.dstZ, FCpy.noSrc, FCpy.noDst, FCpy.opts,
    side_src, side_srcZ, opts_of_bits, ofBool_eq_one]
  rfl

end Sys2Proof.Laws.Encoding
end

