-- ==== Sys2Proof/Safety.lean ====
section
/-! DEFINITION. Sys2Proof/Safety.lean: the terms in which statements are made: when a role issues a word, when its
operands can be used, and the tables of the manual as functions on numbers. -/

namespace Sys2Proof.Machine

/-! ## When a word issues -/

/-- The role that acts issues the word i, of len words: it exists and is not held, owes no token, has no trap to take
first, has not run 4,096 words since its last safe point (R220), may pass the slip window (R203), and the word is no
ILLEGAL one and finds the token of its pop-before, which no earlier store or release of the role holds back (R112, R241), or has
popped it (R89). -/
def ready (s : State) (i : Instr) (m : Mark) (len : Nat) : Bool :=
  let c := s.cur.1
  let r := s.cur.2
  let x := getRole s c r
  roleExists s c r && !roleHeld s c r && !x.pushDue && (!trapPending x || inHandler x || x.mid != 0) &&
    x.safecnt.toNat != 4096 && mayPass s c r len && i.check.isNone && !barred c i &&
    !(isSystem c && (m.pb || m.pa)) && (!m.pb || x.popDone || (upCount (core s c) r != 0 && acqReady s c r .core))

/-- The acting role's sources can be read and its destination written: nothing unbound, no queue trap, no wait. -/
def usable (s : State) (src : List Src) (dst : Dst) : Bool :=
  match checkUse s.cur.1 s.cur.2 s src dst with
  | .ok _ => true
  | .error _ => false

/-- A word's scalar guard holds for the acting role (R227). -/
def guardHolds (s : State) (g : Guard) : Bool := guardBit s.cur.1 s.cur.2 s g

/-- Some lane of a word's vector guard is active for the acting role (R241). -/
def lanesHold (s : State) (g : Guard) : Bool := guardLanes s.cur.1 s.cur.2 s g != 0

/-- A scalar source of the acting role, read in turn: the state after its pop, and its value. -/
def src (s t : State) (x : G6) : State × Reg := readG s.cur.1 s.cur.2 t x

/-- The acting role's word ends: its result written to a scalar destination, and completion with one word passed. -/
def finishG (s t : State) (m : Mark) (rd : G6) (v : Reg) (fl : Flow) : State :=
  complete (writeG s.cur.1 s.cur.2 t rd v) s.cur.1 s.cur.2 m 1 fl

/-- The acting role stays at a word that has begun: the state of the stage reached, with the token of its pop-before taken, unless
the word may still trap (R89, R241). -/
def standing (s t : State) (i : Instr) (m : Mark) : State := if trapsLate i then t else popEarly t s.cur.1 s.cur.2 m

/-- The acting role's word ends with no scalar result. -/
def finish (s t : State) (m : Mark) (len : Nat) (fl : Flow) : State := complete t s.cur.1 s.cur.2 m len fl

/-! ## The invariant of runs -/

/-- Memory is in its canonical form, and the tables that entries are taken out of have strictly rising keys. -/
def RunInv (s : State) : Prop :=
  Memory.wf s.mem = true ∧ tabSorted s.deck = true ∧ tabSorted s.mdCache = true ∧ tabSorted s.ks.abw = true ∧
    tabSorted s.routes = true

/-! ## Scalar arithmetic on numbers (R255 to R263) -/

/-- A word that reads two general operands and writes one: its fields and its operation. -/
structure Alu3 where
  m  : Mark
  rd : G6
  ra : G6
  rb : G6
  g  : Guard
  f  : Word → Word → Word

/-- A condition of R237 on numbers. -/
def condSpec (c : Cond) (a b : Word) : Bool :=
  match c with
  | .eq => decide (a.toNat = b.toNat)
  | .ne => decide (a.toNat ≠ b.toNat)
  | .lt => decide (a.toInt < b.toInt)
  | .ge => decide (b.toInt ≤ a.toInt)
  | .ltu => decide (a.toNat < b.toNat)
  | .geu => decide (b.toNat ≤ a.toNat)
  | .gt => decide (b.toInt < a.toInt)
  | .le => decide (a.toInt ≤ b.toInt)
  | .gtu => decide (b.toNat < a.toNat)
  | .leu => decide (a.toNat ≤ b.toNat)

/-- Bits [pos + len − 1 : pos] of b replaced by the low len bits of a, as a number (R257). -/
def insertSpec (a b : Word) (pos len : Nat) : Nat :=
  b.toNat / 2 ^ (pos + len) * 2 ^ (pos + len) + a.toNat % 2 ^ len * 2 ^ pos + b.toNat % 2 ^ pos

/-- The instructions of R255, R256, R257 (bfi, sel), R260 and R262 (cset), with their operations on numbers. -/
def alu3Of (s : State) : Instr → Option Alu3
  | .add m d a b g => some ⟨m, d, a, b, g, fun x y => BitVec.ofNat 64 (x.toNat + y.toNat)⟩
  | .sub m d a b g => some ⟨m, d, a, b, g, fun x y => BitVec.ofInt 64 ((x.toNat : Int) - y.toNat)⟩
  | .mul m d a b g => some ⟨m, d, a, b, g, fun x y => BitVec.ofNat 64 (x.toNat * y.toNat)⟩
  | .mulh m d a b g => some ⟨m, d, a, b, g, fun x y => BitVec.ofInt 64 (x.toInt * y.toInt / 2 ^ 64)⟩
  | .mulhu m d a b g => some ⟨m, d, a, b, g, fun x y => BitVec.ofNat 64 (x.toNat * y.toNat / 2 ^ 64)⟩
  | .div m d a b g => some ⟨m, d, a, b, g, fun x y =>
      if y.toNat = 0 then BitVec.ofNat 64 (2 ^ 64 - 1) else BitVec.ofInt 64 (x.toInt.tdiv y.toInt)⟩
  | .divu m d a b g => some ⟨m, d, a, b, g, fun x y =>
      if y.toNat = 0 then BitVec.ofNat 64 (2 ^ 64 - 1) else BitVec.ofNat 64 (x.toNat / y.toNat)⟩
  | .rem m d a b g => some ⟨m, d, a, b, g, fun x y => if y.toNat = 0 then x else BitVec.ofInt 64 (x.toInt.tmod y.toInt)⟩
  | .remu m d a b g => some ⟨m, d, a, b, g, fun x y => if y.toNat = 0 then x else BitVec.ofNat 64 (x.toNat % y.toNat)⟩
  | .and m d a b g => some ⟨m, d, a, b, g, fun x y => BitVec.ofNat 64 (x.toNat &&& y.toNat)⟩
  | .or m d a b g => some ⟨m, d, a, b, g, fun x y => BitVec.ofNat 64 (x.toNat ||| y.toNat)⟩
  | .xor m d a b g => some ⟨m, d, a, b, g, fun x y => BitVec.ofNat 64 (x.toNat ^^^ y.toNat)⟩
  | .andn m d a b g => some ⟨m, d, a, b, g, fun x y => BitVec.ofNat 64 (x.toNat &&& (2 ^ 64 - 1 - y.toNat))⟩
  | .shl m d a b g => some ⟨m, d, a, b, g, fun x y => BitVec.ofNat 64 (x.toNat * 2 ^ (y.toNat % 64))⟩
  | .shr m d a b g => some ⟨m, d, a, b, g, fun x y => BitVec.ofNat 64 (x.toNat / 2 ^ (y.toNat % 64))⟩
  | .sar m d a b g => some ⟨m, d, a, b, g, fun x y => BitVec.ofInt 64 (x.toInt / 2 ^ (y.toNat % 64))⟩
  | .rotr m d a b g => some ⟨m, d, a, b, g, fun x y =>
      BitVec.ofNat 64 (x.toNat / 2 ^ (y.toNat % 64) + x.toNat * 2 ^ (64 - y.toNat % 64))⟩
  | .min m d a b g => some ⟨m, d, a, b, g, fun x y => if x.toInt ≤ y.toInt then x else y⟩
  | .max m d a b g => some ⟨m, d, a, b, g, fun x y => if x.toInt ≤ y.toInt then y else x⟩
  | .minu m d a b g => some ⟨m, d, a, b, g, fun x y => if x.toNat ≤ y.toNat then x else y⟩
  | .maxu m d a b g => some ⟨m, d, a, b, g, fun x y => if x.toNat ≤ y.toNat then y else x⟩
  | .bfi m d a b pos len g => some ⟨m, d, a, b, g, fun x y =>
      BitVec.ofNat 64 (insertSpec x y pos.toNat (len.toNat + 1))⟩
  | .sel m d a b p g => some ⟨m, d, a, b, g, fun x y => if bit (readP s.cur.1 s.cur.2 s p) 0 then x else y⟩
  | .lea m d e g => some ⟨m, d, e.rb, e.ri, g, fun x y =>
      BitVec.ofInt 64 (((x.toNat : Int) + y.toNat * 2 ^ e.sc.toNat + e.off.toInt) % 2 ^ 57)⟩
  | .cset m c d a b g => some ⟨m, d, a, b, g, fun x y => if condSpec c x y then 1 else 0⟩
  | _ => none

/-- A word that reads one general operand and writes one; `keep`: the result takes the operand's taint. -/
structure Alu2 where
  m    : Mark
  rd   : G6
  ra   : G6
  g    : Guard
  keep : Bool
  f    : Word → Word

/-- The instructions of R257 with one operand, R258 (lih), R259 and R261. -/
def alu2Of : Instr → Option Alu2
  | .clz m d a g => some ⟨m, d, a, g, true, fun x => BitVec.ofNat 64 (leadZeros x 64)⟩
  | .ctz m d a g => some ⟨m, d, a, g, true, fun x => BitVec.ofNat 64 (trailZeros x 0 64)⟩
  | .popc m d a g => some ⟨m, d, a, g, true, fun x => BitVec.ofNat 64 (oneBits x 64)⟩
  | .sext m d a w g => some ⟨m, d, a, g, true, fun x => (x.setWidth (w.toNat + 1)).signExtend 64⟩
  | .zext m d a w g => some ⟨m, d, a, g, true, fun x => BitVec.ofNat 64 (x.toNat % 2 ^ (w.toNat + 1))⟩
  | .bfx m d a p n g => some ⟨m, d, a, g, true, fun x => BitVec.ofNat 64 (x.toNat / 2 ^ p.toNat % 2 ^ (n.toNat + 1))⟩
  | .lih m d a i g => some ⟨m, d, a, g, false, fun x => BitVec.ofNat 64 (i.toNat * 2 ^ 32 + x.toNat % 2 ^ 32)⟩
  | .mov m d a g => some ⟨m, d, a, g, true, fun x => x⟩
  | .addi m d a i g => some ⟨m, d, a, g, true, fun x => BitVec.ofInt 64 (x.toInt + i.toInt)⟩
  | .andi m d a i g => some ⟨m, d, a, g, true, fun x => x &&& i.signExtend 64⟩
  | .ori m d a i g => some ⟨m, d, a, g, true, fun x => x ||| i.signExtend 64⟩
  | .xori m d a i g => some ⟨m, d, a, g, true, fun x => x ^^^ i.signExtend 64⟩
  | .shli m d a n g => some ⟨m, d, a, g, true, fun x => BitVec.ofNat 64 (x.toNat * 2 ^ n.toNat)⟩
  | .shri m d a n g => some ⟨m, d, a, g, true, fun x => BitVec.ofNat 64 (x.toNat / 2 ^ n.toNat)⟩
  | .sari m d a n g => some ⟨m, d, a, g, true, fun x => BitVec.ofInt 64 (x.toInt / 2 ^ n.toNat)⟩
  | _ => none

/-- A predicate operation of R263: destination, sources, and its effect on them. -/
structure PredOp where
  m  : Mark
  pd : P3
  pa : P3
  pb : P3
  g  : Guard
  f  : Word → Word → Word

/-- The predicate operations on predicates (R263). -/
def predOf : Instr → Option PredOp
  | .pand m d a b g => some ⟨m, d, a, b, g, fun x y => x &&& y⟩
  | .por m d a b g => some ⟨m, d, a, b, g, fun x y => x ||| y⟩
  | .pxor m d a b g => some ⟨m, d, a, b, g, fun x y => x ^^^ y⟩
  | .pnot m d a g => some ⟨m, d, a, a, g, fun x _ => ~~~x⟩
  | .pmov m d a g => some ⟨m, d, a, a, g, fun x _ => x⟩
  | _ => none

end Sys2Proof.Machine
end

