-- ==== Sys2Proof/Certificates/Slice0/Obligations.lean ====
section
/-! DEFINITION. Sys2Proof/Certificates/Slice0/Obligations.lean: the statements for the provers, in the terms of
Sys2Proof/Safety.lean and of the definitions that stand beside them here. A statement about a word says, for every state in
which its role issues it (`ready`) with usable operands, that exec answers a next state, and which. -/

namespace Sys2Proof.Claims
end Sys2Proof.Claims

open Sys2Proof Sys2Proof.Machine Sys2Proof.Claims

/-! ## Scalar words -/

/-- R255, R256, R257 (bfi, sel), R260, R262 (cset): a two-source scalar word that issues with usable operands and a
holding guard writes its operation's value, with the OR of the sources' taints (R90), and completes. -/
def Sys2Proof.Claims.twoSourceWordsResult : Prop :=
  ∀ (s : State) (i : Instr) (x : Alu3), alu3Of s i = some x → ready s i x.m 1 = true → guardHolds s x.g = true →
    usable s [.g x.ra, .g x.rb] (.g x.rd) = true →
    let a := src s s x.ra
    let b := src s a.1 x.rb
    exec i s = .next (finishG s b.1 x.m x.rd ⟨x.f a.2.val b.2.val, a.2.taint || b.2.taint⟩ .seq)

/-- R257, R258 (lih), R259, R261: a one-source scalar word writes its operation's value, with its source's taint but
for lih, whose taint is 0, and completes. -/
def Sys2Proof.Claims.oneSourceWordsResult : Prop :=
  ∀ (s : State) (i : Instr) (x : Alu2), alu2Of i = some x → ready s i x.m 1 = true → guardHolds s x.g = true →
    usable s [.g x.ra] (.g x.rd) = true →
    let a := src s s x.ra
    exec i s = .next (finishG s a.1 x.m x.rd ⟨x.f a.2.val, a.2.taint && x.keep⟩ .seq)

/-- R255 to R262: every scalar word of one or two general sources writes its result and completes. -/
def Obligations.ScalarWordsResult : Prop :=
  Claims.twoSourceWordsResult ∧ Claims.oneSourceWordsResult

/-- R262 (cmp), R263, R258 (li): predicates are written with all ones or 0 by a comparison, with an operation on
predicates, or from a general register; a predicate or an immediate goes to a general register with taint 0. -/
def Obligations.PredicateWordsResult : Prop :=
  (∀ (s : State) (m : Mark) (c : Cond) (pd : P3) (ra rb : G6) (g : Guard),
    ready s (.cmp m c pd ra rb g) m 1 = true → guardHolds s g = true → usable s [.g ra, .g rb] .none = true →
    let a := src s s ra
    let b := src s a.1 rb
    exec (.cmp m c pd ra rb g) s = .next (finish s (writeP s.cur.1 s.cur.2 b.1 pd
      (BitVec.ofInt 64 (if condSpec c a.2.val b.2.val then -1 else 0))) m 1 .seq)) ∧
  (∀ (s : State) (i : Instr) (x : PredOp), predOf i = some x → ready s i x.m 1 = true → guardHolds s x.g = true →
    exec i s = .next (finish s (writeP s.cur.1 s.cur.2 s x.pd
      (x.f (readP s.cur.1 s.cur.2 s x.pa) (readP s.cur.1 s.cur.2 s x.pb))) x.m 1 .seq)) ∧
  (∀ (s : State) (m : Mark) (pd : P3) (ra : G6) (g : Guard),
    ready s (.pmovFromGeneral m pd ra g) m 1 = true → guardHolds s g = true → usable s [.g ra] .none = true →
    exec (.pmovFromGeneral m pd ra g) s =
      .next (finish s (writeP s.cur.1 s.cur.2 (src s s ra).1 pd (src s s ra).2.val) m 1 .seq)) ∧
  (∀ (s : State) (m : Mark) (rd : G6) (pa : P3) (g : Guard),
    ready s (.pmovToGeneral m rd pa g) m 1 = true → guardHolds s g = true → usable s [] (.g rd) = true →
    exec (.pmovToGeneral m rd pa g) s = .next (finishG s s m rd ⟨readP s.cur.1 s.cur.2 s pa, false⟩ .seq)) ∧
  (∀ (s : State) (m : Mark) (rd : G6) (imm : BitVec 32) (g : Guard),
    ready s (.li m rd imm g) m 1 = true → guardHolds s g = true → usable s [] (.g rd) = true →
    exec (.li m rd imm g) s = .next (finishG s s m rd ⟨BitVec.ofInt 64 imm.toInt, false⟩ .seq))

/-- R257: the counts of clz, ctz and popc. -/
def Obligations.BitCounts : Prop :=
  ∀ a : Word,
    (a = 0 → leadZeros a 64 = 64 ∧ trailZeros a 0 64 = 64) ∧
    (a ≠ 0 → leadZeros a 64 ≤ 63 ∧ 2 ^ (63 - leadZeros a 64) ≤ a.toNat ∧ a.toNat < 2 ^ (64 - leadZeros a 64)) ∧
    (a ≠ 0 → a.toNat % 2 ^ trailZeros a 0 64 = 0 ∧ a.toNat / 2 ^ trailZeros a 0 64 % 2 = 1) ∧
    oneBits a 64 = ((List.range 64).filter fun k => a.toNat / 2 ^ k % 2 = 1).length

/-! ## Control -/

/-- The address 8 × disp bytes from the acting role's word, in the 57-bit space (R265). -/
def Sys2Proof.Claims.branchTo (s : State) (disp : BitVec 32) : Nat :=
  ((((getRole s s.cur.1 s.cur.2).pc.toNat : Int) + 8 * disp.toInt) % 2 ^ 57).toNat

/-- The address of the word after the acting role's, as a link: taint 0 (R265). -/
def Sys2Proof.Claims.linkReg (s : State) : Reg := ⟨BitVec.ofNat 64 (((getRole s s.cur.1 s.cur.2).pc.toNat + 8) % 2 ^ 57), false⟩

/-- R265: each branch completes with its counter at the target it names, or at the next word when its condition does
not hold; call and jmp write the link, jmp after reading its target; a register target must be a multiple of 8. -/
def Sys2Proof.Claims.branchesGoWhereTheySay : Prop :=
  (∀ (s : State) (m : Mark) (d : BitVec 32), ready s (.bra m d) m 1 = true →
    exec (.bra m d) s = .next (finish s s m 1 (.jump (branchTo s d)))) ∧
  (∀ (s : State) (m : Mark) (ra : G6) (i : Instr), i = .br m ra ∨ i = .ret m ra → ready s i m 1 = true →
    usable s [.g ra] .none = true → (src s s ra).2.val.toNat % 8 = 0 →
    exec i s = .next (finish s (src s s ra).1 m 1 (.jump ((src s s ra).2.val.toNat % 2 ^ 57)))) ∧
  (∀ (s : State) (m : Mark) (c : Cond) (ra rb : G6) (d : BitVec 32), ready s (.brc m c ra rb d) m 1 = true →
    usable s [.g ra, .g rb] .none = true →
    let a := src s s ra
    let b := src s a.1 rb
    exec (.brc m c ra rb d) s =
      .next (finish s b.1 m 1 (if condSpec c a.2.val b.2.val then .jump (branchTo s d) else .seq))) ∧
  (∀ (s : State) (m : Mark) (ne : Bool) (q : BitVec 3) (d : BitVec 32), ready s (.brq m ne q d) m 1 = true →
    exec (.brq m ne q d) s =
      .next (finish s s m 1 (if qFilled (Machine.core s s.cur.1) q.toNat 0 = ne then .jump (branchTo s d) else .seq))) ∧
  (∀ (s : State) (m : Mark) (rd : G6) (d : BitVec 32), ready s (.call m rd d) m 1 = true →
    usable s [] (.g rd) = true →
    exec (.call m rd d) s = .next (finishG s s m rd (linkReg s) (.jump (branchTo s d)))) ∧
  (∀ (s : State) (m : Mark) (rd ra : G6), ready s (.jmp m rd ra) m 1 = true →
    usable s [.g ra] (.g rd) = true → (src s s ra).2.val.toNat % 8 = 0 →
    exec (.jmp m rd ra) s = .next (finishG s (src s s ra).1 m rd (linkReg s)
      (.jump ((src s s ra).2.val.toNat % 2 ^ 57))))

/-- R266: loop decrements its counter modulo 2^32 and branches while it is not 0; lrec loads the low 32 bits of a
register plus an immediate. -/
def Sys2Proof.Claims.loopCounters : Prop :=
  (∀ (s : State) (m : Mark) (lc : BitVec 2) (d : BitVec 32), ready s (.loop m lc d) m 1 = true →
    let v : BitVec 32 := BitVec.ofInt 32 ((loopCount s s.cur.1 s.cur.2 lc.toNat).toNat - 1)
    exec (.loop m lc d) s = .next (finish s (setLoop s s.cur.1 s.cur.2 lc.toNat v) m 1
      (if v.toNat = 0 then .seq else .jump (branchTo s d)))) ∧
  (∀ (s : State) (m : Mark) (lc : BitVec 2) (ra : G6) (imm : BitVec 32), ready s (.lrec m lc ra imm) m 1 = true →
    usable s [.g ra] .none = true →
    let a := src s s ra
    exec (.lrec m lc ra imm) s = .next (finish s (setLoop a.1 s.cur.1 s.cur.2 lc.toNat
      (BitVec.ofInt 32 (a.2.val.toInt + imm.toInt))) m 1 .seq))

/-- R265, R266: branches, calls and counted loops go where they say and write their links and counters. -/
def Obligations.BranchesAndLoops : Prop :=
  Claims.branchesGoWhereTheySay ∧ Claims.loopCounters

/-- The segment that the acting role's task runs is its last (R415). -/
def Sys2Proof.Claims.inLastSegment (s : State) : Bool :=
  match coreTask s s.cur.1 with
  | some t => lastSegment t
  | none => true

/-- R200, R267, R268, R269, R264: fin ends a worker's role: in its task's last segment its registers are unbound, and before
that they stay; the trap state of a handler that it ends goes; its push-after acts with it. safe keeps the registers that its
masks name and no others, and resets SAFECNT but in a LOOP task, where it counts as a word. wait holds the role for its number of
clocks, at most 65,536, until WAIT_EXPIRY; nop only completes. -/
def Obligations.RolesEndMarkAndWait : Prop :=
  (∀ (s : State) (m : Mark), ready s (.fin m) { m with pa := false } 1 = true →
    let x := getRole s s.cur.1 s.cur.2
    isSystem s.cur.1 = false → trapPending x = false → x.loads = [] →
    (m.pa = true → pushReady s s.cur.1 s.cur.2 = true ∧ downCount (Machine.core s s.cur.1) s.cur.2 < 16) →
    ∃ t, exec (.fin m) s = .next t ∧
      let y := getRole t s.cur.1 s.cur.2
      y.fin = true ∧ y.g = (if inLastSegment s then [] else x.g) ∧ y.v = (if inLastSegment s then [] else x.v) ∧
        (inHandler x = true → y.tpc = 0 ∧ y.tcause = 0 ∧ y.tval = 0 ∧ y.vstart = 0 ∧ y.tstat = 0) ∧
        downCount (Machine.core t s.cur.1) s.cur.2 =
          downCount (Machine.core s s.cur.1) s.cur.2 + (if m.pa then 1 else 0)) ∧
  (∀ (s : State) (m : Mark) (gm : BitVec 47) (vm : BitVec 28), ready s (.safe m gm vm) m 2 = true →
    unbindsAwaited (getRole s s.cur.1 s.cur.2) gm vm = false →
    ∃ t, exec (.safe m gm vm) s = .next t ∧
      (getRole t s.cur.1 s.cur.2).safecnt =
        (if loopTask s s.cur.1 then (getRole s s.cur.1 s.cur.2).safecnt + 1 else 0) ∧
      (getRole t s.cur.1 s.cur.2).atSafe = !loopTask s s.cur.1 ∧
      (getRole t s.cur.1 s.cur.2).pc = (getRole s s.cur.1 s.cur.2).pc + 16 ∧
      (∀ e, e ∈ (getRole t s.cur.1 s.cur.2).g ↔
        e ∈ (getRole s s.cur.1 s.cur.2).g ∧ 1 ≤ e.1 ∧ gm.getLsbD (e.1 - 1) = true) ∧
      (∀ e, e ∈ (getRole t s.cur.1 s.cur.2).v ↔ e ∈ (getRole s s.cur.1 s.cur.2).v ∧ vm.getLsbD e.1 = true)) ∧
  (∀ (s : State) (m : Mark) (ra : G6) (imm : BitVec 32), ready s (.wait m ra imm) m 1 = true →
    usable s [.g ra] .none = true →
    let a := src s s ra
    let n := (BitVec.ofInt 64 (a.2.val.toInt + imm.toInt)).toInt
    ∃ t, exec (.wait m ra imm) s = .next t ∧
      (0 < n → (getRole t s.cur.1 s.cur.2).block = some (.waiting (BitVec.ofNat 17 (min n 65536).toNat))) ∧
      (n ≤ 0 → t = finish s a.1 m 1 .seq)) ∧
  (∀ (s : State) (c : Nat) (r : RoleId) (n : BitVec 17), roleExists s c r = true →
    (getRole s c r).block = some (.waiting n) →
    exec (.waitExpiry c r) s = .next (modRole s c r fun x => { x with block := none })) ∧
  (∀ (s : State) (m : Mark) (g : Guard), ready s (.nop m g) m 1 = true →
    exec (.nop m g) s = .next (finish s s m 1 .seq))

/-! ## Queues, tokens, handles, semaphores, barriers -/

/-- The descriptor of handle h of the acting role's core (R209). -/
def Sys2Proof.Claims.handle (s : State) (h : BitVec 4) : Desc := desc (Machine.core s s.cur.1) h.toNat

/-- R270, R271: qcfg of an empty queue sets its producer and consumer; tok.push and tok.pop move n tokens at once when
the FIFO has the room or the tokens; tok.q reads both counts. -/
def Obligations.QueueAndTokenWords : Prop :=
  (∀ (s : State) (m : Mark) (q : BitVec 4) (p c : RoleId), ready s (.qcfg m q p c) m 1 = true →
    qLen (Machine.core s s.cur.1) q.toNat = 0 →
    ∃ t, exec (.qcfg m q p c) s = .next t ∧ qRoles (Machine.core t s.cur.1) q.toNat = (some p, some c) ∧
      ∀ n, n < 10 → n ≠ q.toNat → qRoles (Machine.core t s.cur.1) n = qRoles (Machine.core s s.cur.1) n) ∧
  (∀ (s : State) (m : Mark) (n : BitVec 5), ready s (.tokPush m n) m 1 = true → isSystem s.cur.1 = false →
    pushReady s s.cur.1 s.cur.2 = true → downCount (Machine.core s s.cur.1) s.cur.2 + n.toNat ≤ 16 →
    exec (.tokPush m n) s = .next (finish s (modCore s s.cur.1 fun k =>
      setDown k s.cur.2 (downCount k s.cur.2 + n.toNat)) m 1 .seq)) ∧
  (∀ (s : State) (m : Mark) (n : BitVec 5), ready s (.tokPop m n) m 1 = true → isSystem s.cur.1 = false →
    ownPop s s.cur.1 s.cur.2 m + n.toNat ≤ upCount (Machine.core s s.cur.1) s.cur.2 →
    acqReady s s.cur.1 s.cur.2 .core = true →
    exec (.tokPop m n) s = .next (finish s (modCore s s.cur.1 fun k =>
      setUp k s.cur.2 (upCount k s.cur.2 - n.toNat)) m 1 .seq)) ∧
  (∀ (s : State) (m : Mark) (rd : G6), ready s (.tokQ m rd) m 1 = true → isSystem s.cur.1 = false →
    usable s [] (.g rd) = true →
    let k := Machine.core s s.cur.1
    exec (.tokQ m rd) s = .next (finishG s s m rd
      ⟨BitVec.ofNat 64 (upCount k s.cur.2 - ownPop s s.cur.1 s.cur.2 m + 256 * downCount k s.cur.2), false⟩ .seq))

/-- R209, R211, R272: cbinit writes a descriptor that passes its checks; cbwait and cbres answer the address of the
oldest filled and of the next free slot when n are there; cbpush publishes n slots and cbpop frees n. -/
def Sys2Proof.Claims.handleWords : Prop :=
  (∀ (s : State) (m : Mark) (h : BitVec 4) (ra rb : G6), ready s (.cbinit m h ra rb) m 1 = true →
    usable s [.g ra, .g rb] .none = true →
    let a := src s s ra
    let b := src s a.1 rb
    cbReason s s.cur.1 h.toNat a.2.val b.2.val = none →
    ∃ t, exec (.cbinit m h ra rb) s = .next t ∧ handle t h = descOf a.2.val b.2.val) ∧
  (∀ (s : State) (m : Mark) (h : BitVec 4) (rd ra : G6) (imm : BitVec 16), ready s (.cbwait m h rd ra imm) m 1 = true →
    usable s [.g ra] (.g rd) = true → descInScratch (Machine.core s s.cur.1) (handle s h) = true →
    let a := src s s ra
    let n := (a.2.val.toNat + imm.toNat) % 2 ^ 64
    n ≤ (handle s h).slots → n ≤ (handle s h).filled →
    exec (.cbwait m h rd ra imm) s = .next (finishG s a.1 m rd
      ⟨BitVec.ofNat 64 (NW + ((handle s h).base + (handle s h).ridx % (handle s h).slots * (handle s h).size)), false⟩
      .seq)) ∧
  (∀ (s : State) (m : Mark) (h : BitVec 4) (rd ra : G6) (imm : BitVec 16), ready s (.cbres m h rd ra imm) m 1 = true →
    usable s [.g ra] (.g rd) = true → descInScratch (Machine.core s s.cur.1) (handle s h) = true →
    let a := src s s ra
    let n := (a.2.val.toNat + imm.toNat) % 2 ^ 64
    n ≤ (handle s h).slots → n ≤ (handle s h).slots - (handle s h).filled →
    exec (.cbres m h rd ra imm) s = .next (finishG s a.1 m rd
      ⟨BitVec.ofNat 64 (NW + ((handle s h).base + (handle s h).widx % (handle s h).slots * (handle s h).size)), false⟩
      .seq)) ∧
  (∀ (s : State) (m : Mark) (h : BitVec 4) (ra : G6) (imm : BitVec 16), ready s (.cbpush m h ra imm) m 1 = true →
    usable s [.g ra] .none = true → descInScratch (Machine.core s s.cur.1) (handle s h) = true →
    let n := ((src s s ra).2.val.toNat + imm.toNat) % 2 ^ 64
    n ≤ (handle s h).slots - (handle s h).filled →
    ∃ t, exec (.cbpush m h ra imm) s = .next t ∧ (handle t h).filled = (handle s h).filled + n ∧
      (handle t h).widx = ((handle s h).widx + n) % (handle s h).slots ∧ (handle t h).ridx = (handle s h).ridx) ∧
  (∀ (s : State) (m : Mark) (h : BitVec 4) (ra : G6) (imm : BitVec 16), ready s (.cbpop m h ra imm) m 1 = true →
    usable s [.g ra] .none = true → descInScratch (Machine.core s s.cur.1) (handle s h) = true →
    let n := ((src s s ra).2.val.toNat + imm.toNat) % 2 ^ 64
    n ≤ (handle s h).filled →
    ∃ t, exec (.cbpop m h ra imm) s = .next t ∧ (handle t h).filled = (handle s h).filled - n ∧
      (handle t h).ridx = ((handle s h).ridx + n) % (handle s h).slots ∧ (handle t h).widx = (handle s h).widx)

/-- A semaphore instruction of R274: its semaphore, destination, operand, whether it is a release (R99), when it goes on,
and the semaphore's new value. -/
structure Sys2Proof.Claims.SemOp where
  m   : Mark
  i   : Nat
  rd  : G6
  ra  : G6
  imm : BitVec 16
  rel : Bool
  go  : Nat → Nat → Bool
  f   : Nat → Nat → Nat

/-- The instructions of R274 on the semaphore's value and the low 32 bits of the operand. -/
def Sys2Proof.Claims.semOf : Instr → Option SemOp
  | .semwDec m i d a x => some ⟨m, i.toNat, d, a, x, false, fun v n => decide (n ≤ v), fun v n => v - n⟩
  | .semwGe m i d a x => some ⟨m, i.toNat, d, a, x, false, fun v n => decide (n ≤ v), fun v _ => v⟩
  | .semwEq m i d a x => some ⟨m, i.toNat, d, a, x, false, fun v n => decide (v = n), fun v _ => v⟩
  | .semsAdd m i d a x => some ⟨m, i.toNat, d, a, x, true, fun _ _ => true, fun v n => min (v + n) (2 ^ 32 - 1)⟩
  | .semsSub m i d a x => some ⟨m, i.toNat, d, a, x, true, fun _ _ => true, fun v n => v - n⟩
  | .semset m i d a x => some ⟨m, i.toNat, d, a, x, true, fun _ _ => true, fun _ n => n⟩
  | _ => none

/-- R274: a semaphore instruction that may go on, no other agent's satisfied wait at the semaphore coming first (R273), writes the old value to its destination and gives the semaphore its
new value; the other semaphores stay. -/
def Sys2Proof.Claims.semaphoreWords : Prop :=
  ∀ (s : State) (i : Instr) (x : SemOp), semOf i = some x → ready s i x.m 1 = true →
    usable s [.g x.ra] (.g x.rd) = true → (x.rel = true → coreQuiet s s.cur.1 s.cur.2 = true) →
    (x.rel = false → semTurn s s.cur.1 x.i (roleNum s.cur.2) = true ∧ acqReady s s.cur.1 s.cur.2 .core = true) →
    let a := src s s x.ra
    let n := (a.2.val.toNat + x.imm.toNat) % 2 ^ 32
    let v := sem (Machine.core s s.cur.1) x.i
    x.go v n = true →
    ∃ t u, exec i s = .next (finishG s t x.m x.rd ⟨BitVec.ofNat 64 v, false⟩ .seq) ∧
      u = Machine.core t s.cur.1 ∧ sem u x.i = x.f v n ∧
      (∀ j, j ≠ x.i → sem u j = sem (Machine.core s s.cur.1) j) ∧ t.mem = s.mem

/-- R96 to R98, R275: a barrier instruction on an object in scratch completes: bari starts phase 0 with its count of
arrivals, bara counts an arrival and answers the phase, barx expects bytes, barw goes on once the phase differs. -/
def Sys2Proof.Claims.barrierWords : Prop :=
  (∀ (s : State) (m : Mark) (ra rb : G6) (imm : BitVec 16), ready s (.bari m ra rb imm) m 1 = true →
    usable s [.g ra, .g rb] .none = true →
    let a := src s s ra
    let b := src s a.1 rb
    ∀ key, barLoc s s.cur.1 (a.2.val.toNat % 2 ^ 57) = .ok key → Memory.wf s.mem = true →
    ∃ t, exec (.bari m ra rb imm) s = .next t ∧ bits (barGet t key).1 63 48 = (b.2.val.toNat + imm.toNat) % 2 ^ 16 ∧
      bits (barGet t key).1 47 32 = 0 ∧ bit (barGet t key).1 0 = false ∧ bits (barGet t key).2 47 0 = 0 ∧
      ∀ x, x < key ∨ key + 16 ≤ x → memRead t.mem x = memRead s.mem x) ∧
  (∀ (s : State) (m : Mark) (rd ra : G6), ready s (.bara m rd ra) m 1 = true →
    usable s [.g ra] (.g rd) = true → coreQuiet s s.cur.1 s.cur.2 = true →
    let a := src s s ra
    ∀ key, barLoc s s.cur.1 (a.2.val.toNat % 2 ^ 57) = .ok key →
    let b := barGet s key
    (bits b.1 63 48 = 0 ∨ bits b.1 47 32 ≠ bits b.1 63 48) →
    exec (.bara m rd ra) s = .next (finishG s (if bits b.1 63 48 = 0 then a.1 else barPut a.1 key (barArrive b)) m rd
      ⟨if bit b.1 0 then 1 else 0, false⟩ .seq)) ∧
  (∀ (s : State) (m : Mark) (ra rb : G6) (imm : BitVec 16), ready s (.barx m ra rb imm) m 1 = true →
    usable s [.g ra, .g rb] .none = true →
    let a := src s s ra
    let b := src s a.1 rb
    ∀ key, barLoc s s.cur.1 (a.2.val.toNat % 2 ^ 57) = .ok key →
    exec (.barx m ra rb imm) s = .next (finish s (barPut b.1 key (barExpect (barGet s key)
      ((BitVec.ofInt 48 (b.2.val.toInt + imm.toInt)).toNat))) m 1 .seq)) ∧
  (∀ (s : State) (m : Mark) (ra rb : G6) (imm : BitVec 16), ready s (.barw m ra rb imm) m 1 = true →
    usable s [.g ra, .g rb] .none = true →
    let a := src s s ra
    let b := src s a.1 rb
    ∀ key, barLoc s s.cur.1 (a.2.val.toNat % 2 ^ 57) = .ok key →
    bit (barGet s key).1 0 ≠ decide ((b.2.val.toNat + imm.toNat) % 2 = 1) →
    acqReady s s.cur.1 s.cur.2 (barScope s.cur.1 key) = true →
    exec (.barw m ra rb imm) s = .next (finish s b.1 m 1 .seq))

/-- R274, R275, R96 to R98: the semaphore words and the barrier words. -/
def Obligations.SemaphoresAndBarriers : Prop :=
  Claims.semaphoreWords ∧ Claims.barrierWords

/-- Scalar sources read in order: the state after their pops, and their values. -/
def Sys2Proof.Claims.srcs (s : State) : State → List G6 → State × List Word
  | t, [] => (t, [])
  | t, x :: l => ((srcs s (src s t x).1 l).1, (src s t x).2.val :: (srcs s (src s t x).1 l).2)

/-- Word j of a push, as it stands in its ring: of the matrix ring, a first word with a loop format has it resolved by lc0
(R359). -/
def Sys2Proof.Claims.pushedWord (s : State) (copy : Bool) (ws : List Word) (j : Nat) : Word :=
  let w := ws.getD j 0
  if copy = false ∧ j = 0 then resolveFormat w (loopCount s s.cur.1 s.cur.2 0) else w

/-- R276, R359: push places the words of a command in the free slots of its ring, in order, publishes them, and leaves all
memory outside the ring alone. -/
def Sys2Proof.Claims.pushedCommands : Prop :=
  ∀ (s : State) (m : Mark) (n : BitVec 2) (ra rb rc rd : G6) (copy : Bool),
    let i : Instr := if copy then .pushC m n ra rb rc rd else .pushM m n ra rb rc rd
    let h : BitVec 4 := if copy then 15 else 14
    let regs := [ra, rb, rc, rd].take (n.toNat + 1)
    ready s i m 1 = true → usable s (regs.map Src.g) .none = true →
    descInScratch (Machine.core s s.cur.1) (handle s h) = true →
    (handle s h).filled + (n.toNat + 1) ≤ (handle s h).slots → roleDrained s s.cur.1 s.cur.2 = true →
    Memory.wf s.mem = true →
    ∃ t, exec i s = .next t ∧ (handle t h).filled = (handle s h).filled + (n.toNat + 1) ∧
      (handle t h).ridx = (handle s h).ridx ∧
      (handle t h).widx = ((handle s h).widx + (n.toNat + 1)) % (handle s h).slots ∧
      (∀ j, j ≤ n.toNat →
        poolRead t s.cur.1 ((handle s h).base + ((handle s h).widx + j) % (handle s h).slots * (handle s h).size) 8 =
          wordBytes (pushedWord s copy (srcs s s regs).2 j)) ∧
      ∀ x, x < poolBase s.cur.1 + (handle s h).base ∨
        poolBase s.cur.1 + (handle s h).base + (handle s h).slots * (handle s h).size ≤ x →
        memRead t.mem x = memRead s.mem x

/-- R209, R211, R272, R276: the handle words and the words that push commands into a ring. -/
def Obligations.HandlesAndPushes : Prop :=
  Claims.handleWords ∧ Claims.pushedCommands

/-! ## Special registers, traps, the words of a system core -/

/-- What mfsr reads of a role and its core, by number (R203, R220, R206, R266, R438, R280). -/
def Sys2Proof.Claims.roleRegister (s : State) : Nat → Option Word
  | 0x01 => some (BitVec.ofNat 64 (Machine.core s s.cur.1).win.toNat)
  | 0x02 => some (getRole s s.cur.1 s.cur.2).walk
  | 0x03 => some (BitVec.ofNat 64 (getRole s s.cur.1 s.cur.2).safecnt.toNat)
  | 0x04 => some (BitVec.ofNat 64 (loopCount s s.cur.1 s.cur.2 0).toNat)
  | 0x05 => some (BitVec.ofNat 64 (loopCount s s.cur.1 s.cur.2 1).toNat)
  | 0x06 => some (BitVec.ofNat 64 (loopCount s s.cur.1 s.cur.2 2).toNat)
  | 0x07 => some (BitVec.ofNat 64 (loopCount s s.cur.1 s.cur.2 3).toNat)
  | 0x20 => some (getRole s s.cur.1 s.cur.2).tvec
  | 0x21 => some (BitVec.ofNat 64 (getRole s s.cur.1 s.cur.2).tpc.toNat)
  | 0x22 => some (BitVec.ofNat 64 (getRole s s.cur.1 s.cur.2).tcause.toNat)
  | 0x23 => some (getRole s s.cur.1 s.cur.2).tval
  | 0x24 => some (BitVec.ofNat 64 (getRole s s.cur.1 s.cur.2).vstart.toNat)
  | 0x40 => some (BitVec.ofNat 64 (Machine.core s s.cur.1).xid.toNat)
  | 0x42 => some (BitVec.ofNat 64 (Machine.core s s.cur.1).qctl.toNat)
  | 0x46 => some (Machine.core s s.cur.1).specdrop
  | 0x47 => some (Machine.core s s.cur.1).cretry
  | _ => none

/-- The acting role may read register n, or write it (R280, R281). -/
def Sys2Proof.Claims.mayRead (s : State) (n : BitVec 12) : Bool := systemMode s s.cur.1 s.cur.2 || userReadable n.toNat

def Sys2Proof.Claims.mayWrite (s : State) (n : BitVec 12) : Bool := systemMode s s.cur.1 s.cur.2 || userWritable n.toNat

/-- R281: mfsr writes what the register reads as, with taint 0 and the read's side effect; a register of the role or
core reads as it stands; in user mode a register that user mode does not read raises PRIV. -/
def Sys2Proof.Claims.specialRegisterReads : Prop :=
  (∀ (s : State) (m : Mark) (rd : G6) (n : BitVec 12), ready s (.mfsr m rd n) m 1 = true →
    usable s [] (.g rd) = true → mayRead s n = true →
    exec (.mfsr m rd n) s = .next (finishG s (sysRead s s.cur.1 s.cur.2 n.toNat).1 m rd
      ⟨(sysRead s s.cur.1 s.cur.2 n.toNat).2, false⟩ .seq)) ∧
  (∀ (s : State) (n : Nat) (w : Word), roleRegister s n = some w → sysRead s s.cur.1 s.cur.2 n = (s, w)) ∧
  (∀ (s : State) (m : Mark) (rd : G6) (n : BitVec 12), ready s (.mfsr m rd n) m 1 = true → mayRead s n = false →
    exec (.mfsr m rd n) s = .next (takeTrap s s.cur.1 s.cur.2 ((encode (.mfsr m rd n)).headD 0) tPRIV
      ((encode (.mfsr m rd n)).headD 0)))

/-- R281, R438, R266, R318: mtsr writes a register it may write. FLAGS takes the low 5 bits and a loop counter the low
32; TVEC keeps its zero fields; WIN, WALK and SAFECNT stay; in user mode a register that user mode does not write raises
PRIV. -/
def Sys2Proof.Claims.specialRegisterWrites : Prop :=
  (∀ (s : State) (m : Mark) (n : BitVec 12) (ra : G6), ready s (.mtsr m n ra) m 1 = true →
    usable s [.g ra] .none = true → mayWrite s n = true →
    let a := src s s ra
    resetsPart n.toNat a.2.val = false →
    exec (.mtsr m n ra) s = .next (finish s (sysWrite a.1 s.cur.1 s.cur.2 n.toNat a.2.val) m 1 .seq)) ∧
  (∀ (s : State) (c : Nat) (r : RoleId) (v : Word),
    (getRole (sysWrite s c r 0 v) c r).flags.toNat = v.toNat % 2 ^ 5 ∧
    (∀ k, k < 4 → (loopCount (sysWrite s c r (4 + k) v) c r k).toNat = v.toNat % 2 ^ 32) ∧
    (getRole (sysWrite s c r 0x20 v) c r).tvec.toNat = v.toNat % 2 ^ 57 / 8 * 8 + v.toNat % 2 ∧
    (getRole (sysWrite s c r 0x21 v) c r).tpc.toNat = v.toNat % 2 ^ 57 / 8 * 8 ∧
    (∀ k, 1 ≤ k → k ≤ 3 → sysWrite s c r k v = s)) ∧
  (∀ (s : State) (m : Mark) (n : BitVec 12) (ra : G6), ready s (.mtsr m n ra) m 1 = true → mayWrite s n = false →
    exec (.mtsr m n ra) s = .next (takeTrap s s.cur.1 s.cur.2 ((encode (.mtsr m n ra)).headD 0) tPRIV
      ((encode (.mtsr m n ra)).headD 0)))

/-- R281: reading and writing a special register. -/
def Obligations.SpecialRegisters : Prop :=
  Claims.specialRegisterReads ∧ Claims.specialRegisterWrites

/-- The acting role has entered its handler from a word: what R440 and R439 leave in its trap registers. `pc`: the
return address. -/
def Sys2Proof.Claims.inHandlerFrom (s t : State) (pc code : Nat) (v : Word) : Prop :=
  let x := getRole s s.cur.1 s.cur.2
  let y := getRole t s.cur.1 s.cur.2
  y.tpc.toNat = pc ∧ y.tcause.toNat = code ∧ y.tval = v ∧ y.pc.toNat = bits x.tvec 56 3 * 8 ∧
    bit y.tstat 0 = true ∧ bit y.tstat 1 = systemMode s s.cur.1 s.cur.2 ∧
    bit y.tstat 2 = (bit x.tvec 0 || bit x.tstat 2) ∧ y.tvec = x.tvec ∧ y.g = x.g ∧ y.v = x.v ∧ y.p = x.p ∧
    y.flags = x.flags ∧ t.mem = s.mem

/-- A role that can take a trap: outside a handler and with one to enter (R440). -/
def Sys2Proof.Claims.mayTrap (s : State) : Bool :=
  !inHandler (getRole s s.cur.1 s.cur.2) && bits (getRole s s.cur.1 s.cur.2).tvec 56 3 != 0

/-- R282, R439, R440: trap #n enters the handler with code TRAPI, TVAL = n and the following word in TPC; brk enters it
with code BRK and itself in TPC, or halts its role for a debugger that has set BRKEN (R450). -/
def Sys2Proof.Claims.trapAndBreakEnterTheHandler : Prop :=
  (∀ (s : State) (tag : RoleTag) (n : BitVec 16), ready s (.trap tag n) ⟨tag, false, false⟩ 1 = true → mayTrap s = true →
    ∃ t, exec (.trap tag n) s = .next t ∧
      inHandlerFrom s t (((getRole s s.cur.1 s.cur.2).pc.toNat + 8) % 2 ^ 57) 5 (BitVec.ofNat 64 n.toNat)) ∧
  (∀ (s : State) (tag : RoleTag) (n : BitVec 16), ready s (.brk tag n) ⟨tag, false, false⟩ 1 = true → mayTrap s = true →
    (Machine.core s s.cur.1).dbg.brken = false →
    ∃ t, exec (.brk tag n) s = .next t ∧
      inHandlerFrom s t (getRole s s.cur.1 s.cur.2).pc.toNat 6 (BitVec.ofNat 64 n.toNat)) ∧
  (∀ (s : State) (tag : RoleTag) (n : BitVec 16), ready s (.brk tag n) ⟨tag, false, false⟩ 1 = true →
    (Machine.core s s.cur.1).dbg.brken = true →
    ∃ t, exec (.brk tag n) s = .next t ∧ bit (Machine.core t s.cur.1).dbg.halt (roleNum s.cur.2) = true ∧
      whyOf (Machine.core t s.cur.1) s.cur.2 = 3 ∧ getRole t s.cur.1 s.cur.2 = getRole s s.cur.1 s.cur.2)

/-- R283, R440: eret inside a handler restores MODE from PM, leaves the handler, and goes on at TPC; outside a handler
it is ILLEGAL. -/
def Sys2Proof.Claims.eretLeavesTheHandler : Prop :=
  (∀ (s : State) (m : Mark), ready s (.eret m) m 1 = true → inHandler (getRole s s.cur.1 s.cur.2) = true →
    (bit (getRole s s.cur.1 s.cur.2).tstat 1 = true → systemMode s s.cur.1 s.cur.2 = true) →
    ∃ t, exec (.eret m) s = .next t ∧
      let x := getRole s s.cur.1 s.cur.2
      let y := getRole t s.cur.1 s.cur.2
      y.pc = x.tpc ∧ y.returning = true ∧ bit y.tstat 0 = false ∧ bit y.tstat 2 = bit x.tstat 1 ∧ y.g = x.g ∧ y.v = x.v ∧ y.p = x.p ∧
        y.flags = x.flags ∧ y.walk = x.walk ∧ t.mem = s.mem) ∧
  (∀ (s : State) (m : Mark), ready s (.eret m) m 1 = true → inHandler (getRole s s.cur.1 s.cur.2) = false →
    exec (.eret m) s = .next (takeTrap s s.cur.1 s.cur.2 ((encode (.eret m)).headD 0) tILLEGAL
      ((encode (.eret m)).headD 0)))

/-- R282, R283, R439, R440: the words that enter the handler, and eret, which leaves it. -/
def Obligations.TrapsAndReturn : Prop :=
  Claims.trapAndBreakEnterTheHandler ∧ Claims.eretLeavesTheHandler

/-- R284: a word of a system core is ILLEGAL on a worker core, in either mode. -/
def Sys2Proof.Claims.systemCoreWordsIllegalOnWorkers : Prop :=
  ∀ (s : State) (i : Instr) (m : Mark) (a b : G6),
    i = .xinvAll m ∨ i = .xinvX m a ∨ i = .xinvVa m a b ∨ i = .xinvG m b ∨ i = .ptmc m a b ∨ i = .ptmcSync m ∨
      i = .cfgd m a b ∨ i = .halt m →
    roleExists s s.cur.1 s.cur.2 = true → isSystem s.cur.1 = false → roleHeld s s.cur.1 s.cur.2 = false →
    (getRole s s.cur.1 s.cur.2).pushDue = false → trapPending (getRole s s.cur.1 s.cur.2) = false →
    (getRole s s.cur.1 s.cur.2).safecnt.toNat ≠ 4096 → mayPass s s.cur.1 s.cur.2 1 = true →
    exec i s = .next (takeTrap s s.cur.1 s.cur.2 ((encode i).headD 0) tILLEGAL ((encode i).headD 0))

/-- A translation cached by a core, by a port's walkers or by the host port survives in no unit unless `keep` holds of
it. -/
def Sys2Proof.Claims.tlbsOnly (t : State) (keep : TlbEntry → Prop) : Prop :=
  (∀ e, e ∈ t.cores → ∀ x, x ∈ e.2.tlb → keep x) ∧ (∀ e, e ∈ t.ports → ∀ x, x ∈ e.2.tlb → keep x) ∧
    ∀ x, x ∈ t.hostTlb → keep x

/-- R285: xinv drops the cached translations it names, in every unit. -/
def Sys2Proof.Claims.translationInvalidation : Prop :=
  (∀ (s : State) (m : Mark), ready s (.xinvAll m) m 1 = true →
    ∃ t, exec (.xinvAll m) s = .next t ∧ tlbsOnly t fun _ => False) ∧
  (∀ (s : State) (m : Mark) (ra : G6), ready s (.xinvX m ra) m 1 = true → usable s [.g ra] .none = true →
    ∃ t, exec (.xinvX m ra) s = .next t ∧
      tlbsOnly t fun e => e.xid.toNat ≠ (src s s ra).2.val.toNat % 2 ^ 16) ∧
  (∀ (s : State) (m : Mark) (ra rb : G6), ready s (.xinvVa m ra rb) m 1 = true →
    usable s [.g ra, .g rb] .none = true →
    ∃ t, exec (.xinvVa m ra rb) s = .next t ∧
      tlbsOnly t fun e => e.xid.toNat ≠ (src s s ra).2.val.toNat % 2 ^ 16 ∨
        tlbCovers ((src s (src s s ra).1 rb).2.val.toNat % 2 ^ 57) e = false) ∧
  (∀ (s : State) (m : Mark) (rb : G6), ready s (.xinvG m rb) m 1 = true → usable s [.g rb] .none = true →
    ∃ t, exec (.xinvG m rb) s = .next t ∧
      tlbsOnly t fun e => bit e.leaf 8 = false ∨ tlbCovers ((src s s rb).2.val.toNat % 2 ^ 57) e = false)

/-- R286 to R289: ptmc, once its entry's slice takes it (R121), writes the word and queues it for the replicas; ptmc.sync goes on once all are acknowledged;
isync begins the role's release and, once it is complete, drops the fetched words; halt stops a system core's issue
unless a wake event came before, and SYSTEM_CORE_WAKE ends it. -/
def Sys2Proof.Claims.systemCoreWords : Prop :=
  (∀ (s : State) (m : Mark) (ra rb : G6), ready s (.ptmc m ra rb) m 1 = true → usable s [.g ra, .g rb] .none = true →
    let a := src s s ra
    let b := src s a.1 rb
    a.2.val.toNat < 2 ^ 44 → hasMem b.1 a.2.val.toNat = true → a.2.val.toNat % 8 = 0 →
    entryHeld b.1 a.2.val.toNat = false →
    exec (.ptmc m ra rb) s = .next (finish s (ptmcSend b.1 s.cur.1 a.2.val.toNat b.2.val) m 1 .seq)) ∧
  (∀ (s : State) (m : Mark), ready s (.ptmcSync m) m 1 = true → ptmcOpen s s.cur.1 = false →
    exec (.ptmcSync m) s = .next (finish s s m 1 .seq)) ∧
  (∀ (s : State) (m : Mark), ready s (.isync m) m 1 = true → stage s.cur.1 s.cur.2 s = 0 →
    relReady s s.cur.1 s.cur.2 .dev = true →
    exec (.isync m) s = .next (standing s
      (setStage s.cur.1 s.cur.2 (relBegin s s.cur.1 s.cur.2 .dev) 1) (.isync m) m)) ∧
  (∀ (s : State) (m : Mark), ready s (.isync m) m 1 = true → stage s.cur.1 s.cur.2 s ≠ 0 →
    relSettled s s.cur.1 s.cur.2 = true →
    ∃ t, exec (.isync m) s = .next t ∧ (Machine.core t s.cur.1).icache = [] ∧
      (getRole t s.cur.1 s.cur.2).pc = (getRole s s.cur.1 s.cur.2).pc + 8) ∧
  (∀ (s : State) (m : Mark), ready s (.halt m) m 1 = true →
    ∃ t, exec (.halt m) s = .next t ∧ (Machine.core t s.cur.1).halted = !(Machine.core s s.cur.1).wake ∧
      (Machine.core t s.cur.1).wake = false) ∧
  (∀ (s : State) (d : Nat), d < 4 → (Machine.core s (960 + d)).halted = true → (Machine.core s (960 + d)).wake = true →
    ∃ t, exec (.systemCoreWake d) s = .next t ∧ (Machine.core t (960 + d)).halted = false ∧
      (Machine.core t (960 + d)).wake = false)

/-- R284 to R289: the words of a system core: ILLEGAL on a worker, their effects on a system core. -/
def Obligations.WordsOfASystemCore : Prop :=
  Claims.systemCoreWordsIllegalOnWorkers ∧ Claims.translationInvalidation ∧ Claims.systemCoreWords

/-- R287, R463: cfgd of an image at a multiple of 4 KiB, with no plane switch in progress, applies the image that its
header bounds and answers its result, or all ones when the header's length is malformed. -/
def Sys2Proof.Claims.configurationDifferences : Prop :=
  (∀ (s : State) (m : Mark) (rd ra : G6) (t : State) (hd : List Byte), ready s (.cfgd m rd ra) m 1 = true →
    usable s [.g ra] (.g rd) = true → (src s s ra).2.val.toNat % 2 ^ 57 % 4096 = 0 → switchBusy s = false →
    imageBytes s.cur.1 s.cur.2 ((src s s ra).2.val.toNat % 2 ^ 57) 64 s = .ok (t, some hd) →
    (diffLen hd % 8 ≠ 0 ∨ diffLen hd < 64) →
    exec (.cfgd m rd ra) s = .next (finishG s (modCore (src s t ra).1 s.cur.1 fun k => { k with image := [] }) m rd
      ⟨BitVec.allOnes 64, false⟩ .seq)) ∧
  (∀ (s : State) (m : Mark) (rd ra : G6) (t u : State) (hd img : List Byte), ready s (.cfgd m rd ra) m 1 = true →
    usable s [.g ra] (.g rd) = true → (src s s ra).2.val.toNat % 2 ^ 57 % 4096 = 0 → switchBusy s = false →
    imageBytes s.cur.1 s.cur.2 ((src s s ra).2.val.toNat % 2 ^ 57) 64 s = .ok (t, some hd) →
    diffLen hd % 8 = 0 → 64 ≤ diffLen hd →
    imageBytes s.cur.1 s.cur.2 ((src s s ra).2.val.toNat % 2 ^ 57) (diffLen hd + sigLen) t = .ok (u, some img) →
    ∃ v w, applyImage (src s u ra).1 img = (v, w) ∧
      exec (.cfgd m rd ra) s = .next (finishG s (modCore v s.cur.1 fun k => { k with image := [] }) m rd ⟨w, false⟩ .seq))

/-- A role that no window, token or held trap keeps from its next word, of one word, with the given marks (R89, R203, R373). -/
def Sys2Proof.Claims.atItsWord (s : State) (m : Mark) : Prop :=
  let x := getRole s s.cur.1 s.cur.2
  roleExists s s.cur.1 s.cur.2 = true ∧ roleHeld s s.cur.1 s.cur.2 = false ∧ x.pushDue = false ∧ trapPending x = false ∧
    mayPass s s.cur.1 s.cur.2 1 = true ∧
    (m.pb = true → x.popDone = true ∨
      (upCount (Machine.core s s.cur.1) s.cur.2 ≠ 0 ∧ acqReady s s.cur.1 s.cur.2 .core = true))

/-- R220: a role that would issue a word with SAFECNT at 4096 raises the fatal OVERDUE instead, and the word has no
effect; while its word waits it issues nothing, and is not overdue. -/
def Sys2Proof.Claims.overdueInsteadOfTheWord : Prop :=
  (∀ (s : State) (m : Mark) (rd ra rb : G6) (g : Guard), atItsWord s m →
    (getRole s s.cur.1 s.cur.2).safecnt.toNat = 4096 →
    (∀ w, checkUse s.cur.1 s.cur.2 s [.g ra, .g rb] (.g rd) ≠ .error (.wait w)) →
    exec (.add m rd ra rb g) s = .next (roleFatal s s.cur.1 s.cur.2 ((encode (.add m rd ra rb g)).headD 0)
      (fatalAt 0x45 0 0 0))) ∧
  (∀ (s : State) (m : Mark) (rd ra rb : G6) (g : Guard) (w : Wait), atItsWord s m →
    (Instr.add m rd ra rb g).check = none → (isSystem s.cur.1 && (m.pb || m.pa)) = false → guardHolds s g = true →
    checkUse s.cur.1 s.cur.2 s [.g ra, .g rb] (.g rd) = .error (.wait w) →
    ∃ t, exec (.add m rd ra rb g) s = .next t ∧ t.mem = s.mem ∧
      (getRole t s.cur.1 s.cur.2).pc = (getRole s s.cur.1 s.cur.2).pc ∧
      (getRole t s.cur.1 s.cur.2).g = (getRole s s.cur.1 s.cur.2).g ∧
      (getRole t s.cur.1 s.cur.2).safecnt = (getRole s s.cur.1 s.cur.2).safecnt)

/-- R203: a role that the slip window does not let pass a word does not issue it: nothing changes but what it is seen to
wait for. -/
def Sys2Proof.Claims.slipWindowHolds : Prop :=
  ∀ (s : State) (m : Mark) (rd ra rb : G6) (g : Guard), roleExists s s.cur.1 s.cur.2 = true →
    roleHeld s s.cur.1 s.cur.2 = false → (getRole s s.cur.1 s.cur.2).pushDue = false →
    trapPending (getRole s s.cur.1 s.cur.2) = false → mayPass s s.cur.1 s.cur.2 1 = false →
    ∃ t, exec (.add m rd ra rb g) s = .next t ∧ t.mem = s.mem ∧
      (getRole t s.cur.1 s.cur.2).pc = (getRole s s.cur.1 s.cur.2).pc ∧
      (getRole t s.cur.1 s.cur.2).g = (getRole s s.cur.1 s.cur.2).g ∧
      (getRole t s.cur.1 s.cur.2).safecnt = (getRole s s.cur.1 s.cur.2).safecnt

/-- R203, R220: a word that may not issue yet, and one whose role has run too far. -/
def Obligations.WordsHeldBack : Prop :=
  Claims.overdueInsteadOfTheWord ∧ Claims.slipWindowHolds

/-! ## Vector words -/

/-- Vector sources read in order, from state t: the state after their pops, and their values. -/
def Sys2Proof.Claims.vsrcs (s t : State) (l : List V5) : State × List VReg := readVs s.cur.1 s.cur.2 t l

/-- The lanes of the acting role's vector guard, as state t has its predicates (R227). -/
def Sys2Proof.Claims.lanesOf (s t : State) (g : Guard) : BitVec 64 := guardLanes s.cur.1 s.cur.2 t g

/-- v holds, in each element of an active lane, the value that f gives it, and fl is the OR of those elements' flags. -/
def Sys2Proof.Claims.elemsAre (w : Nat) (act : BitVec 64) (f : Nat → Nat × BitVec 5) (v : VReg) (fl : BitVec 5) : Prop :=
  (∀ j, j < 2048 / w → bit act (w * j / 32) = true → packed v.toNat w j = (f j).1 % 2 ^ w) ∧
    ∀ b, bit fl b = true ↔ ∃ j, j < 2048 / w ∧ bit act (w * j / 32) = true ∧ bit (f j).2 b = true

/-- The acting role's word ends: the active lanes of a vector destination written and FLAGS ORed (R324). -/
def Sys2Proof.Claims.finishV (s t : State) (m : Mark) (vd : V5) (act : BitVec 64) (v : VReg) (fl : BitVec 5) : State :=
  finish s (orFlags (writeV s.cur.1 s.cur.2 t vd act v) s.cur.1 s.cur.2 fl) m 1 .seq

/-- A lanewise word: its types, destination, sources, and what it makes of a draw and the sources' elements. -/
structure Sys2Proof.Claims.VecOp where
  m  : Mark
  dt : DType
  rm : RM
  vd : V5
  va : List V5
  g  : Guard
  f  : Nat → List Nat → Nat × BitVec 5

/-- An exact integer as an element of w bits: modulo 2^w, or with SAT clamped to its range, which sets OVF (R340). -/
def Sys2Proof.Claims.intElem (w : Nat) (sat : Bool) (v : Int) : Nat × BitVec 5 :=
  if sat = true ∧ 2 ^ (w - 1) ≤ v then (2 ^ (w - 1) - 1, 0x02)
  else if sat = true ∧ v < -2 ^ (w - 1) then (2 ^ (w - 1), 0x02)
  else ((v % 2 ^ w).toNat, 0)

/-- A lanewise operation on two elements: on integers exact, on floats exact and then rounded once (R339, R340). -/
def Sys2Proof.Claims.arith2 (dt : DType) (rm : RM) (sat : Bool) (fop : Val → Val → Val × BitVec 5) (iop : Int → Int → Int) :
    Nat → List Nat → Nat × BitVec 5
  | u, [a, b] =>
    if dt = .i32 ∨ dt = .i8 then
      intElem (elemBits dt) sat (iop (signedOf (elemBits dt) a) (signedOf (elemBits dt) b))
    else match elemFmt dt with
      | some f =>
        ((roundTo f rm sat u (fop (f.val a) (f.val b)).1).1,
          (fop (f.val a) (f.val b)).2 ||| (roundTo f rm sat u (fop (f.val a) (f.val b)).1).2)
      | none => (0, 0)
  | _, _ => (0, 0)

/-- A float operation on one element, rounded once. -/
def Sys2Proof.Claims.float1 (dt : DType) (rm : RM) (sat : Bool) (fop : Val → Val × BitVec 5) : Nat → List Nat → Nat × BitVec 5
  | u, [a] =>
    match elemFmt dt with
    | some f =>
      ((roundTo f rm sat u (fop (f.val a)).1).1, (fop (f.val a)).2 ||| (roundTo f rm sat u (fop (f.val a)).1).2)
    | none => (0, 0)
  | _, _ => (0, 0)

/-- A fused float operation on three elements, rounded once. -/
def Sys2Proof.Claims.float3 (dt : DType) (rm : RM) (sat : Bool) (fop : Val → Val → Val → Val × BitVec 5) :
    Nat → List Nat → Nat × BitVec 5
  | u, [a, b, c] =>
    match elemFmt dt with
    | some f =>
      ((roundTo f rm sat u (fop (f.val a) (f.val b) (f.val c)).1).1,
        (fop (f.val a) (f.val b) (f.val c)).2 ||| (roundTo f rm sat u (fop (f.val a) (f.val b) (f.val c)).1).2)
    | none => (0, 0)
  | _, _ => (0, 0)

/-- An exact operation on codes: integers with wrap or clamp; a NaN operand gives the canonical NaN; no flags but OVF of
a clamp (R339, R340). -/
def Sys2Proof.Claims.exactCodes (dt : DType) (sat : Bool) (fop : Machine.Fmt → List Nat → Nat) (iop : List Int → Int) :
    Nat → List Nat → Nat × BitVec 5
  | _, l =>
    if dt = .i32 ∨ dt = .i8 then intElem (elemBits dt) sat (iop (l.map (signedOf (elemBits dt))))
    else match elemFmt dt with
      | some f => (if l.any (fun x => isNan (f.val x)) then f.nanCode else fop f l, 0)
      | none => (0, 0)

/-- The lanewise arithmetic of R339. -/
def Sys2Proof.Claims.vecOf : Instr → Option VecOp
  | .vadd m dt rm sat d a b g => some ⟨m, dt, rm, d, [a, b], g, arith2 dt rm sat (addVal (rm == .rdn)) (· + ·)⟩
  | .vsub m dt rm sat d a b g =>
    some ⟨m, dt, rm, d, [a, b], g, arith2 dt rm sat (fun x y => addVal (rm == .rdn) x (negVal y)) (· - ·)⟩
  | .vmul m dt rm sat d a b g => some ⟨m, dt, rm, d, [a, b], g, arith2 dt rm sat mulVal (· * ·)⟩
  | .vfma m dt rm sat d a b c g => some ⟨m, dt, rm, d, [a, b, c], g, float3 dt rm sat (fmaVal (rm == .rdn) false)⟩
  | .vfms m dt rm sat d a b c g =>
    some ⟨m, dt, rm, d, [a, b, c], g, float3 dt rm sat fun x y z => fmaVal (rm == .rdn) false x y (negVal z)⟩
  | .vfnma m dt rm sat d a b c g => some ⟨m, dt, rm, d, [a, b, c], g, float3 dt rm sat (fmaVal (rm == .rdn) true)⟩
  | .vneg m dt sat d a g =>
    some ⟨m, dt, .rne, d, [a], g, exactCodes dt sat
      (fun f l => (l.headD 0 + 2 ^ f.signBit) % 2 ^ (f.signBit + 1)) fun l => -l.headD 0⟩
  | .vabs m dt sat d a g =>
    some ⟨m, dt, .rne, d, [a], g, exactCodes dt sat
      (fun f l => l.headD 0 % 2 ^ f.signBit) fun l => ((l.headD 0).natAbs : Int)⟩
  | .vmin m dt d a b g =>
    some ⟨m, dt, .rne, d, [a, b], g, exactCodes dt false
      (fun f l => if totalKey f (l.getD 0 0) ≤ totalKey f (l.getD 1 0) then l.getD 0 0 else l.getD 1 0)
      fun l => min (l.getD 0 0) (l.getD 1 0)⟩
  | .vmax m dt d a b g =>
    some ⟨m, dt, .rne, d, [a, b], g, exactCodes dt false
      (fun f l => if totalKey f (l.getD 0 0) ≤ totalKey f (l.getD 1 0) then l.getD 1 0 else l.getD 0 0)
      fun l => max (l.getD 0 0) (l.getD 1 0)⟩
  | .vrcp m dt rm sat d a g => some ⟨m, dt, rm, d, [a], g, float1 dt rm sat (divVal (exactVal false 1 0))⟩
  | .vrsq m dt rm sat d a g => some ⟨m, dt, rm, d, [a], g, float1 dt rm sat rsqrtVal⟩
  | .vsqrt m dt rm sat d a g => some ⟨m, dt, rm, d, [a], g, float1 dt rm sat sqrtVal⟩
  | .vdiv m dt rm sat d a b g => some ⟨m, dt, rm, d, [a, b], g, arith2 dt rm sat divVal fun _ _ => 0⟩
  | .vexp2 m dt sat d a g => some ⟨m, dt, .rne, d, [a], g, float1 dt .rne sat exp2Val⟩
  | .vlog2 m dt d a g => some ⟨m, dt, .rne, d, [a], g, float1 dt .rne false log2Val⟩
  | .vtanh m dt d a g => some ⟨m, dt, .rne, d, [a], g, float1 dt .rne false tanhVal⟩
  | .vclamp m dt d a b c g =>
    some ⟨m, dt, .rne, d, [a, b, c], g, exactCodes dt false
      (fun f l =>
        let x := if totalKey f (l.getD 0 0) ≤ totalKey f (l.getD 1 0) then l.getD 1 0 else l.getD 0 0
        if totalKey f x ≤ totalKey f (l.getD 2 0) then x else l.getD 2 0)
      fun l => min (max (l.getD 0 0) (l.getD 1 0)) (l.getD 2 0)⟩
  | _ => none

/-- R339, R340: lanewise arithmetic writes, in the active lanes, each element's exact result, rounded once by the word's
mode where it is a float, ORs the flags of those elements into FLAGS, and completes. -/
def Obligations.VectorArithmetic : Prop :=
  ∀ (s : State) (i : Instr) (x : VecOp), vecOf i = some x → ready s i x.m 1 = true → lanesHold s x.g = true →
    Check.reserved x.dt = false → usable s (x.va.map Src.v) (.v x.vd) = true →
    ∀ t draw, drawOf s.cur.1 s.cur.2 s x.rm = .ok (t, draw) →
    let a := vsrcs s t x.va
    ∃ v fl, exec i s = .next (finishV s a.1 x.m x.vd (lanesOf s t x.g) v fl) ∧
      elemsAre (elemBits x.dt) (lanesOf s t x.g)
        (fun j => x.f (draw j) (a.2.map fun y => packed y.toNat (elemBits x.dt) j)) v fl

/-- R342: vcmp sets, for each active lane, its predicate bit to the comparison of the lanes' elements, of the halves that
.hi names for a 16-bit type; the other bits stay. With a NaN only .ne holds, and −0 equals +0. -/
def Sys2Proof.Claims.vectorComparison : Prop :=
  ∀ (s : State) (m : Mark) (cc : Cond) (hi : Bool) (dt : DType) (pd : P3) (va vb : V5) (g : Guard),
    ready s (.vcmp m cc hi dt pd va vb g) m 1 = true → lanesHold s g = true → Check.reserved dt = false →
    usable s [.v va, .v vb] .none = true →
    let a := vsrcs s s [va, vb]
    let act := lanesOf s s g
    ∃ w, exec (.vcmp m cc hi dt pd va vb g) s = .next (finish s (writeP s.cur.1 s.cur.2 a.1 pd w) m 1 .seq) ∧
      ∀ k, k < 64 →
        let x := laneElem (elemBits dt) hi (a.2.getD 0 0) k
        let y := laneElem (elemBits dt) hi (a.2.getD 1 0) k
        bit w k = if bit act k then
            match elemFmt dt with
            | some f =>
              if isNan (f.val x) || isNan (f.val y) then decide (cc = .ne)
              else match cc with
                | .eq => decide (cmpKey f x = cmpKey f y)
                | .ne => decide (cmpKey f x ≠ cmpKey f y)
                | .lt => decide (cmpKey f x < cmpKey f y)
                | .ge => decide (cmpKey f y ≤ cmpKey f x)
                | .gt => decide (cmpKey f y < cmpKey f x)
                | .le => decide (cmpKey f x ≤ cmpKey f y)
                | _ => false
            | none => condSpec cc (BitVec.ofInt 64 (signedOf 32 (x % 2 ^ 32))) (BitVec.ofInt 64 (signedOf 32 (y % 2 ^ 32)))
          else bit (readP s.cur.1 s.cur.2 a.1 pd) k

/-- A word on 32-bit lanes: its effect on lane k of its sources. -/
structure Sys2Proof.Claims.LaneOp where
  m  : Mark
  vd : V5
  va : List V5
  g  : Guard
  f  : Nat → BitVec 32 → BitVec 32 → BitVec 32

/-- Selection, logic and shifts of R343 and R344. -/
def Sys2Proof.Claims.laneOf (s : State) : Instr → Option LaneOp
  | .vsel m d a b p g => some ⟨m, d, [a, b], g, fun k x y => if bit (readP s.cur.1 s.cur.2 s p) k then x else y⟩
  | .vand m d a b g => some ⟨m, d, [a, b], g, fun _ x y => x &&& y⟩
  | .vor m d a b g => some ⟨m, d, [a, b], g, fun _ x y => x ||| y⟩
  | .vxor m d a b g => some ⟨m, d, [a, b], g, fun _ x y => x ^^^ y⟩
  | .vmov m d a g => some ⟨m, d, [a], g, fun _ x _ => x⟩
  | .vshl m d a b g => some ⟨m, d, [a, b], g, fun _ x y => BitVec.ofNat 32 (x.toNat * 2 ^ (y.toNat % 64))⟩
  | .vshr m d a b g => some ⟨m, d, [a, b], g, fun _ x y => BitVec.ofNat 32 (x.toNat / 2 ^ (y.toNat % 64))⟩
  | .vsar m d a b g => some ⟨m, d, [a, b], g, fun _ x y => BitVec.ofInt 32 (x.toInt / 2 ^ (y.toNat % 64))⟩
  | .vshlImmediate m d a n g => some ⟨m, d, [a], g, fun _ x _ => BitVec.ofNat 32 (x.toNat * 2 ^ n.toNat)⟩
  | .vshrImmediate m d a n g => some ⟨m, d, [a], g, fun _ x _ => BitVec.ofNat 32 (x.toNat / 2 ^ n.toNat)⟩
  | .vsarImmediate m d a n g => some ⟨m, d, [a], g, fun _ x _ => BitVec.ofInt 32 (x.toInt / 2 ^ n.toNat)⟩
  | _ => none

/-- R343, R344: selection, logic, moves and shifts act on each active 32-bit lane and raise no flag; a count of 32 or
more shifts every bit out. -/
def Sys2Proof.Claims.vectorLaneLogic : Prop :=
  ∀ (s : State) (i : Instr) (x : LaneOp), laneOf s i = some x → ready s i x.m 1 = true → lanesHold s x.g = true →
    usable s (x.va.map Src.v) (.v x.vd) = true →
    let a := vsrcs s s x.va
    ∃ v, exec i s = .next (finish s (writeV s.cur.1 s.cur.2 a.1 x.vd (lanesOf s s x.g) v) x.m 1 .seq) ∧
      ∀ k, k < 64 → lane v k = x.f k (lane (a.2.getD 0 0) k) (lane (a.2.getD 1 0) k)

/-- R341 to R344: vector comparison, selection, logic and shifts. -/
def Obligations.VectorComparisonAndLogic : Prop :=
  Claims.vectorComparison ∧ Claims.vectorLaneLogic

/-- The vector destination's value before the word (R345 to R348: elements the word does not name keep it). -/
def Sys2Proof.Claims.oldV (s t : State) (vd : V5) : VReg := tabD (getRole t s.cur.1 s.cur.2).v vd.toNat 0

/-- R345 to R349: vcvt converts each element, or the half that .hi names; vscl writes the scale byte of each block of its
stretch; vpack rounds the stretch's elements, divided by their block's scale, into the destination, and vunpk takes them
out of it, times their scale; each in the active lanes, with the flags of those elements. -/
def Obligations.VectorConversions : Prop :=
  (∀ (s : State) (m : Mark) (hi : Bool) (dt dt2 : DType) (rm : RM) (sat : Bool) (vd va : V5) (g : Guard),
    ready s (.vcvt m hi dt dt2 rm sat vd va g) m 1 = true → lanesHold s g = true →
    Check.reserved dt = false → Check.reserved dt2 = false → usable s [.v va] (.v vd) = true →
    (elemBits dt = 32 ∨ elemBits dt = 16) →
    ∀ t draw, drawOf s.cur.1 s.cur.2 s rm = .ok (t, draw) →
    let a := vsrcs s t [va]
    let x := a.2.getD 0 0
    let cvt := fun j e => convert dt rm sat (draw j) (wideVal dt2 e)
    ∃ v fl, exec (.vcvt m hi dt dt2 rm sat vd va g) s = .next (finishV s a.1 m vd (lanesOf s t g) v fl) ∧
      elemsAre (elemBits dt) (lanesOf s t g)
        (fun j =>
          if elemBits dt = 32 then cvt j (laneElem (elemBits dt2) hi x j)
          else if elemBits dt2 = 16 then cvt j (packed x.toNat 16 j)
          else if j % 2 = hi.toNat then cvt j (packed x.toNat 32 (j / 2))
          else (packed (oldV s t vd).toNat 16 j, 0)) v fl) ∧
  (∀ (s : State) (m : Mark) (dt dt2 : DType) (vd va : V5) (q : BitVec 3) (g : Guard),
    ready s (.vscl m dt dt2 vd va q g) m 1 = true → lanesHold s g = true →
    Check.reserved dt = false → Check.reserved dt2 = false → usable s [.v va] (.v vd) = true →
    let a := vsrcs s s [va]
    let n := stretchLen dt2
    ∃ v fl, exec (.vscl m dt dt2 vd va q g) s = .next (finishV s a.1 m vd (lanesOf s s g) v fl) ∧
      elemsAre 8 (lanesOf s s g)
        (fun b =>
          if n * q.toNat / 32 ≤ b ∧ b < n * q.toNat / 32 + n / 32 then
            scaleCode dt ((List.range 32).map fun k =>
              wideVal dt2 (packed (a.2.getD 0 0).toNat (elemBits dt2) (32 * (b - n * q.toNat / 32) + k)))
          else (packed (oldV s s vd).toNat 8 b, 0)) v fl) ∧
  (∀ (s : State) (m : Mark) (dt dt2 : DType) (rm : RM) (sat : Bool) (vd va vb : V5) (q : BitVec 3) (g : Guard),
    ready s (.vpack m dt dt2 rm sat vd va vb q g) m 1 = true → lanesHold s g = true →
    Check.reserved dt = false → Check.reserved dt2 = false →
    let l := if isScaled dt then [va, vb] else [va]
    usable s (l.map Src.v) (.v vd) = true →
    ∀ t draw, drawOf s.cur.1 s.cur.2 s rm = .ok (t, draw) →
    let a := vsrcs s t l
    let n := stretchLen dt2
    let val : Nat → Val := fun j =>
      let x := wideVal dt2 (packed (a.2.getD 0 0).toNat (elemBits dt2) (j - n * q.toNat))
      let k := packed (a.2.getD 1 0).toNat 8 (j / 32)
      if isScaled dt then (if k = 0xFF then .nan else scaleVal (127 - (k : Int)) x) else x
    ∃ v fl, exec (.vpack m dt dt2 rm sat vd va vb q g) s = .next (finishV s a.1 m vd (lanesOf s t g) v fl) ∧
      elemsAre (elemBits dt) (lanesOf s t g)
        (fun j =>
          if n * q.toNat ≤ j ∧ j < n * q.toNat + n then
            if dt = .k4 then
              let p := packK4 rm (draw (j / 2 * 2)) (draw (j / 2 * 2 + 1)) (val (j / 2 * 2)) (val (j / 2 * 2 + 1))
              (if j % 2 = 0 then p.1 else p.2.1, p.2.2)
            else convert dt rm sat (draw j) (val j)
          else (packed (oldV s t vd).toNat (elemBits dt) j, 0)) v fl) ∧
  (∀ (s : State) (m : Mark) (dt dt2 : DType) (rm : RM) (sat : Bool) (vd va vb : V5) (q : BitVec 3) (g : Guard),
    ready s (.vunpk m dt dt2 rm sat vd va vb q g) m 1 = true → lanesHold s g = true →
    Check.reserved dt = false → Check.reserved dt2 = false →
    let l := if isScaled dt2 then [va, vb] else [va]
    usable s (l.map Src.v) (.v vd) = true →
    ∀ t draw, drawOf s.cur.1 s.cur.2 s rm = .ok (t, draw) →
    let a := vsrcs s t l
    let el := fun j => scaledElem dt2 (a.2.getD 0 0).toNat (a.2.getD 1 0).toNat (stretchLen dt * q.toNat + j)
    ∃ v fl, exec (.vunpk m dt dt2 rm sat vd va vb q g) s = .next (finishV s a.1 m vd (lanesOf s t g) v fl) ∧
      elemsAre (elemBits dt) (lanesOf s t g)
        (fun j => ((convert dt rm sat (draw j) (el j).1).1,
          (convert dt rm sat (draw j) (el j).1).2 ||| if (el j).2 then 0x10 else 0)) v fl)

/-- R350, R351, R330: vred reduces every element of its source, active or not, by a fixed tree of pairs and writes the
result to element 0, with 0 in the others; vdot adds to lane k, for k below 16, the dot product of the 16 bytes k of its
sources, and writes 0 to the other lanes. -/
def Sys2Proof.Claims.vectorReductions : Prop :=
  (∀ (s : State) (m : Mark) (op : RedOp) (dt dt2 : DType) (rm : RM) (sat : Bool) (vd va : V5) (g : Guard),
    ready s (.vred m op dt dt2 rm sat vd va g) m 1 = true → lanesHold s g = true →
    Check.reserved dt = false → Check.reserved dt2 = false → usable s [.v va] (.v vd) = true →
    let a := vsrcs s s [va]
    let w := elemBits dt2
    let n := if w = 32 then 6 else 7
    let x := tree (redOp op dt rm sat) n ((List.range (2 ^ n)).map fun k =>
      if dt = dt2 then packed (a.2.getD 0 0).toNat w k
      else (convert dt .rne false 0 (wideVal dt2 (packed (a.2.getD 0 0).toNat w k))).1)
    exec (.vred m op dt dt2 rm sat vd va g) s =
      .next (finishV s a.1 m vd (lanesOf s s g) (BitVec.ofNat 2048 x.1) x.2)) ∧
  (∀ (f : Nat → Nat → Nat × BitVec 5) (n : Nat) (l k : List Nat), l.length = 2 ^ n → k.length = 2 ^ n →
    tree f (n + 1) (l ++ k) =
      ((f (tree f n l).1 (tree f n k).1).1, (tree f n l).2 ||| (tree f n k).2 ||| (f (tree f n l).1 (tree f n k).1).2)) ∧
  (∀ (s : State) (m : Mark) (dt dt2 : DType) (vd va vb vc : V5) (g : Guard),
    ready s (.vdot m dt dt2 vd va vb vc g) m 1 = true → lanesHold s g = true →
    Check.reserved dt = false → Check.reserved dt2 = false → usable s [.v va, .v vb, .v vc] (.v vd) = true →
    let a := vsrcs s s [va, vb, vc]
    ∃ v fl, exec (.vdot m dt dt2 vd va vb vc g) s = .next (finishV s a.1 m vd (lanesOf s s g) v fl) ∧
      elemsAre 32 (lanesOf s s g)
        (fun k => if k < 16 then dotLane dt2 (a.2.getD 0 0) (a.2.getD 1 0) (packed (a.2.getD 2 0).toNat 32 k) k
          else (0, 0)) v fl)

/-- A word that moves elements: its sources, its types, its active lanes and the element it writes at place j, of the
general operand and of the vector operands. -/
structure Sys2Proof.Claims.MoveOp where
  m  : Mark
  dt : DType
  vd : V5
  va : List V5
  ga : Option G6
  g  : Guard
  f  : BitVec 64 → Word → List VReg → Nat → Nat

/-- Lane movement of R352 to R354. Every word here reads its vector operands before the general one. -/
def Sys2Proof.Claims.moveOf : Instr → Option MoveOp
  | .vbc m dt d ga g => some ⟨m, dt, d, [], some ga, g, fun _ x _ _ => x.toNat⟩
  | .vbcElement m dt d a n g =>
    some ⟨m, dt, d, [a], none, g, fun _ _ l _ => packed (l.getD 0 0).toNat (elemBits dt) n.toNat⟩
  | .vslideDn m d a ga n g =>
    some ⟨m, .i32, d, [a], some ga, g, fun _ x l j =>
      let k := j + (x.toNat + n.toNat) % 2 ^ 64
      if k < 64 then (lane (l.getD 0 0) k).toNat else 0⟩
  | .vslideUp m d a ga n g =>
    some ⟨m, .i32, d, [a], some ga, g, fun _ x l j =>
      let k := (x.toNat + n.toNat) % 2 ^ 64
      if k ≤ j then (lane (l.getD 0 0) (j - k)).toNat else 0⟩
  | .viota m d ga st g =>
    some ⟨m, .i32, d, [], some ga, g, fun _ x _ j => (((x.toNat : Int) + st.toInt * j) % 2 ^ 32).toNat⟩
  | .viotaPc m d ga st g =>
    some ⟨m, .i32, d, [], some ga, g, fun act x _ j =>
      (((x.toNat : Int) + st.toInt * ((List.range j).filter fun k => bit act k).length) % 2 ^ 32).toNat⟩
  | .vperm m d a b c g =>
    some ⟨m, .i32, d, [a, b, c], none, g, fun _ _ l j =>
      let k := (lane (l.getD 2 0) j).toNat % 128
      (if k < 64 then lane (l.getD 0 0) k else lane (l.getD 1 0) (k - 64)).toNat⟩
  | .vzip m hi dt d a b g =>
    some ⟨m, dt, d, [a, b], none, g, fun _ _ l j =>
      let k := j / 2 + if hi then 2048 / elemBits dt / 2 else 0
      packed (l.getD (j % 2) 0).toNat (elemBits dt) k⟩
  | .vuzp m hi dt d a b g =>
    some ⟨m, dt, d, [a, b], none, g, fun _ _ l j =>
      let n := 2048 / elemBits dt
      let k := 2 * j + hi.toNat
      if k < n then packed (l.getD 0 0).toNat (elemBits dt) k else packed (l.getD 1 0).toNat (elemBits dt) (k - n)⟩
  | _ => none

/-- R352 to R354: a word of lane movement writes, in the active lanes, the elements it names; it raises no flag. vext
moves an element to a general register, sign-extended with .sx, with taint 0; vins writes one element when its lane is
active. -/
def Sys2Proof.Claims.vectorMovement : Prop :=
  (∀ (s : State) (i : Instr) (x : MoveOp), moveOf i = some x → ready s i x.m 1 = true → lanesHold s x.g = true →
    Check.reserved x.dt = false → usable s (x.va.map Src.v ++ x.ga.toList.map Src.g) (.v x.vd) = true →
    let a := vsrcs s s x.va
    let b := match x.ga with
      | some r => src s a.1 r
      | none => (a.1, ⟨0, false⟩)
    ∃ v, exec i s = .next (finish s (writeV s.cur.1 s.cur.2 b.1 x.vd (lanesOf s s x.g) v) x.m 1 .seq) ∧
      elemsAre (elemBits x.dt) (lanesOf s s x.g) (fun j => (x.f (lanesOf s s x.g) b.2.val a.2 j, 0)) v 0) ∧
  (∀ (s : State) (m : Mark) (sx : Bool) (dt : DType) (rd : G6) (va : V5) (n : BitVec 16) (g : Guard),
    ready s (.vext m sx dt rd va n g) m 1 = true → guardHolds s g = true → Check.reserved dt = false →
    usable s [.v va] (.g rd) = true →
    let a := vsrcs s s [va]
    let x := packed (a.2.getD 0 0).toNat (elemBits dt) n.toNat
    exec (.vext m sx dt rd va n g) s = .next (finishG s a.1 m rd
      ⟨if sx then BitVec.ofInt 64 (signedOf (elemBits dt) x) else BitVec.ofNat 64 x, false⟩ .seq)) ∧
  (∀ (s : State) (m : Mark) (dt : DType) (vd : V5) (ga : G6) (n : BitVec 16) (g : Guard),
    ready s (.vins m dt vd ga n g) m 1 = true → lanesHold s g = true → Check.reserved dt = false →
    usable s [.g ga] (.v vd) = true →
    let a := src s s ga
    let w := elemBits dt
    let l := w * n.toNat / 32
    (bit (lanesOf s s g) l = false → exec (.vins m dt vd ga n g) s = .next (finish s a.1 m 1 .seq)) ∧
    (bit (lanesOf s s g) l = true →
      ∃ v, exec (.vins m dt vd ga n g) s =
          .next (finish s (writeV s.cur.1 s.cur.2 a.1 vd (BitVec.ofNat 64 (2 ^ l)) v) m 1 .seq) ∧
        elemsAre w (BitVec.ofNat 64 (2 ^ l))
          (fun j => (if j = n.toNat then a.2.val.toNat else packed (oldV s s vd).toNat w j, 0)) v 0))

/-- R350 to R354: reductions, dot products and lane movement. -/
def Obligations.VectorReductionsAndMovement : Prop :=
  Claims.vectorReductions ∧ Claims.vectorMovement

/-- R355, R195, R193: rand writes word pairs, and vrand lane k the word, that Philox gives at the stream's counter plus
the operand, with the page's key. -/
def Obligations.RandomDraws : Prop :=
  (∀ (s : State) (m : Mark) (rd ra : G6) (n : BitVec 6) (t : State) (ctr : Nat) (key : Word),
    ready s (.rand m rd ra n) m 1 = true → usable s [.g ra] (.g rd) = true →
    streamRead s.cur.1 s.cur.2 s n.toNat = .ok (t, ctr, key) →
    let a := src s t ra
    let y := philox ((ctr + a.2.val.toNat) % 2 ^ 128) key
    exec (.rand m rd ra n) s =
      .next (finishG s a.1 m rd ⟨BitVec.ofNat 64 (y.c0.toNat + 2 ^ 32 * y.c1.toNat), false⟩ .seq)) ∧
  (∀ (s : State) (m : Mark) (vd : V5) (ga : G6) (n : BitVec 6) (g : Guard) (t : State) (ctr : Nat) (key : Word),
    ready s (.vrand m vd ga n g) m 1 = true → lanesHold s g = true → usable s [.g ga] (.v vd) = true →
    streamRead s.cur.1 s.cur.2 s n.toNat = .ok (t, ctr, key) →
    let a := src s t ga
    ∃ v, exec (.vrand m vd ga n g) s = .next (finish s (writeV s.cur.1 s.cur.2 a.1 vd (lanesOf s t g) v) m 1 .seq) ∧
      ∀ k, k < 64 → lane v k =
        (philox ((ctr + a.2.val.toNat + k / 4) % 2 ^ 128) key).word (k % 4)) ∧
  (∀ (s : State) (m : Mark) (rd ra : G6) (n : BitVec 6), ready s (.rand m rd ra n) m 1 = true →
    usable s [.g ra] (.g rd) = true → sspOn s = false →
    exec (.rand m rd ra n) s = .next (takeTrap s s.cur.1 s.cur.2 ((encode (.rand m rd ra n)).headD 0) tILLEGAL
      ((encode (.rand m rd ra n)).headD 0)))

/-! ## Loads and stores -/

/-- A memory operand of the acting role, read from state t: the state after its pops, and its address (R22). -/
def Sys2Proof.Claims.eaOf (s t : State) (ea : EA) : State × Nat :=
  let b := src s t ea.rb
  let i := src s b.1 ea.ri
  (i.1, (((b.2.val.toNat : Int) + i.2.val.toNat * 2 ^ ea.sc.toNat + ea.off.toInt) % 2 ^ 57).toNat)

/-- One of a memory operand's registers is tainted (R90). -/
def Sys2Proof.Claims.eaTaint (s t : State) (ea : EA) : Bool := (src s t ea.rb).2.taint || (src s (src s t ea.rb).1 ea.ri).2.taint

/-- A scalar load: its bytes, extension, scope, whether it acquires and whether it taints, and its operands. -/
structure Sys2Proof.Claims.LoadOp where
  m     : Mark
  n     : Nat
  sx    : Bool
  x     : Option Scope
  acq   : Bool
  taint : Bool
  rd    : G6
  ea    : EA
  g     : Guard

/-- The scalar loads of R296. -/
def Sys2Proof.Claims.loadOf : Instr → Option LoadOp
  | .ld m sz sx rd ea g => some ⟨m, sizeBytes sz, sx, none, false, false, rd, ea, g⟩
  | .ldc m sz sx x rd ea g => some ⟨m, sizeBytes sz, sx, some x, false, true, rd, ea, g⟩
  | .lda m sz sx x rd ea g => some ⟨m, sizeBytes sz, sx, some x, true, false, rd, ea, g⟩
  | _ => none

/-- What a scalar destination has newest: the register, or the youngest entry of the queue. -/
def Sys2Proof.Claims.newest (t : State) (c : Nat) (r : RoleId) (rd : G6) : Option Reg :=
  if rd.toNat < 48 then tabGet (getRole t c r).g rd.toNat
  else match (tabD (Machine.core t c).queues (rd.toNat % 8) []).getLast? with
    | some (.full v) => some v
    | _ => none

/-- The value of n bytes, zero- or sign-extended to 64 bits (R296). -/
def Sys2Proof.Claims.loadedWord (n : Nat) (sx : Bool) (v : Nat) : Word :=
  if sx then BitVec.ofInt 64 (signedOf (8 * n) v) else BitVec.ofNat 64 v

/-- The acting role may read, or write, at an address now: aligned, its earlier accesses to the line and its releases
done, and, with `acq`, its earlier release stores at the scope or wider (R112, R296, R302). -/
abbrev Sys2Proof.Claims.loadable (s : State) (x : LoadOp) (a : Nat) (loc : Loc) : Prop :=
  a % x.n = 0 ∧ locBusy s s.cur.1 s.cur.2 loc = false ∧ relSettled s s.cur.1 s.cur.2 = true ∧
    (x.acq = true → stlBefore s s.cur.1 s.cur.2 (x.x.getD .core) = false)

/-- R296, R294: a load from scratch completes with the bytes there, extended, in its destination; a load from memory
takes them from the L1 when that serves them, else it completes with its destination outstanding. ldc taints. -/
def Obligations.ScalarLoads : Prop :=
  (∀ (s : State) (i : Instr) (x : LoadOp) (t : State) (key : Nat), loadOf i = some x → ready s i x.m 1 = true →
    guardHolds s x.g = true → usable s [.g x.ea.rb, .g x.ea.ri] (.g x.rd) = true →
    let a := eaOf s s x.ea
    coreLoc a.1 s.cur.1 .read (!systemMode s s.cur.1 s.cur.2) false false a.2 x.n = .ok (t, .pool key) →
    loadable s x a.2 (.pool key) →
    ∃ u, exec i s = .next (finish s u x.m 1 .seq) ∧ u.mem = s.mem ∧
      (x.rd ≠ 0 → newest u s.cur.1 s.cur.2 x.rd =
        some ⟨loadedWord x.n x.sx (leNat (readBytes s.mem key x.n)), x.taint⟩)) ∧
  (∀ (s : State) (i : Instr) (x : LoadOp) (t : State) (tgt : Target) (leaf : Option Nat), loadOf i = some x →
    ready s i x.m 1 = true → guardHolds s x.g = true → usable s [.g x.ea.rb, .g x.ea.ri] (.g x.rd) = true →
    let a := eaOf s s x.ea
    coreLoc a.1 s.cur.1 .read (!systemMode s s.cur.1 s.cur.2) false false a.2 x.n = .ok (t, .dev tgt leaf) →
    loadable s x a.2 (.dev tgt leaf) →
    let fresh := x.x == some .dev || x.x == some .sys || eaTaint s s x.ea
    ∃ u, exec i s = .next (finish s u x.m 1 .seq) ∧
      match l1Serves (Machine.core t s.cur.1) tgt (byteMask (a.2 % 128) x.n) fresh with
      | some d => (getRole u s.cur.1 s.cur.2).loads.map (·.id) = (getRole t s.cur.1 s.cur.2).loads.map (·.id) ∧
          (x.rd ≠ 0 → newest u s.cur.1 s.cur.2 x.rd =
            some ⟨loadedWord x.n x.sx (leNat (bytesFrom d (tgt.dpa % 128) x.n)), x.taint⟩)
      | none => ∃ l p, (getRole u s.cur.1 s.cur.2).loads = (getRole t s.cur.1 s.cur.2).loads ++ [l] ∧
          l.dest = destOf (.g x.rd) ∧ l.esz = x.n ∧ l.sx = x.sx ∧ l.taint = x.taint ∧ l.parts = [p] ∧
          p.tgt = tgt ∧ p.n = x.n ∧ p.got = none)

/-- A store's operands in the order the word reads them (R20): the state after its pops, its address, its data. -/
def Sys2Proof.Claims.storeArgs (s : State) (rs : G6) (ea : EA) : State × Nat × Word :=
  let d := src s s rs
  let a := eaOf s d.1 ea
  (a.1, a.2, d.2.val)

/-- R297, R294: a store to scratch completes with its bytes in memory, or, the other way of the step, in flight to the bank
(log 3); one to a line that the L1 serves leaves its bytes
there, valid and dirty; one to any other line leaves as a write in flight. stl holds its write until the role's earlier
writes are acknowledged. -/
def Obligations.ScalarStores : Prop :=
  (∀ (s : State) (m : Mark) (sz : Size) (rs : G6) (ea : EA) (g : Guard) (t : State) (key : Nat),
    ready s (.st m sz rs ea g) m 1 = true → guardHolds s g = true →
    usable s [.g rs, .g ea.rb, .g ea.ri] .none = true →
    let a := storeArgs s rs ea
    let n := sizeBytes sz
    coreLoc s s.cur.1 .write (!systemMode s s.cur.1 s.cur.2) false true a.2.1 n = .ok (t, .pool key) →
    a.2.1 % n = 0 → locBusy s s.cur.1 s.cur.2 (.pool key) = false → relSettled s s.cur.1 s.cur.2 = true →
    stage s.cur.1 s.cur.2 s = 0 →
    ∃ u, exec (.st m sz rs ea g) s = .next (finish s u m 1 .seq) ∧
      (s.alt = false → u.mem = writeBytes s.mem key (leBytes n a.2.2.toNat)) ∧
      (s.alt = true → u.mem = s.mem ∧ ∃ w, (Machine.core u s.cur.1).writes = (Machine.core s s.cur.1).writes ++ [w] ∧
        w.place = .bank ∧ w.w.tgt.dpa = key / 128 * 128 ∧ w.w.mask = byteMask (a.2.1 % 128) n ∧
        w.w.data = bytesAt (a.2.1 % 128) (leBytes n a.2.2.toNat))) ∧
  (∀ (s : State) (m : Mark) (sz : Size) (rs : G6) (ea : EA) (g : Guard) (t : State) (tgt : Target) (leaf : Option Nat),
    ready s (.st m sz rs ea g) m 1 = true → guardHolds s g = true →
    usable s [.g rs, .g ea.rb, .g ea.ri] .none = true →
    let a := storeArgs s rs ea
    let n := sizeBytes sz
    coreLoc s s.cur.1 .write (!systemMode s s.cur.1 s.cur.2) false true a.2.1 n = .ok (t, .dev tgt leaf) →
    a.2.1 % n = 0 → locBusy t s.cur.1 s.cur.2 (.dev tgt leaf) = false → relSettled s s.cur.1 s.cur.2 = true →
    stage s.cur.1 s.cur.2 s = 0 → inOpenRange t tgt = false →
    ∃ u, exec (.st m sz rs ea g) s = .next (finish s u m 1 .seq) ∧
      (usesL1 (Machine.core t s.cur.1) tgt = true → ∃ l, tabGet (Machine.core u s.cur.1).l1 (l1Key tgt) = some l ∧
        byteMask (a.2.1 % 128) n &&& ~~~(l.valid &&& l.dirty) = 0 ∧ l.writer &&& roleBit s.cur.2 ≠ 0) ∧
      (usesL1 (Machine.core t s.cur.1) tgt = false → ∃ w, (Machine.core u s.cur.1).writes = (Machine.core t s.cur.1).writes ++ [w] ∧
        w.w = ⟨lineTarget tgt, byteMask (a.2.1 % 128) n, bytesAt (a.2.1 % 128) (leBytes n a.2.2.toNat)⟩ ∧
        w.performed = false ∧ w.place = .slice ∧ w.after = 0)) ∧
  (∀ (s : State) (m : Mark) (sz : Size) (x : Scope) (rs : G6) (ea : EA) (g : Guard) (t t' : State) (loc : Loc),
    ready s (.stl m sz x rs ea g) m 1 = true → guardHolds s g = true →
    usable s [.g rs, .g ea.rb, .g ea.ri] .none = true →
    let a := storeArgs s rs ea
    let n := sizeBytes sz
    let user := !systemMode s s.cur.1 s.cur.2
    coreLoc s s.cur.1 .write user false true a.2.1 n = .ok (t, loc) →
    coreLoc a.1 s.cur.1 .write user false true a.2.1 n = .ok (t', loc) →
    a.2.1 % n = 0 → locBusy s s.cur.1 s.cur.2 loc = false → relSettled s s.cur.1 s.cur.2 = true →
    relReady s s.cur.1 s.cur.2 x = true → stage s.cur.1 s.cur.2 s = 0 →
    (∀ tgt leaf, loc = .dev tgt leaf → inOpenRange s tgt = false) →
    ∃ u w l, exec (.stl m sz x rs ea g) s = .next (finish s u m 1 .seq) ∧
      (Machine.core u s.cur.1).writes = l ++ [w] ∧ w.after = w.id ∧
      (∀ v, v ∈ (Machine.core s s.cur.1).writes → ∃ y, y ∈ l ∧ y.id = v.id) ∧
      w.w.mask = byteMask (a.2.1 % 128) n ∧ w.w.data = bytesAt (a.2.1 % 128) (leBytes n a.2.2.toNat) ∧
      w.performed = false) ∧
  (∀ (s : State) (m : Mark) (sz : Size) (rs : G6) (ea : EA) (g : Guard) (t : State) (tgt : Target) (leaf : Option Nat),
    ready s (.st m sz rs ea g) m 1 = true → guardHolds s g = true →
    usable s [.g rs, .g ea.rb, .g ea.ri] .none = true →
    let a := storeArgs s rs ea
    let n := sizeBytes sz
    coreLoc s s.cur.1 .write (!systemMode s s.cur.1 s.cur.2) false true a.2.1 n = .ok (t, .dev tgt leaf) →
    a.2.1 % n = 0 → inOpenRange t tgt = true →
    (locBusy t s.cur.1 s.cur.2 (.dev tgt leaf) = false → relSettled s s.cur.1 s.cur.2 = true →
      stage s.cur.1 s.cur.2 s = 0 →
      ∃ u w, exec (.st m sz rs ea g) s = .next u ∧ w ∈ (Machine.core u s.cur.1).writes ∧ w.precise = true ∧
        (getRole u s.cur.1 s.cur.2).block = some (.stores w.id 1) ∧
        (getRole u s.cur.1 s.cur.2).pc = (getRole s s.cur.1 s.cur.2).pc) ∧
    (stage s.cur.1 s.cur.2 s = 2 →
      ∃ u, exec (.st m sz rs ea g) s = .next (finish s u m 1 .seq) ∧ u.mem = t.mem ∧
        (Machine.core u s.cur.1).writes = (Machine.core t s.cur.1).writes))

/-- n bytes at va lie in the acting core's own scratch (R28, R50). -/
abbrev Sys2Proof.Claims.inScratch (s : State) (va n : Nat) : Prop :=
  NW + bnd0 (Machine.core s s.cur.1) ≤ va ∧ va + n ≤ NW + bnd1 (Machine.core s s.cur.1)

/-- The memory key of an address of the acting core's own scratch. -/
def Sys2Proof.Claims.scratchKey (s : State) (va : Nat) : Nat := poolBase s.cur.1 + (va - NW)

/-- What a vector destination has newest: the register, or the youngest entry of the queue. -/
def Sys2Proof.Claims.newestV (t : State) (c : Nat) (r : RoleId) (vd : V5) : Option VReg :=
  if vd.toNat < 28 then tabGet (getRole t c r).v vd.toNat
  else match (tabD (Machine.core t c).vqueues (vd.toNat % 2) []).getLast? with
    | some (.full v) => some v
    | _ => none

/-- The lanes of a vector destination that a load does not write: the register's old ones, or 0 of a queue's entry. -/
def Sys2Proof.Claims.keptV (s : State) (vd : V5) : VReg := if vd.toNat < 28 then oldV s s vd else 0

/-- Lane k of a vector access at address a of m lanes is performed from lane `start` on: its line reaches past it. -/
def Sys2Proof.Claims.lanePerformed (a m start k : Nat) : Bool := decide (start < min m (((a + 4 * k) / 128 * 128 + 128 - a) / 4))

/-- R298: vld completes with each active lane's 32 bits from its place, and vst with each active lane's 32 bits there,
here in the core's own scratch, where a store is at the bank at once (log 3); the lines that VSTART names as performed are
passed over, and VSTART returns to 0. Elsewhere they complete, vst when its elements are placed. -/
def Sys2Proof.Claims.vectorLoadsAndStores : Prop :=
  (∀ (s : State) (m : Mark) (n : BitVec 2) (vd : V5) (ea : EA) (g : Guard),
    ready s (.vld m n vd ea g) m 1 = true → lanesHold s g = true →
    usable s [.g ea.rb, .g ea.ri] (.v vd) = true →
    let a := eaOf s s ea
    let k := vecLanes n
    a.2 % 32 = 0 → inScratch s a.2 (4 * k) → relSettled s s.cur.1 s.cur.2 = true →
    (∀ j, j < k → bit (lanesOf s s g) j = true → locBusy s s.cur.1 s.cur.2 (.pool (scratchKey s (a.2 + 4 * j))) = false) →
    ∃ u v, exec (.vld m n vd ea g) s = .next (finish s u m 1 .seq) ∧ u.mem = s.mem ∧
      (getRole u s.cur.1 s.cur.2).vstart = 0 ∧ newestV u s.cur.1 s.cur.2 vd = some v ∧
      ∀ j, j < 64 →
        (j < k → bit (lanesOf s s g) j = true → lanePerformed a.2 k (getRole s s.cur.1 s.cur.2).vstart.toNat j = true →
          lane v j = BitVec.ofNat 32 (leNat (readBytes s.mem (scratchKey s (a.2 + 4 * j)) 4))) ∧
        (¬(j < k ∧ bit (lanesOf s s g) j = true) → lane v j = lane (keptV s vd) j)) ∧
  (∀ (s : State) (m : Mark) (n : BitVec 2) (vs : V5) (ea : EA) (g : Guard),
    ready s (.vst m n vs ea g) m 1 = true → lanesHold s g = true →
    usable s [.v vs, .g ea.rb, .g ea.ri] .none = true →
    let x := readV s.cur.1 s.cur.2 s vs
    let a := eaOf s x.1 ea
    let k := vecLanes n
    a.2 % 32 = 0 → s.alt = false → inScratch s a.2 (4 * k) → (stage s.cur.1 s.cur.2 s = 0 → relSettled s s.cur.1 s.cur.2 = true) →
    (∀ j, j < k → bit (lanesOf s s g) j = true → locBusy s s.cur.1 s.cur.2 (.pool (scratchKey s (a.2 + 4 * j))) = false) →
    ∃ u, exec (.vst m n vs ea g) s = .next (finish s u m 1 .seq) ∧ (getRole u s.cur.1 s.cur.2).vstart = 0 ∧
      u.mem = ((List.range k).filter fun j =>
          bit (lanesOf s s g) j && lanePerformed a.2 k (storeFrom (getRole s s.cur.1 s.cur.2)) j).foldl
        (fun mem j => writeBytes mem (scratchKey s (a.2 + 4 * j)) (leBytes 4 (lane x.2 j).toNat)) s.mem) ∧
  (∀ (s : State) (m : Mark) (n : BitVec 2) (vd : V5) (ea : EA) (g : Guard) (t t' : State) (ls ls' : List (Nat × Nat × Loc)),
    ready s (.vld m n vd ea g) m 1 = true → lanesHold s g = true →
    usable s [.g ea.rb, .g ea.ri] (.v vd) = true →
    let a := eaOf s s ea
    let user := !systemMode s s.cur.1 s.cur.2
    let ps := vecPieces a.2 (vecLanes n) (lanesOf s s g &&& lowLanes (vecLanes n))
    a.2 % 32 = 0 → vecLocs a.1 s.cur.1 .read user false ps = .ok (t', ls') →
    vecLocs t' s.cur.1 .read user false
      (ps.filter fun p => decide ((getRole s s.cur.1 s.cur.2).vstart.toNat < p.2.1)) = .ok (t, ls) →
    relSettled s s.cur.1 s.cur.2 = true → (ls.any fun l => locBusy s s.cur.1 s.cur.2 l.2.2) = false →
    ∃ u, exec (.vld m n vd ea g) s = .next (finish s u m 1 .seq) ∧ (getRole u s.cur.1 s.cur.2).vstart = 0) ∧
  (∀ (s : State) (m : Mark) (n : BitVec 2) (vs : V5) (ea : EA) (g : Guard) (t v : State) (ls : List (Nat × Nat × Loc)),
    ready s (.vst m n vs ea g) m 1 = true → lanesHold s g = true →
    usable s [.v vs, .g ea.rb, .g ea.ri] .none = true →
    let x := readV s.cur.1 s.cur.2 s vs
    let a := eaOf s x.1 ea
    let ps := vecPieces a.2 (vecLanes n) (lanesOf s s g &&& lowLanes (vecLanes n))
    let es := (vstElems a.2 (lanesOf s s g &&& lowLanes (vecLanes n)) x.2 ps ls).filter fun e =>
      decide (storeFrom (getRole s s.cur.1 s.cur.2) < e.next)
    a.2 % 32 = 0 → (stage s.cur.1 s.cur.2 s = 0 → relSettled s s.cur.1 s.cur.2 = true) →
    vecLocs s s.cur.1 .write (!systemMode s s.cur.1 s.cur.2) true ps = .ok (t, ls) →
    ((es.head?.map fun e => locBusy t s.cur.1 s.cur.2 e.loc).getD false) = false →
    placeElems s.cur.1 s.cur.2 (getRole t s.cur.1 s.cur.2).pc ((encode (.vst m n vs ea g)).headD 0) t es = .done v →
    exec (.vst m n vs ea g) s = .next (finish s (modRole (eaOf s (readV s.cur.1 s.cur.2 v vs).1 ea).1 s.cur.1 s.cur.2
      fun y => { y with vstart := 0 }) m 1 .seq))

/-- The address of lane k of an indexed access (R299). -/
def Sys2Proof.Claims.laneVA (b : Word) (v : VReg) (ea : VEA) (k : Nat) : Nat :=
  (((b.toNat : Int) + (lane v k).toNat * 2 ^ ea.sc.toNat + ea.off.toInt) % 2 ^ 57).toNat

/-- R299: vldx completes with each active lane's element from its own address, and vstx stores each active lane's element
at its own address, in lane order from VSTART on, here in the core's own scratch, where a store is at the bank at once (log
3); elsewhere they complete, vstx when its elements are placed. A vldx with an active lane whose address is not a multiple
of the element's size is fatal ALIGN. -/
def Sys2Proof.Claims.indexedVectorLoadsAndStores : Prop :=
  (∀ (s : State) (m : Mark) (sz : Size) (sx : Bool) (vd : V5) (ea : VEA) (g : Guard),
    ready s (.vldx m sz sx vd ea g) m 1 = true → lanesHold s g = true → sz ≠ .d →
    usable s [.g ea.rb, .v ea.vi] (.v vd) = true →
    let b := src s s ea.rb
    let x := readV s.cur.1 s.cur.2 b.1 ea.vi
    let a := laneVA b.2.val x.2 ea
    let n := sizeBytes sz
    let act := lanesOf s s g
    relSettled s s.cur.1 s.cur.2 = true →
    (∀ k, k < 64 → bit act k = true → a k % n = 0 ∧ inScratch s (a k) n ∧
      locBusy s s.cur.1 s.cur.2 (.pool (scratchKey s (a k))) = false) →
    ∃ u v, exec (.vldx m sz sx vd ea g) s = .next (finish s u m 1 .seq) ∧ u.mem = s.mem ∧
      (getRole u s.cur.1 s.cur.2).vstart = 0 ∧ newestV u s.cur.1 s.cur.2 vd = some v ∧
      ∀ k, k < 64 →
        (bit act k = true → (getRole s s.cur.1 s.cur.2).vstart.toNat ≤ k →
          lane v k = (loadedWord n sx (leNat (readBytes s.mem (scratchKey s (a k)) n))).setWidth 32) ∧
        (bit act k = false → lane v k = lane (keptV s vd) k)) ∧
  (∀ (s : State) (m : Mark) (sz : Size) (vs : V5) (ea : VEA) (g : Guard),
    ready s (.vstx m sz vs ea g) m 1 = true → lanesHold s g = true →
    usable s [.v vs, .g ea.rb, .v ea.vi] .none = true →
    let y := readV s.cur.1 s.cur.2 s vs
    let b := src s y.1 ea.rb
    let x := readV s.cur.1 s.cur.2 b.1 ea.vi
    let a := laneVA b.2.val x.2 ea
    let n := sizeBytes sz
    let act := lanesOf s s g
    s.alt = false → (stage s.cur.1 s.cur.2 s = 0 → relSettled s s.cur.1 s.cur.2 = true) →
    (∀ k, k < 64 → bit act k = true → a k % n = 0 ∧ inScratch s (a k) n ∧
      locBusy s s.cur.1 s.cur.2 (.pool (scratchKey s (a k))) = false) →
    ∃ u, exec (.vstx m sz vs ea g) s = .next (finish s u m 1 .seq) ∧ (getRole u s.cur.1 s.cur.2).vstart = 0 ∧
      u.mem = ((List.range 64).filter fun k =>
          bit act k && decide (storeFrom (getRole s s.cur.1 s.cur.2) ≤ k)).foldl
        (fun mem k => writeBytes mem (scratchKey s (a k)) (leBytes n (lane y.2 k).toNat)) s.mem) ∧
  (∀ (s : State) (m : Mark) (sz : Size) (sx : Bool) (vd : V5) (ea : VEA) (g : Guard) (k : Nat),
    ready s (.vldx m sz sx vd ea g) m 1 = true → lanesHold s g = true →
    usable s [.g ea.rb, .v ea.vi] (.v vd) = true →
    let b := src s s ea.rb
    let x := readV s.cur.1 s.cur.2 b.1 ea.vi
    let a := laneVA b.2.val x.2 ea
    k < 64 → bit (lanesOf s s g) k = true → a k % sizeBytes sz ≠ 0 →
    (∀ j, j < k → bit (lanesOf s s g) j = true → a j % sizeBytes sz = 0) →
    exec (.vldx m sz sx vd ea g) s = .next (roleFatal s s.cur.1 s.cur.2
      ((encode (.vldx m sz sx vd ea g)).headD 0) (fALIGN (a k)))) ∧
  (∀ (s : State) (m : Mark) (sz : Size) (sx : Bool) (vd : V5) (ea : VEA) (g : Guard) (t : State) (ps : List LoadPart),
    ready s (.vldx m sz sx vd ea g) m 1 = true → lanesHold s g = true →
    usable s [.g ea.rb, .v ea.vi] (.v vd) = true →
    let b := src s s ea.rb
    let x := readV s.cur.1 s.cur.2 b.1 ea.vi
    let a := laneAddr b.2.val x.2 ea.sc ea.off
    (∀ k, k < 64 → bit (lanesOf s s g) k = true → a k % sizeBytes sz = 0) → relSettled s s.cur.1 s.cur.2 = true →
    gatherParts s.cur.1 s.cur.2 (!systemMode s s.cur.1 s.cur.2) b.2.taint (sizeBytes sz) x.1
      (activeLanes (lanesOf s s g) (getRole s s.cur.1 s.cur.2).vstart.toNat a) = .ok (t, ps) →
    ∃ u, exec (.vldx m sz sx vd ea g) s = .next (finish s u m 1 .seq) ∧ (getRole u s.cur.1 s.cur.2).vstart = 0) ∧
  (∀ (s : State) (m : Mark) (sz : Size) (vs : V5) (ea : VEA) (g : Guard) (t v : State) (es : List Elem),
    ready s (.vstx m sz vs ea g) m 1 = true → lanesHold s g = true →
    usable s [.v vs, .g ea.rb, .v ea.vi] .none = true →
    let y := readV s.cur.1 s.cur.2 s vs
    let b := src s y.1 ea.rb
    let x := readV s.cur.1 s.cur.2 b.1 ea.vi
    let a := laneAddr b.2.val x.2 ea.sc ea.off
    let start := storeFrom (getRole s s.cur.1 s.cur.2)
    (∀ k, k < 64 → bit (lanesOf s s g) k = true → a k % sizeBytes sz = 0) →
    (stage s.cur.1 s.cur.2 s = 0 → relSettled s s.cur.1 s.cur.2 = true) →
    scatterElems s.cur.1 (!systemMode s s.cur.1 s.cur.2) (sizeBytes sz) y.2 s
      (activeLanes (lanesOf s s g) start a) = (t, es, none) →
    (((es.filter fun e => decide (start < e.next)).head?.map fun e => locBusy t s.cur.1 s.cur.2 e.loc).getD false) = false →
    placeElems s.cur.1 s.cur.2 (getRole t s.cur.1 s.cur.2).pc ((encode (.vstx m sz vs ea g)).headD 0) t
      (es.filter fun e => decide (start < e.next)) = .done v →
    ∃ u, exec (.vstx m sz vs ea g) s = .next (finish s u m 1 .seq) ∧ (getRole u s.cur.1 s.cur.2).vstart = 0)

/-- R298, R299: contiguous and indexed vector loads and stores. -/
def Obligations.VectorMemoryWords : Prop :=
  Claims.vectorLoadsAndStores ∧ Claims.indexedVectorLoadsAndStores

/-! ## Prefetch, probes, fences -/

/-- R300: pref completes whatever its addresses are; it writes no register, predicate or
flag. -/
def Sys2Proof.Claims.prefetchIsAHint : Prop :=
  ∀ (s : State) (m : Mark) (dk : Bool) (n : BitVec 2) (ea : EA) (g : Guard),
    ready s (.pref m dk n ea g) m 1 = true → guardHolds s g = true → usable s [.g ea.rb, .g ea.ri] .none = true →
    ∃ u, exec (.pref m dk n ea g) s = .next (finish s u m 1 .seq) ∧
      (getRole u s.cur.1 s.cur.2).g = (getRole s s.cur.1 s.cur.2).g ∧
      (getRole u s.cur.1 s.cur.2).v = (getRole s s.cur.1 s.cur.2).v ∧
      (getRole u s.cur.1 s.cur.2).p = (getRole s s.cur.1 s.cur.2).p ∧
      (getRole u s.cur.1 s.cur.2).flags = (getRole s s.cur.1 s.cur.2).flags

/-- The operands of probe and unpin: the state after their pops, the base address, and the length. -/
def Sys2Proof.Claims.rangeArgs (s : State) (ra rb : G6) : State × Nat × Nat :=
  let a := src s s ra
  let b := src s a.1 rb
  (b.1, a.2.val.toNat % 2 ^ 57, b.2.val.toNat)

/-- R40, R301: a probe of an empty or near range answers 0 and of a range that leaves the address space or straddles the
near window 0xFE; of a range whose pages all permit its mode, 0 and a new pin, or 0xFF when the die has 4,096; a page that
does not permit it sends a request to the kernel, whose status is then the answer. unpin removes the newest pin of the
context on that range and answers 0, or 1 when there is none; of a near range it answers 0. -/
def Sys2Proof.Claims.probesAndPins : Prop :=
  (∀ (s : State) (m : Mark) (mode : AMode) (rd ra rb : G6) (g : Guard),
    ready s (.probe m mode rd ra rb g) m 1 = true → guardHolds s g = true → usable s [.g ra, .g rb] (.g rd) = true →
    let a := rangeArgs s ra rb
    roleDrained s s.cur.1 s.cur.2 = true → relSettled s s.cur.1 s.cur.2 = true → stage s.cur.1 s.cur.2 s ≤ 1 →
    (a.2.2 = 0 ∨ (NW ≤ a.2.1 ∧ a.2.1 + a.2.2 ≤ 2 ^ 57) →
      exec (.probe m mode rd ra rb g) s = .next (finishG s a.1 m rd ⟨0, false⟩ .seq)) ∧
    (a.2.2 ≠ 0 → 2 ^ 57 < a.2.1 + a.2.2 ∨ (a.2.1 < NW ∧ NW < a.2.1 + a.2.2) →
      exec (.probe m mode rd ra rb g) s = .next (finishG s a.1 m rd ⟨0xFE, false⟩ .seq)) ∧
    (a.2.2 ≠ 0 → a.2.1 + a.2.2 ≤ NW →
      (untranslated s s.cur.1 = true ∨
        ∃ runs, walkRange s (Machine.core s s.cur.1).root (modeWant mode) (!systemMode s s.cur.1 s.cur.2)
          (a.2.1 + a.2.2) (a.2.2 / 4096 + 2) a.2.1 = .all runs ∧ runsHeld s runs = false) →
      ∃ t v, exec (.probe m mode rd ra rb g) s = .next (finishG s t m rd ⟨v, false⟩ .seq) ∧
        (pinCount s (dieOf s.cur.1) < 4096 → v = 0 ∧ ∃ l, t.pins = l ++
          [{ die := dieOf s.cur.1, owner := (Machine.core s s.cur.1).task, base := BitVec.ofNat 57 a.2.1,
             len := a.2.2, mode := BitVec.ofNat 2 (modeNum mode) }]) ∧
        (4096 ≤ pinCount s (dieOf s.cur.1) → v = 0xFF ∧ t.pins = s.pins)) ∧
    (a.2.2 ≠ 0 → a.2.1 + a.2.2 ≤ NW → untranslated s s.cur.1 = false →
      ∀ va, walkRange s (Machine.core s s.cur.1).root (modeWant mode) (!systemMode s s.cur.1 s.cur.2)
        (a.2.1 + a.2.2) (a.2.2 / 4096 + 2) a.2.1 = .fails va → fqCanHold s (dieOf s.cur.1) = true →
      ∃ t tag, exec (.probe m mode rd ra rb g) s = .next t ∧
        (getRole t s.cur.1 s.cur.2).block = some (.probe tag) ∧
        (getRole t s.cur.1 s.cur.2).pc = (getRole s s.cur.1 s.cur.2).pc ∧ ∃ l, t.probes = l ++
          [{ die := dieOf s.cur.1, tag := tag, who := .role s.cur.1 s.cur.2, answer := none }])) ∧
  (∀ (s : State) (m : Mark) (mode : AMode) (rd ra rb : G6) (g : Guard),
    ready s (.probe m mode rd ra rb g) m 1 = true → guardHolds s g = true → usable s [.g ra, .g rb] (.g rd) = true →
    1 < stage s.cur.1 s.cur.2 s →
    ∃ t, exec (.probe m mode rd ra rb g) s = .next (finishG s t m rd
      ⟨BitVec.ofNat 64 (stage s.cur.1 s.cur.2 s - 1), false⟩ .seq) ∧ t.pins = s.pins) ∧
  (∀ (s : State) (d : Nat) (x : Word) (p : Probe) (c : Nat) (r : RoleId), d < 4 → bits x 63 56 < 0xFE →
    (s.probes.find? fun q => q.die == d && q.tag == bits x 15 0 && q.answer.isNone) = some p → p.who = .role c r →
    (getRole s c r).block = some (.probe (bits x 15 0)) →
    ∃ t, exec (.probeackWrite d x) s = .next t ∧ p ∉ t.probes ∧ (getRole t c r).block = none ∧
      stage c r t = if bits x 63 56 = 0 then 0 else bits x 63 56 + 1) ∧
  (∀ (s : State) (m : Mark) (rd ra rb : G6) (g : Guard),
    ready s (.unpin m rd ra rb g) m 1 = true → guardHolds s g = true → usable s [.g ra, .g rb] (.g rd) = true →
    let a := rangeArgs s ra rb
    roleDrained s s.cur.1 s.cur.2 = true → relSettled s s.cur.1 s.cur.2 = true →
    (rangeKind a.2.1 a.2.2 = .near →
      exec (.unpin m rd ra rb g) s = .next (finishG s a.1 m rd ⟨0, false⟩ .seq)) ∧
    (rangeKind a.2.1 a.2.2 ≠ .near →
    let mine : Pin → Bool := fun p => decide (p.die = dieOf s.cur.1) && decide (p.owner = (Machine.core s s.cur.1).task) &&
      decide (p.base.toNat = a.2.1) && decide (p.len = a.2.2)
    ((∀ p, p ∈ a.1.pins → mine p = false) →
      exec (.unpin m rd ra rb g) s = .next (finishG s a.1 m rd ⟨1, false⟩ .seq)) ∧
    (∀ l p l', a.1.pins = l ++ p :: l' → mine p = true → (∀ q, q ∈ l' → mine q = false) →
      exec (.unpin m rd ra rb g) s = .next (finishG s { a.1 with pins := l ++ l' } m rd ⟨0, false⟩ .seq))))

/-- R300, R301: the prefetch hint, probes and pins. -/
def Obligations.PrefetchProbesAndPins : Prop :=
  Claims.prefetchIsAHint ∧ Claims.probesAndPins

/-- R84 to R86, R302, R95: phase begins a release and completes with an acquire once it has settled; acq acquires; rel
begins a release and goes on; drain places its markers and waits, and DRAIN_COMPLETE lets it go on once they have retired
and no write of the core that was then issued is in flight. A release at device or system scope leaves no line of the L1 dirty by the role, and an acquire
there leaves no clean byte valid. -/
def Obligations.Fences : Prop :=
  (∀ (s : State) (m : Mark) (x : Scope), ready s (.phase m x) m 1 = true → relReady s s.cur.1 s.cur.2 x = true →
    (stage s.cur.1 s.cur.2 s = 0 → ∃ t, exec (.phase m x) s = .next t ∧ stage s.cur.1 s.cur.2 t = 1 ∧
      (getRole t s.cur.1 s.cur.2).relBound = t.nextId) ∧
    (stage s.cur.1 s.cur.2 s ≠ 0 → relSettled s s.cur.1 s.cur.2 = true →
      exec (.phase m x) s = .next (finish s (acquire s s.cur.1 x) m 1 .seq))) ∧
  (∀ (s : State) (m : Mark) (x : Scope), ready s (.acq m x) m 1 = true → (getRole s s.cur.1 s.cur.2).loads = [] →
    acqReady s s.cur.1 s.cur.2 x = true →
    exec (.acq m x) s = .next (finish s (acquire s s.cur.1 x) m 1 .seq)) ∧
  (∀ (s : State) (m : Mark) (x : Scope), ready s (.rel m x) m 1 = true → relReady s s.cur.1 s.cur.2 x = true →
    ∃ u, exec (.rel m x) s = .next (finish s u m 1 .seq) ∧ (getRole u s.cur.1 s.cur.2).relBound = u.nextId ∧
      (x = .dev ∨ x = .sys → ∀ e, e ∈ (Machine.core u s.cur.1).l1 → e.2.writer &&& roleBit s.cur.2 = 0)) ∧
  (∀ (s : State) (c : Nat) (x : Scope), x = .dev ∨ x = .sys →
    ∀ e, e ∈ (Machine.core (acquire s c x) c).l1 → e.2.valid = e.2.dirty) ∧
  (∀ (s : State) (m : Mark) (sys : Bool) (k : BitVec 2), ready s (.drain m sys k) m 1 = true →
    (stage s.cur.1 s.cur.2 s ≠ 0 → exec (.drain m sys k) s = .next (finish s s m 1 .seq)) ∧
    (stage s.cur.1 s.cur.2 s = 0 → relReady s s.cur.1 s.cur.2 (if sys then .sys else .dev) = true →
      ∃ t, exec (.drain m sys k) s = .next t ∧ (getRole t s.cur.1 s.cur.2).block = some (.drain sys
        (if bit k 0 then some (matrixPlaced (Machine.core s s.cur.1)) else none)
        (if bit k 1 then some (copyPlaced (Machine.core s s.cur.1)) else none) none))) ∧
  (∀ (s : State) (c : Nat) (r : RoleId) (sys : Bool) (mm cm wm : Option Nat), roleExists s c r = true →
    (getRole s c r).block = some (.drain sys mm cm wm) →
    matrixPassed (Machine.core s c) mm = true → copyPassed (Machine.core s c) cm = true →
    coreUnacked s c (wm.getD s.nextId) = false →
    ∃ t, exec (.drainComplete c r) s = .next t ∧ (getRole t c r).block = none ∧ stage c r t = 1)

/-! ## Atomics -/

/-- The role stands in an atomic with this operation, destination and target, its word not complete. -/
def Sys2Proof.Claims.standsIn (s t : State) (op : AtomOp) (rd : G6) (tgt : Target) : Prop :=
  (getRole t s.cur.1 s.cur.2).pc = (getRole s s.cur.1 s.cur.2).pc ∧
    ∃ a, (getRole t s.cur.1 s.cur.2).block = some (.atomic a) ∧ a.op = op ∧ a.dest = destOf (.g rd) ∧ a.tgt = tgt ∧
      a.reply = none

/-- An atomic may leave its core: aligned, its line free of the role's earlier accesses, its releases settled (R123,
R302). -/
abbrev Sys2Proof.Claims.atomOk (s : State) (va n : Nat) (tgt : Target) (leaf : Option Nat) : Prop :=
  va % n = 0 ∧ locBusy s s.cur.1 s.cur.2 (.dev tgt leaf) = false ∧ relSettled s s.cur.1 s.cur.2 = true

/-- R123, R125, R136: amo, cas and casc leave their core as a request to the home slice of their address, with their
operands' values, and the role stands in the word until the reply. casc takes its continuation's arguments from the
registers its table entry names, and traps with CONT_INVALID when the entry refuses it. -/
def Sys2Proof.Claims.atomicsLeaveTheCore : Prop :=
  (∀ (s : State) (m : Mark) (op : SliceOp) (dbl : Bool) (rd ra rs : G6) (t : State) (tgt : Target) (leaf : Option Nat),
    ready s (.amo m op dbl rd ra rs) m 1 = true → usable s [.g ra, .g rs] (.g rd) = true →
    let a := src s s ra
    let va := a.2.val.toNat % 2 ^ 57
    let n := if dbl then 8 else 4
    atomLoc s.cur.1 s.cur.2 s true va n = .ok (t, tgt, leaf) → atomOk s va n tgt leaf →
    ∃ u, exec (.amo m op dbl rd ra rs) s = .next u ∧ standsIn s u (.amo op dbl (src s a.1 rs).2.val) rd tgt) ∧
  (∀ (s : State) (m : Mark) (rd ra re rn : G6) (t : State) (tgt : Target) (leaf : Option Nat),
    ready s (.cas m rd ra re rn) m 1 = true → usable s [.g ra, .g re, .g rn] (.g rd) = true →
    let a := src s s ra
    let e := src s a.1 re
    let va := a.2.val.toNat % 2 ^ 57
    atomLoc s.cur.1 s.cur.2 s false va 8 = .ok (t, tgt, leaf) → atomOk s va 8 tgt leaf →
    ∃ u, exec (.cas m rd ra re rn) s = .next u ∧ standsIn s u (.cas e.2.val (src s e.1 rn).2.val) rd tgt) ∧
  (∀ (s : State) (m : Mark) (rd ra re rn : G6) (k : BitVec 12) (t : State) (tgt : Target) (leaf : Option Nat),
    ready s (.casc m rd ra re rn k) m 1 = true → usable s [.g ra, .g re, .g rn] (.g rd) = true →
    let a := src s s ra
    let e := src s a.1 re
    let va := a.2.val.toNat % 2 ^ 57
    let q := ctabSee s (coreCopy s.cur.1) k.toNat
    let g := contArgs q.2
    let x := getRole s s.cur.1 s.cur.2
    ctabReason q.2 (Machine.core s s.cur.1).xid = none →
    atomLoc s.cur.1 s.cur.2 q.1 false va 8 = .ok (t, tgt, leaf) → atomOk s va 8 tgt leaf → tgt.peer = none →
    stlPending s s.cur.1 s.cur.2 = false →
    (∀ n, n ∈ g → awaited x (.g n) = false ∧ (tabGet x.g n).isSome = true) →
    ∃ u, exec (.casc m rd ra re rn k) s = .next u ∧ standsIn s u
      (.casc e.2.val (src s e.1 rn).2.val k
        (if g = [] then 0 else (tabD x.g (g.getD 0 0) ⟨0, false⟩).val)
        (if g = [] then 0 else (tabD x.g (g.getD 1 0) ⟨0, false⟩).val)) rd tgt) ∧
  (∀ (s : State) (m : Mark) (rd ra re rn : G6) (k : BitVec 12) (n : Nat),
    ready s (.casc m rd ra re rn k) m 1 = true → usable s [.g ra, .g re, .g rn] (.g rd) = true →
    let q := ctabSee s (coreCopy s.cur.1) k.toNat
    ctabReason q.2 (Machine.core s s.cur.1).xid = some n →
    exec (.casc m rd ra re rn k) s = .next (takeTrap q.1 s.cur.1 s.cur.2 ((encode (.casc m rd ra re rn k)).headD 0) tCONT
      (BitVec.ofNat 64 (n * 4096 + k.toNat)))) ∧
  (∀ (s : State) (m : Mark) (op : SliceOp) (vd : V5) (rb : G6) (vi : V5) (sc : BitVec 2) (vs : V5) (g : Guard),
    ready s (.vamo m op vd rb vi sc vs g) m 1 = true → lanesHold s g = true →
    usable s [.g rb, .v vi, .v vs] (.v vd) = true → relSettled s s.cur.1 s.cur.2 = true →
    let b := src s s rb
    let i := readV s.cur.1 s.cur.2 b.1 vi
    let x := readV s.cur.1 s.cur.2 i.1 vs
    let va := fun k => (b.2.val.toNat + (lane i.2 k).toNat * 2 ^ sc.toNat) % 2 ^ 57
    let act := fun k => bit (lanesOf s s g) k && decide ((getRole s s.cur.1 s.cur.2).vstart.toNat ≤ k)
    (∀ k, k < 64 → bit (lanesOf s s g) k = true → va k % 4 = 0) →
    let todo := ((List.range 64).filter act).map fun k => (k, BitVec.ofNat 57 (va k), lane x.2 k)
    (todo ≠ [] → ∃ u a, exec (.vamo m op vd rb vi sc vs g) s = .next u ∧
      (getRole u s.cur.1 s.cur.2).block = some (.vamo a) ∧ a.op = op ∧ a.todo = todo ∧
      (vd.toNat < 28 ∨ (getRole s s.cur.1 s.cur.2).vstart = 0 → a.done = []) ∧
      (getRole u s.cur.1 s.cur.2).pc = (getRole s s.cur.1 s.cur.2).pc) ∧
    (todo = [] → ∃ u, exec (.vamo m op vd rb vi sc vs g) s = .next (finish s u m 1 .seq) ∧
      (getRole u s.cur.1 s.cur.2).vstart = 0))

/-- The value that a slice operation leaves, of w bits, on numbers (R124). -/
def Sys2Proof.Claims.sliceValue (op : SliceOp) (w old x : Nat) : Nat :=
  match op with
  | .add => (old + x) % 2 ^ w
  | .and => (old &&& x) % 2 ^ w
  | .or => (old ||| x) % 2 ^ w
  | .xor => (old ^^^ x) % 2 ^ w
  | .min => if signedOf w (old % 2 ^ w) ≤ signedOf w (x % 2 ^ w) then old % 2 ^ w else x % 2 ^ w
  | .max => if signedOf w (old % 2 ^ w) ≤ signedOf w (x % 2 ^ w) then x % 2 ^ w else old % 2 ^ w
  | .minu => min (old % 2 ^ w) (x % 2 ^ w)
  | .maxu => max (old % 2 ^ w) (x % 2 ^ w)
  | .swap => x % 2 ^ w
  | .fadd => (sliceAddF32 (old % 2 ^ w) (x % 2 ^ w)).1
  | .fadd2 => (sliceAddBf16x2 (old % 2 ^ w) (x % 2 ^ w)).1

/-- A line that the home slice reads and writes in place: no block of R171, no compressed one, no snapshot range, no mark
and no poison; its metadata word, if it has one, is in its controller's cache. -/
def Sys2Proof.Claims.plainLine (s : State) (line : Nat) : Prop :=
  metaOf s (128 * line) = 0 ∧ metaOf s (128 * line / 2048 * 2048) = 0 ∧
    (∀ a, metaAddr s (128 * line) = some a → (tabGet s.mdCache (mdKey (128 * line) a)).isSome = true) ∧ s.marks = [] ∧ lineLevel s line = none ∧
    s.poison = [] ∧ (∀ x, x ∈ s.shadows → x.line ≠ line) ∧ ∀ d, tabGet s.deck line = some d → d.ver = false ∧ d.bad = 0

/-- The table's entry that a casc of a requester is judged by at a slice, with the copy's moment of a running update: the one
that its reserved launch entry holds, or the slice's copy (R135, R136). -/
def Sys2Proof.Claims.cascView (s : State) (h q k : Nat) : State × Word × Word :=
  match entryTab (slice s h) q with
  | some t => (s, t)
  | none => ctabSee s (sliceCopy h) k

/-- R124, R125, R127: the home slice of an amo or a cas performs it as one step: the reply is the old value, an amo leaves
its operation's value in the line, and a cas its new value if the old one equals what it expects, nothing else of the line
changing; a vamo's next lane likewise. R136: a casc that is admitted does so and launches its continuation when it
succeeds; one that is not is answered busy and, after its backoff, which doubles up to 256 clocks, asks again. -/
def Obligations.SliceAtomics : Prop :=
  (∀ (s : State) (c : Nat) (r : RoleId) (a : Atom), roleExists s c r = true →
    (getRole s c r).block = some (.atomic a) → a.reply = none → a.tgt.peer = none →
    atomReady (l1Purge s c a.tgt) c r a.tgt a.id = true → plainLine s (a.tgt.dpa / 128) → tabSorted s.deck = true → Memory.wf s.mem = true →
    let n := atomBytes a.op
    let off := a.tgt.dpa % 128
    off % n = 0 →
    let old := leNat (bytesFrom (rawLine s (a.tgt.dpa / 128)) off n)
    let put := fun v => mergeLine (byteMask off n) (rawLine s (a.tgt.dpa / 128)) (bytesAt off (leBytes n v))
    (∀ op dbl x, a.op = .amo op dbl x →
      ∃ u fl, exec (.sliceAtomic c r) s = .next (setAtom u c r { a with reply := some (.old (BitVec.ofNat 64 old) fl) }) ∧
        rawLine u (a.tgt.dpa / 128) = put (sliceValue op (8 * n) old x.toNat)) ∧
    (∀ e x, a.op = .cas e x →
      ∃ u, exec (.sliceAtomic c r) s =
          .next (setAtom (casDirty u a old) c r { a with reply := some (.old (BitVec.ofNat 64 old) 0) }) ∧
        rawLine u (a.tgt.dpa / 128) = if old = e.toNat then put x.toNat else rawLine s (a.tgt.dpa / 128))) ∧
  (∀ (s t : State) (c : Nat) (r : RoleId) (a : VAtom) (k : Nat) (va : VA) (x : BitVec 32)
    (rest : List (Nat × VA × BitVec 32)) (tgt : Target) (leaf : Option Nat), roleExists s c r = true →
    (getRole s c r).block = some (.vamo a) → a.todo = (k, va, x) :: rest → a.full = none → a.tag = none →
    coreLoc s c .both (!systemMode s c r) false true va.toNat 4 = .ok (t, .dev tgt leaf) → tgt.peer = none →
    locBusy s c r (.dev tgt leaf) = false → atomReady (l1Purge t c tgt) c r tgt a.id = true →
    plainLine (l1Purge t c tgt) (tgt.dpa / 128) → tabSorted t.deck = true → Memory.wf t.mem = true → tgt.dpa % 4 = 0 →
    let old := leNat (bytesFrom (rawLine t (tgt.dpa / 128)) (tgt.dpa % 128) 4)
    ∃ u fl, exec (.sliceAtomic c r) s = .next (setVAtom u c r
        { a with todo := rest, done := a.done ++ [(k, BitVec.ofNat 32 old)], fl := a.fl ||| fl, tag := none }) ∧
      rawLine u (tgt.dpa / 128) = mergeLine (byteMask (tgt.dpa % 128) 4) (rawLine t (tgt.dpa / 128))
        (bytesAt (tgt.dpa % 128) (leBytes 4 (sliceValue a.op 32 old x.toNat)))) ∧
  (∀ (s : State) (c : Nat) (r : RoleId) (a : Atom) (e n : Word) (k : BitVec 12) (x2 x3 : Word) (sl : Slice),
    roleExists s c r = true → (getRole s c r).block = some (.atomic a) → a.reply = none →
    a.op = .casc e n k x2 x3 → a.tgt.peer = none → atomReady s c r a.tgt a.id = true →
    let h := homeSlice a.tgt.dpa
    let q := requester c r
    let z := cascView (l1Purge s c a.tgt) h q k.toNat
    entryTab (slice (l1Purge s c a.tgt) h) q ≠ none ∨ ctabReason z.2 (Machine.core s c).xid = none →
    (admitReq (slice z.1 h) q z.2 = (sl, false) →
      exec (.sliceCasc c r) s =
        .next (countBusy (setAtom (setSlice z.1 h sl) c r { a with reply := some .busy }) c)) ∧
    (admitReq (slice z.1 h) q z.2 = (sl, true) → atomReady z.1 c r a.tgt a.id = true → templateHeld s z.2 = false →
      plainLine s (a.tgt.dpa / 128) →
      tabSorted s.deck = true → Memory.wf s.mem = true → a.tgt.dpa % 8 = 0 →
      let old := leNat (bytesFrom (rawLine s (a.tgt.dpa / 128)) (a.tgt.dpa % 128) 8)
      ∃ u y, exec (.sliceCasc c r) s = .next (setAtom (setSlice (casDirty u a old) h y) c r
          { a with reply := some (.old (BitVec.ofNat 64 old) 0) }) ∧
        rawLine u (a.tgt.dpa / 128) = (if old = e.toNat then mergeLine (byteMask (a.tgt.dpa % 128) 8)
          (rawLine s (a.tgt.dpa / 128)) (bytesAt (a.tgt.dpa % 128) (leBytes 8 n.toNat)) else rawLine s (a.tgt.dpa / 128)) ∧
        (old = e.toNat → ∃ l es, y.queue = es ++ [⟨q, z.2, some l⟩] ∧ l.cidx = k ∧
          l.old = BitVec.ofNat 64 old ∧ l.x2 = x2 ∧ l.x3 = x3))) ∧
  (∀ (s : State) (c : Nat) (r : RoleId) (a : Atom), roleExists s c r = true → (getRole s c r).fin = false →
    (getRole s c r).block = some (.atomic a) → a.reply = some .busy →
    exec (.cascRetry c r) s = .next (modRole s c r fun x =>
      { x with block := some (.atomic { a with reply := none, backoff := min (2 * a.backoff) 256 }) }))

/-- R325, R207: the reply of an amo, a cas or a casc completes its word: its operands are popped, the old value goes to
the destination with taint 0, and the flags are ORed in; a casc that was refused traps with CONT_INVALID. -/
def Sys2Proof.Claims.atomicReplies : Prop :=
  (∀ (s : State) (i : Instr) (m : Mark) (l : List G6) (rd : G6) (a : Atom) (v : Word) (fl : BitVec 5),
    (∃ op dbl ra rs, i = .amo m op dbl rd ra rs ∧ l = [ra, rs]) ∨ (∃ ra re rn, i = .cas m rd ra re rn ∧ l = [ra, re, rn]) ∨
      (∃ ra re rn k, i = .casc m rd ra re rn k ∧ l = [ra, re, rn]) →
    roleExists s s.cur.1 s.cur.2 = true → (getRole s s.cur.1 s.cur.2).block = some (.atomic a) →
    i.wf = true → a.site.word = (encode i).headD 0 → a.dest = destOf (.g rd) → a.reply = some (.old v fl) →
    let t := modRole s s.cur.1 s.cur.2 fun x => { x with block := none }
    exec (.atomicReply s.cur.1 s.cur.2) s = .next (finish s
      (orFlags (writeG s.cur.1 s.cur.2 (srcs s t l).1 rd ⟨v, false⟩) s.cur.1 s.cur.2 fl) m 1 .seq)) ∧
  (∀ (s : State) (c : Nat) (r : RoleId) (a : Atom) (k : BitVec 4) (e n : Word) (x : BitVec 12) (x2 x3 : Word),
    roleExists s c r = true → (getRole s c r).block = some (.atomic a) → a.op = .casc e n x x2 x3 →
    a.reply = some (.invalid k) →
    exec (.atomicReply c r) s = .next (takeTrap (modRole s c r fun y => { y with block := none }) c r a.site.word tCONT
      (BitVec.ofNat 64 (k.toNat * 4096 + x.toNat)))) ∧
  (∀ (s : State) (m : Mark) (op : SliceOp) (vd : V5) (rb : G6) (vi : V5) (sc : BitVec 2) (vs : V5) (g : Guard) (a : VAtom),
    let i : Instr := .vamo m op vd rb vi sc vs g
    roleExists s s.cur.1 s.cur.2 = true → (getRole s s.cur.1 s.cur.2).block = some (.vamo a) →
    i.wf = true → a.site.word = (encode i).headD 0 → a.dest = destOf (.v vd) → a.full = none → a.todo = [] →
    ∃ u, exec (.atomicReply s.cur.1 s.cur.2) s = .next (finish s (orFlags u s.cur.1 s.cur.2 a.fl) m 1 .seq) ∧
      (getRole u s.cur.1 s.cur.2).vstart = 0 ∧ ∃ v, newestV u s.cur.1 s.cur.2 vd = some v ∧
      ∀ k, k < 64 → lane v k = match a.done.find? fun e => e.1 == k with
        | some e => e.2
        | none => lane (keptV s vd) k)

/-- R123, R125, R207, R325: atomics leave their core and complete on their replies. -/
def Obligations.AtomicWords : Prop :=
  Claims.atomicsLeaveTheCore ∧ Claims.atomicReplies

/-! ## Home slices -/

/-- A line reads in t as it read in s; a clean Deck line that made room, or a tagged one that was dropped, reads as memory
holds it (R61, R176). -/
def Sys2Proof.Claims.sameLine (s t : State) (n : Nat) : Prop :=
  rawLine t n = rawLine s n ∨
    ∃ d, tabGet s.deck n = some d ∧ (d.dirty = false ∨ d.ver = true) ∧ tabGet t.deck n = none ∧ rawLine t n = hbmLine s n

/-- R120, R2: a write at a home slice to a line outside every block, range and mark of its own replaces the line's masked
bytes and no byte of another line; a read there answers the line's bytes and changes none. -/
def Obligations.MemoryKeepsWhatIsWritten : Prop :=
  (∀ (s : State) (pol : Policy) (full : Bool) (line : Nat) (mask : BitVec 128) (l : Line), plainLine s line →
    tabSorted s.deck = true → Memory.wf s.mem = true →
    ∃ t, sliceWrite s .loc pol full line mask l = .done t ∧
      (∀ k, k < 128 → lineByte (rawLine t line) k =
        if bit mask k then lineByte l k else lineByte (rawLine s line) k) ∧
      (∀ n, n ≠ line → sameLine s t n) ∧ Memory.wf t.mem = true ∧ tabSorted t.deck = true) ∧
  (∀ (s : State) (pol : Policy) (cv : Bool) (line off n : Nat), plainLine s line →
    tabSorted s.deck = true → Memory.wf s.mem = true →
    (sliceRead s pol cv line off n).2 = (rawLine s line, false) ∧
      ∀ k, sameLine s (sliceRead s pol cv line off n).1 k)

/-- R61, R66, R296: a part of a load takes its bytes of the line that the home slice answers, with the core's dirty bytes
over it where the L1 serves it, or asks its peer for them; poisoned bytes end
the context with DATA. R73, R75: an error met at a line is counted, and an uncorrectable one poisons its codeword. When
every part has its bytes, LOAD_DATA_RETURN writes the destination and drops the load. -/
def Sys2Proof.Claims.loadsInFlight : Prop :=
  (∀ (s : State) (c : Nat) (r : RoleId) (id part : Nat) (err : Option MemErr) (l : Load) (p : LoadPart),
    roleExists s c r = true →
    findLoad s c r id = some l → l.parts[part]? = some p → p.got = none →
    writeAhead (Machine.core s c) p.tgt = false → slicePast (Machine.core s c) r p.tgt id = false →
    partPast l part p.tgt = false →
    let near := usesL1 (Machine.core s c) p.tgt
    let off := if near then 0 else p.tgt.dpa % 128
    let n := if near then 128 else p.n
    let u := meetError s p.tgt.cv (p.tgt.dpa / 128) err
    let rd := sliceRead u (policyOf p.tgt) p.tgt.cv (p.tgt.dpa / 128) (p.tgt.dpa % 128) p.n
    (p.tgt.peer = none → lineHeld s (p.tgt.dpa / 128) = false → rd.2.2 = false →
      ∃ t l' q, exec (.homeSliceRead c r id part err) s = .next t ∧ findLoad t c r id = some l' ∧
        l'.parts[part]? = some q ∧ q.got = some (takenBytes (Machine.core s c) p rd.2.1) ∧ l'.dest = l.dest) ∧
    (p.tgt.peer = none → lineHeld s (p.tgt.dpa / 128) = false → rd.2.2 = true →
      exec (.homeSliceRead c r id part err) s = .next (siteFatal rd.1 c r { l.site with va := p.va } (fatalAt 0x44 1 0 p.tgt.dpa))) ∧
    (∀ d, p.tgt.peer = some d → p.tag = none →
      ∃ t o, exec (.homeSliceRead c r id part err) s = .next t ∧ t.peerOut = s.peerOut ++ [o] ∧ o.dev = d ∧
        o.port = routePort s d ∧ o.gn = curGen s ∧ o.who = .load c r id part ∧
        o.op = .read (BitVec.ofNat 44 (p.tgt.dpa / 128 * 128 + off)) n)) ∧
  (∀ (s : State) (c : Nat) (r : RoleId) (id : Nat) (l : Load) (p : LoadPart) (bs : List Byte), roleExists s c r = true →
    findLoad s c r id = some l → l.lanes = none → l.parts = [p] → p.off = 0 → p.got = some bs → bs.length = l.esz →
    1 ≤ l.esz → l.esz ≤ 8 →
    let v : Reg := ⟨loadedWord l.esz l.sx (leNat bs), l.taint⟩
    ∃ t, exec (.loadDataReturn c r id) s = .next t ∧ findLoad t c r id = none ∧
      (∀ n, l.dest = .g n → tabGet (getRole t c r).g n = some v) ∧
      (∀ n, l.dest = .q n → tabD (Machine.core t c).queues n [] = fillQ id v (tabD (Machine.core s c).queues n []))) ∧
  (∀ (s : State) (c : Nat) (r : RoleId) (id n k : Nat) (l : Load) (act : BitVec 64), roleExists s c r = true →
    findLoad s c r id = some l → loadReady l = true → l.lanes = some act → l.dest = .v n → k < 64 →
    1 ≤ l.esz → l.esz ≤ 4 →
    ∃ t, exec (.loadDataReturn c r id) s = .next t ∧ findLoad t c r id = none ∧
      (bit act k = false → lane (tabD (getRole t c r).v n 0) k = lane (tabD (getRole s c r).v n 0) k) ∧
      (bit act k = true → lane (tabD (getRole t c r).v n 0) k =
        (loadedWord l.esz l.sx (placeBytes (l.parts.map fun p => (p.off, p.got.getD [])) / 2 ^ (32 * k) %
          2 ^ (8 * l.esz))).setWidth 32)) ∧
  (∀ (s : State) (line : Nat) (e : MemErr), plainLine s line → 128 * line < 2 ^ 40 → tabGet s.deck line = none →
    let n := ctrlOf (128 * line)
    bit (reg s (rEhbase n)) 0 = false →
    let t := demandError s false line e
    rawLine t line = rawLine s line ∧ bits (reg t (rEhptr n)) 63 48 = min 0xFFFF (bits (reg s (rEhptr n)) 63 48 + 1) ∧
      lineBad t line = if e.correctable = true then 0 else twoFlags (!e.second) e.second)

/-- R120, R293, R294: a write that may be performed is performed where it is held: in scratch, in the L1, or in its line at
the home slice, which acknowledges it; one to a peer is sent to it. A precise write lets its role go on, or traps it with
SHADOW_FULL when it was refused. -/
def Sys2Proof.Claims.writesInFlight : Prop :=
  (∀ (s : State) (c id : Nat) (w : Write), coreExists s c = true → findWrite (Machine.core s c) id = some w →
    w.performed = false → writeReady (Machine.core s c) w = true →
    (w.place = .bank → exec (.homeSliceWrite c id) s = .next (dropWrite
      { s with mem := writeMasked w.w.mask s.mem (w.w.tgt.dpa / 128 * 128) 0 (lineBytes w.w.data) } c id)) ∧
    (w.place = .l1 → exec (.homeSliceWrite c id) s =
      .next (dropWrite (l1Store s c (firstRole w.roles) w.w.tgt w.w.mask w.w.data) c id)) ∧
    (w.place = .slice → w.w.tgt.peer = none → lineHeld s (w.w.tgt.dpa / 128) = false →
      plainLine s (w.w.tgt.dpa / 128) → tabSorted s.deck = true → Memory.wf s.mem = true →
      ∃ t, exec (.homeSliceWrite c id) s = .next t ∧
        (∀ k, k < 128 → lineByte (rawLine t (w.w.tgt.dpa / 128)) k =
          if bit w.w.mask k then lineByte w.w.data k else lineByte (rawLine s (w.w.tgt.dpa / 128)) k) ∧
        findWrite (Machine.core t c) id = some { w with performed := true }) ∧
    (∀ d, w.place = .slice → w.w.tgt.peer = some d → w.tag = none →
      ∃ t o, exec (.homeSliceWrite c id) s = .next t ∧ t.peerOut = s.peerOut ++ [o] ∧ o.dev = d ∧ o.gn = curGen s ∧
        o.op = .write (BitVec.ofNat 44 w.w.tgt.dpa) w.w.mask w.w.data ∧ o.who = .write c id)) ∧
  (∀ (s : State) (c id : Nat) (w : Write), coreExists s c = true → findWrite (Machine.core s c) id = some w →
    w.performed = true →
    (w.precise = false → w.refused = none → exec (.writeAcknowledge c id) s = .next (dropWrite s c id)) ∧
    (∀ next, w.precise = true → w.refused = none →
      (getRole s c (firstRole w.roles)).block = some (.stores id next) →
      ∃ t, exec (.writeAcknowledge c id) s = .next t ∧ (getRole t c (firstRole w.roles)).block = none ∧
        stage c (firstRole w.roles) t = next + 1 ∧ findWrite (Machine.core t c) id = none) ∧
    (∀ next v, w.precise = true → w.refused = some v →
      (getRole s c (firstRole w.roles)).block = some (.stores id next) →
      exec (.writeAcknowledge c id) s = .next (takeTrap (modRole (dropWrite s c id) c (firstRole w.roles) fun x =>
        { x with block := none, vstart := if (opOf w.site.word).toNat = 0x46 ∨ (opOf w.site.word).toNat = 0x48 then BitVec.ofNat 6 w.lane
            else x.vstart })
        c (firstRole w.roles) w.site.word tSHADOW (putBits v 5 0 w.lane)))) ∧
  (∀ (s : State) (sl : Nat), sl < 256 → 2 ^ 20 ≤ (slice s sl).misses →
    ∃ t, exec (.secondTouchFilterClear sl) s = .next t ∧ (slice t sl).fbits = [] ∧ (slice t sl).misses = 0)

/-- R61, R66, R120, R293, R294, R296: the loads and the writes that a core has in flight. -/
def Obligations.AccessesInFlight : Prop :=
  Claims.loadsInFlight ∧ Claims.writesInFlight

/-! ## Address spaces -/

/-- R28, R29, R30, R50: where an access of n bytes at an offset of the near window lands: the core's own pool, a core of
its cluster, or a carve-out; a pool access needs its bytes in scratch, a carve-out access below the carved size; any other
offset is refused with WINDOW. -/
def Sys2Proof.Claims.nearWindowSlots : Prop :=
  ∀ (s : State) (c o n : Nat) (want : Want) (user dirty : Bool), want ≠ .fetch → coreExists s c = true → c < 960 →
    0 < n → n ≤ 128 →
    (∀ b, o = b → b < 0x200000 → bnd0 (Machine.core s c) ≤ b → b + n ≤ bnd1 (Machine.core s c) →
      coreLoc s c want user false dirty (NW + o) n = .ok (s, .pool (poolBase c + b))) ∧
    (∀ j b, j < 48 → b < 0x200000 → o = 0x10000000 + j * 0x200000 + b →
      let d := 48 * (c / 48) + j
      coreExists s d = true → bnd0 (Machine.core s d) ≤ b → b + n ≤ bnd1 (Machine.core s d) →
      coreLoc s c want user false dirty (NW + o) n = .ok (s, .pool (poolBase d + b))) ∧
    (∀ b, b < 0x40000000 → o = 0x40000000 + b → b + n ≤ carveLimit s (dieOf c) →
      coreLoc s c want user false dirty (NW + o) n = .ok (s, .dev (carveTarget (dieOf c) b) none)) ∧
    (∀ d b, d < 4 → b < 0x40000000 → o = 0x80000000 + d * 0x40000000 + b → b + n ≤ carveLimit s d →
      coreLoc s c want user false dirty (NW + o) n = .ok (s, .dev (carveTarget d b) none)) ∧
    ((o < 0x200000 → o < bnd0 (Machine.core s c) ∨ bnd1 (Machine.core s c) < o + n) → o < 0x10000000 →
      coreLoc s c want user false dirty (NW + o) n = .error .window) ∧
    (0x16000000 ≤ o → o < 0x40000000 → coreLoc s c want user false dirty (NW + o) n = .error .window) ∧
    (0x180000000 ≤ o → coreLoc s c want user false dirty (NW + o) n = .error .window)

/-- R34, R36, R37, R39: a walk ends with detail 1 at an entry that is not valid; a leaf refuses a read, a write, a fetch or
a user access that its bits do not permit with detail 2; a page that its leaf permits translates to the leaf's frame with
the address's offset, and an access sets A, and a write D, in the leaf. A walk waits at an entry that its slice holds, and
fails with DATA at one in a poisoned codeword (R73, R121). -/
def Sys2Proof.Claims.pageWalk : Prop :=
  (∀ (s : State) (va fuel b lptr : Nat) (e : Word), bit e 0 = false →
    walk s va (fuel + 1) b e lptr = .error (.xlate 1 0)) ∧
  (∀ (s : State) (va fuel b lptr psz : Nat) (e : Word), bit e 0 = true → bit e 1 = true →
    leafSize b (bits e 3 2) = some psz → bits e 15 14 ≠ 3 →
    walk s va (fuel + 1) b e lptr = .ok ⟨e, lptr, psz, bits e 51 20 * 4096 / psz * psz + va % psz⟩) ∧
  (∀ (s : State) (va fuel b lptr : Nat) (e : Word), bit e 0 = true → bit e 1 = false → bits e 63 52 = 0 →
    bits e 19 4 = 0 → bits e 3 2 ≤ 1 → (bits e 3 2 = 1 → bits e 51 20 % 512 = 0) →
    let w := if bits e 3 2 = 0 then 9 else 18
    let base := bits e 51 20 * 4096
    let a := base + 8 * (va / 2 ^ (b - w) % 2 ^ w)
    w + 12 ≤ b → hasMem s base = true →
    walk s va (fuel + 1) b e lptr = if lineHeld s (a / 128) then .error .held else if entryBad s a then .error (.data a)
      else walk s va fuel (b - w) (entryWord s a) a) ∧
  (∀ (s : State) (leaf : Word) (dpa : Nat) (want : Want) (user : Bool),
    bits leaf 63 52 = devid s → bit leaf 13 = false →
    (want = .read ∧ bit leaf 4 = false) ∨ (want = .write ∧ bit leaf 5 = false) ∨
      (want = .both ∧ (bit leaf 4 = false ∨ bit leaf 5 = false)) ∨ (want = .fetch ∧ bit leaf 6 = false) ∨
      (user = true ∧ bit leaf 7 = false) →
    leafCheck s leaf dpa want user = some (.xlate 2 dpa)) ∧
  (∀ (s : State) (u : XUnit) (want : Want) (user dirty : Bool) (va : Nat) (f : Found), lookup s u va = .ok f →
    leafCheck s f.leaf f.dpa want user = none → tlbFind u.tlb u.xid va = none →
    entryHeld s f.lptr = false → entryBad s f.lptr = false →
    let need : Word := (if bit f.leaf 9 then 0 else 0x200) ||| if dirty && !bit f.leaf 10 then 0x400 else 0
    ∃ t tlb, translate s u want user false dirty va = .ok (t, tlb, leafTarget s f.leaf f.dpa, some f.lptr) ∧
      (bit f.leaf 9 = true → (dirty = false ∨ bit f.leaf 10 = true) → t = s) ∧
      (bit f.leaf 9 = false ∨ (dirty = true ∧ bit f.leaf 10 = false) →
        t = orEntry s f.lptr need) ∧
      ∃ e, tlb.head? = some e ∧ e.xid = u.xid ∧ e.page = va / granule f.psz * granule f.psz ∧
        (need = 0 ∨ orTakes s f.lptr need = true → bit e.leaf 9 = true ∧ (dirty = true → bit e.leaf 10 = true))) ∧
  (∀ (s : State) (u : XUnit) (want : Want) (user dirty spec : Bool) (va : Nat) (e : XErr), lookup s u va = .error e →
    translate s u want user spec dirty va = .error e)

/-- R28 to R39, R50: the near window and the page walk. -/
def Obligations.AddressSpaces : Prop :=
  Claims.nearWindowSlots ∧ Claims.pageWalk

/-! ## Snapshots -/

/-- TVAL of SNAPCONF (R167): its reason and context. -/
def Sys2Proof.Claims.snapVal (reason ctx : Nat) : Word := BitVec.ofNat 64 (16 * reason + ctx)

/-- R164, R165, R166, R167: snopen of a range that passes its checks opens the next level of its context, once the role's
release and the L1s' write-backs are done, and answers 4c + k, k counting from 0; it traps with SNAPCONF and the reason of the first check
that fails. snacc and snrej close the level that their token names and mark it at every slice. snq answers the context's
depth, VER bit, owner and shadows. -/
def Sys2Proof.Claims.snapshotWords : Prop :=
  (∀ (s : State) (m : Mark) (rd ra rb rc : G6) (p : SnPlan),
    ready s (.snopen m rd ra rb rc) m 1 = true → usable s [.g ra, .g rb, .g rc] (.g rd) = true →
    let a := src s s ra
    let b := src s a.1 rb
    let x := src s b.1 rc
    let c := s.cur.1
    let k := x.2.val.toNat
    (stage c s.cur.2 s = 0 → snapBusy s c s.cur.2 = false →
      snopenCheck s c (!systemMode s c s.cur.2) (a.2.val.toNat % 2 ^ 57) b.2.val.toNat k = .ok p →
      relReady s c s.cur.2 .dev = true → pagesHeld s p.pages = false →
      ∃ u f, exec (.snopen m rd ra rb rc) s = .next u ∧ stage c s.cur.2 u = 1 ∧ u.snap = s.snap ∧
        u.snFlight = some f ∧ ownFlight u c s.cur.2 = some f ∧ f.act = .opening k p.level ∧
        f.xid = (Machine.core s c).xid ∧ p.level.base = a.2.val.toNat % 2 ^ 57 ∧ p.level.len = b.2.val.toNat) ∧
    (∀ f v, stage c s.cur.2 s ≠ 0 → ownFlight s c s.cur.2 = some f → f.act = .opening k v → f.core = c →
      f.role = s.cur.2 → unacked (Machine.core s c) s.cur.2 .dev f.bound = false →
      let t := purgeRun x.1 v.dpa v.len
      runDirty t v.dpa v.len = false → levelPending t k (snDepth s k + 1) = false →
      ∃ u, exec (.snopen m rd ra rb rc) s = .next (finishG s u m rd ⟨BitVec.ofNat 64 (4 * k + snDepth s k), false⟩ .seq) ∧
        (snCtx u k).levels = (snCtx s k).levels ++ [v] ∧ u.snFlight = none ∧
        (snDepth s k = 0 → (snCtx u k).owner = f.xid))) ∧
  (∀ (s : State) (c : Nat) (user : Bool) (b n x : Nat),
    let stop := fun (reason ctx : Nat) =>
      (snopenCheck s c user b n x : Except Stop SnPlan) = .error (.trap 11 (snapVal reason ctx))
    (15 < x → stop 6 0) ∧
    (x ≤ 15 → b % 4096 ≠ 0 ∨ n % 4096 ≠ 0 ∨ n = 0 ∨ 2 ^ 36 < n ∨ NW < b + n → stop 1 x) ∧
    (x ≤ 15 → b % 4096 = 0 → n % 4096 = 0 → n ≠ 0 → n ≤ 2 ^ 36 → b + n ≤ NW →
      (notOwner s c x = true → stop 7 x) ∧
      (notOwner s c x = false → snDepth s x = 4 → stop 5 x) ∧
      (notOwner s c x = false → snDepth s x ≠ 4 →
        (∀ l, (snCtx s x).levels.getLast? = some l → ¬(l.base ≤ b ∧ b + n ≤ l.base + l.len) → stop 2 x) ∧
        ((∀ l, (snCtx s x).levels.getLast? = some l → l.base ≤ b ∧ b + n ≤ l.base + l.len) →
          ∀ ps, rangeWalk s c user b n = .ok ps →
          let d := (ps.head?.map fun p => p.1.2.2.1).getD 0
          (contiguous d ps = false → stop 4 x) ∧
          (contiguous d ps = true → (ps.any fun p => p.2.cmp) = true → stop 3 x) ∧
          (contiguous d ps = true → (ps.any fun p => p.2.cmp) = false → overlapsOther s d n x = true → stop 9 x))))) ∧
  (∀ (s : State) (i : Instr) (m : Mark) (ra : G6) (rej : Bool),
    (i = .snacc m ra ∧ rej = false) ∨ (i = .snrej m ra ∧ rej = true) → ready s i m 1 = true →
    usable s [.g ra] .none = true →
    let a := src s s ra
    let x := bits a.2.val 5 2
    let c := s.cur.1
    (stage c s.cur.2 s = 0 → snapBusy s c s.cur.2 = false → bits a.2.val 63 6 = 0 → notOwner s c x = false →
      snDepth s x = bits a.2.val 1 0 + 1 → relReady s c s.cur.2 .dev = true →
      ∃ u f, exec i s = .next u ∧ stage c s.cur.2 u = 1 ∧ u.snap = s.snap ∧ u.snFlight = some f ∧
        ownFlight u c s.cur.2 = some f ∧ f.act = .ending x rej) ∧
    (∀ f, stage c s.cur.2 s ≠ 0 → ownFlight s c s.cur.2 = some f → f.act = .ending x rej → f.core = c →
      f.role = s.cur.2 → unacked (Machine.core s c) s.cur.2 .dev f.bound = false →
      ∃ u, exec i s = .next (finish s u m 1 .seq) ∧ (snCtx u x).levels = (snCtx s x).levels.dropLast ∧
        u.marks = s.marks ++ [{ num := s.markNo + 1, ctx := x, lvl := snDepth s x, rej := rej }])) ∧
  (∀ (s : State) (m : Mark) (rd ra : G6), ready s (.snq m rd ra) m 1 = true → usable s [.g ra] (.g rd) = true →
    let a := src s s ra
    let x := a.2.val.toNat
    (15 < x → exec (.snq m rd ra) s = .next (takeTrap s s.cur.1 s.cur.2 ((encode (.snq m rd ra)).headD 0) 11
      (snapVal 6 0))) ∧
    (x ≤ 15 → ∃ w, exec (.snq m rd ra) s = .next (finishG s a.1 m rd ⟨w, false⟩ .seq) ∧
      (snDepth s x ≤ 4 → bits w 2 0 = snDepth s x ∧ bit w 3 = (snCtx s x).levels.any (·.ver) ∧ bits w 15 4 = 0 ∧
        bits w 31 16 = (if snDepth s x = 0 then 0 else (snCtx s x).owner.toNat) ∧
        bits w 55 32 = ctxShadows s x % 2 ^ 24 ∧ bits w 63 56 = 0)))

/-- A line that plain memory holds, but for snapshots: no block of its own, no poison, no Deck line of an aborted
generation; its metadata word, if it has one, is in its controller's cache. -/
def Sys2Proof.Claims.plainButSnaps (s : State) (line : Nat) : Prop :=
  metaOf s (128 * line) = 0 ∧ metaOf s (128 * line / 2048 * 2048) = 0 ∧
    (∀ a, metaAddr s (128 * line) = some a → (tabGet s.mdCache (mdKey (128 * line) a)).isSome = true) ∧ s.poison = [] ∧
    s.ks.abw = [] ∧ ∀ d, tabGet s.deck line = some d → d.ver = false ∧ d.bad = 0

/-- R151, R152, R156, R161: the first write to a line at the innermost level of its context takes a shadow of the line as
it stood; with no room for one the write is refused and nothing is written; a level that is rejected puts its shadow's
image back when the line is next touched or the walker comes to it, and one that is accepted at depth 1 drops it. -/
def Sys2Proof.Claims.snapshotLines : Prop :=
  (∀ (s : State) (pol : Policy) (line c l : Nat) (mask : BitVec 128) (x : Line), plainButSnaps s line → s.marks = [] →
    tabSorted s.deck = true → Memory.wf s.mem = true → needsShadow s line = some (c, l) → c < 16 → l ≤ 4 →
    (shadowCount s (homeSlice (128 * line)) < shadowCap s (homeSlice (128 * line)) →
      ∃ t y, sliceWrite s .loc pol false line mask x = .done t ∧ t.shadows = s.shadows ++ [y] ∧ y.line = line ∧
        y.ctx = c ∧ y.lvl = l ∧ y.image = rawLine s line ∧
        ∀ k, k < 128 → lineByte (rawLine t line) k = if bit mask k then lineByte x k else lineByte (rawLine s line) k) ∧
    (shadowCap s (homeSlice (128 * line)) ≤ shadowCount s (homeSlice (128 * line)) →
      ∃ t, sliceWrite s .loc pol false line mask x = .full t (BitVec.ofNat 64
        (homeSlice (128 * line) * 2 ^ 16 + (4 * c + (l - 1)) * 2 ^ 10)) ∧ t.mem = s.mem ∧ t.deck = s.deck)) ∧
  (∀ (s : State) (d line c : Nat) (x : Shadow) (m : SnMark), plainButSnaps s line → tabSorted s.deck = true →
    Memory.wf s.mem = true → d < 4 → s.snFlight = none → s.shadows = [x] → x.line = line → x.ctx = c → x.tag = none → x.bad = 0 →
    s.marks = [m] → m.ctx = c → m.lvl = x.lvl → x.stamp < m.num → homeDie (128 * line) = d →
    ∃ t, exec (.deckWalkerEntry d) s = .next t ∧
      (m.rej = true → t.shadows = [] ∧ t.marks = [] ∧ rawLine t line = x.image) ∧
      (m.rej = false → x.lvl = 1 → t.shadows = [] ∧ t.marks = [] ∧ rawLine t line = rawLine s line) ∧
      (m.rej = false → 2 ≤ x.lvl → t.shadows = [{ x with lvl := x.lvl - 1, stamp := m.num }] ∧ t.marks = [] ∧
        rawLine t line = rawLine s line))

/-- R151 to R167: the snapshot words, and what a snapshot does to a line. -/
def Obligations.SnapshotWordsAndLines : Prop :=
  Claims.snapshotWords ∧ Claims.snapshotLines

/-! ## Steps -/

/-- The generation that Keystone has open; 0 in IDLE (R188, R191). -/
def Sys2Proof.Claims.openGeneration (k : Keystone) : Nat := if k.state = .idle then 0 else k.geno.toNat

/-- The generation for which the acting role's vwait waits: the one for which it waits already, else VGEN, else the open one. -/
def Sys2Proof.Claims.awaitedGeneration (s : State) : Nat :=
  let x := getRole s s.cur.1 s.cur.2
  match x.why with
  | some (.vwait w) => w.toNat
  | _ => if x.vgen.toNat = 0 then openGeneration s.ks else x.vgen.toNat

/-- R188 to R191: vote, once its release has settled, counts at Keystone in OPEN and HELD while votes are due, with its
flags and the core's overflow, and is late otherwise; VGEN takes the open generation. vwait goes on once the decision of
the generation it began to wait for, or a later one, is done, answers LASTDEC with STALE, and VGEN returns to 0. vflag ORs its flags; gen
reads the step state. -/
def Obligations.StepWords : Prop :=
  (∀ (s : State) (m : Mark) (ra : G6), ready s (.vote m ra) m 1 = true → usable s [.g ra] .none = true →
    isSystem s.cur.1 = false → voteLinked s s.cur.1 = true →
    (stage s.cur.1 s.cur.2 s = 0 → relReady s s.cur.1 s.cur.2 .sys = true →
      ∃ u, exec (.vote m ra) s = .next u ∧ stage s.cur.1 s.cur.2 u = 1 ∧ u.ks = s.ks) ∧
    (stage s.cur.1 s.cur.2 s ≠ 0 → relSettled s s.cur.1 s.cur.2 = true →
      coreWrites s s.cur.1 (getRole s s.cur.1 s.cur.2).relSys = false →
      let f : BitVec 8 := ((src s s ra).2.val.setWidth 8 &&& 0x82) ||| if coreOvf s s.cur.1 then 1 else 0
      ∃ u, exec (.vote m ra) s = .next (finish s u m 1 .seq) ∧
        (getRole u s.cur.1 s.cur.2).vgen.toNat = openGeneration s.ks ∧ u.ks.state = s.ks.state ∧
        ((s.ks.state = .open_ ∨ s.ks.state = .held) ∧ s.ks.votes.toNat < bits s.ks.cfg 11 0 →
          u.ks.lflags = s.ks.lflags ||| f ∧ u.ks.votes = s.ks.votes + 1 ∧ u.ks.late = s.ks.late) ∧
        (¬((s.ks.state = .open_ ∨ s.ks.state = .held) ∧ s.ks.votes.toNat < bits s.ks.cfg 11 0) →
          u.ks.votes = s.ks.votes ∧ u.ks.lflags = s.ks.lflags ∧ u.ks.late.toNat = min 0xFFF (s.ks.late.toNat + 1) ∧
          (s.ks.state = .voted → u.ks.nflags = s.ks.nflags ||| f) ∧ (s.ks.state ≠ .voted → u.ks.nflags = s.ks.nflags)))) ∧
  (∀ (s : State) (m : Mark) (ra : G6), ready s (.vote m ra) m 1 = true → usable s [.g ra] .none = true →
    isSystem s.cur.1 = true ∨ voteLinked s s.cur.1 = false →
    exec (.vote m ra) s = .next (takeTrap s s.cur.1 s.cur.2 ((encode (.vote m ra)).headD 0) tILLEGAL
      ((encode (.vote m ra)).headD 0))) ∧
  (∀ (s : State) (m : Mark) (rd : G6), ready s (.vwait m rd) m 1 = true → usable s [] (.g rd) = true →
    let v := (getRole s s.cur.1 s.cur.2).vgen.toNat
    let g := awaitedGeneration s
    let done := g = 0 ∨ (bit s.ks.lastdec 2 = true ∧ (g ≤ bits s.ks.lastdec 63 16 ∨ s.ks.state = .idle))
    (done → acqReady s s.cur.1 s.cur.2 .sys = true →
      ∃ u w, exec (.vwait m rd) s = .next (finish s (modRole (acquire u s.cur.1 .sys) s.cur.1 s.cur.2 fun x =>
          { x with vgen := 0 }) m 1 .seq) ∧ u = writeG s.cur.1 s.cur.2 s rd ⟨w, false⟩ ∧
        bit w 1 = decide (g ≠ 0 ∧ bits s.ks.lastdec 63 16 ≠ g) ∧ ∀ k, k < 64 → k ≠ 1 → bit w k = bit s.ks.lastdec k) ∧
    (¬done → ∃ u w, exec (.vwait m rd) s = .next u ∧ (getRole u s.cur.1 s.cur.2).vgen.toNat = v ∧
      (getRole u s.cur.1 s.cur.2).why = some (.vwait w) ∧ w.toNat = g ∧
      (getRole u s.cur.1 s.cur.2).pc = (getRole s s.cur.1 s.cur.2).pc)) ∧
  (∀ (s : State) (m : Mark) (loss sw : Bool), ready s (.vflag m loss sw) m 1 = true →
    let f : BitVec 8 := (if loss then 0x02 else 0) ||| if sw then 0x80 else 0
    ∃ u, exec (.vflag m loss sw) s = .next (finish s u m 1 .seq) ∧
      (s.ks.state = .idle → u = s) ∧
      (s.ks.state = .voted → u = { s with ks := { s.ks with nflags := s.ks.nflags ||| f } }) ∧
      (s.ks.state = .open_ ∨ s.ks.state = .held → u = { s with ks := { s.ks with lflags := s.ks.lflags ||| f } })) ∧
  (∀ (s : State) (m : Mark) (rd : G6) (sel : BitVec 2), ready s (.gen m rd sel) m 1 = true →
    usable s [] (.g rd) = true →
    ∃ w, exec (.gen m rd sel) s = .next (finishG s s m rd ⟨w, false⟩ .seq) ∧
      (sel = 0 → w.toNat = s.ks.geno.toNat) ∧ (sel = 1 → w.toNat = s.ks.genc.toNat) ∧ (sel = 3 → w = s.ks.lastdec) ∧
      (sel = 2 → bits w 63 62 = (match s.ks.state with | .idle => 0 | .open_ => 1 | .voted => 2 | .held => 3) ∧
        bit w 61 = s.ks.err ∧ bit w 60 = s.ks.proto ∧ bit w 59 = s.ks.stopreq ∧ bits w 57 54 = s.ks.miss.toNat ∧
        bits w 53 50 = s.ks.dackw.toNat ∧ bits w 49 42 = s.ks.lflags.toNat ∧ bits w 41 34 = s.ks.nflags.toNat ∧
        bits w 23 12 = s.ks.votes.toNat ∧ bits w 11 0 = s.ks.late.toNat))

/-- A tree message came from the parent's port (R184). -/
abbrev Sys2Proof.Claims.parentPort (k : Keystone) (p : Nat) : Prop := bit k.cfg 63 = false ∧ bits k.cfg 59 56 = p

/-- A decision of `commit` on the open generation has been taken by Keystone (R177, R184): GEN.C on a commit, an
abort-window entry on an abort, LASTDEC with DONE 0, and the next generation opened or the tree closed. -/
def Sys2Proof.Claims.decisionTaken (k l : Keystone) (commit : Bool) (gn next : BitVec 48) (fl : BitVec 8) : Prop :=
  (commit = true → l.genc = k.geno ∧ l.abw = k.abw) ∧
    (commit = false → l.genc = k.genc ∧ ((∃ i, i < 8 ∧ tabGet k.abw i = none) →
      ∃ i, tabGet k.abw i = none ∧ l.abw = tabSet k.abw i k.geno)) ∧
    bits l.lastdec 63 16 = gn.toNat ∧ bits l.lastdec 15 8 = fl.toNat ∧ bit l.lastdec 2 = false ∧
    bit l.lastdec 0 = commit ∧ l.owed = true ∧
    (next = 0 → l.state = .idle ∧ l.geno = k.geno) ∧
    (next ≠ 0 → l.state = .held ∧ l.geno = next ∧ l.votes = 0 ∧ l.lflags = k.nflags ∧ l.nflags = 0)

/-- R181, R182, R184, R186, R187, R178: each row of Keystone's state table, for START, STOP, LOCALABORT, KSCFG, the vote
that forms, the root's decision, and each tree message: the message at the port it must come from takes its effect, and
one at another port is discarded with PROTO. What a device sends waits at its port until that is UP, and nothing is taken
at a port that is not (R436). A repair pass and ABW_RETIRE clear an abort-window entry. -/
def Obligations.KeystoneTransitions : Prop :=
  (∀ (s : State) (k : Keystone),
    let up : TreeMsg → Bool := fun m => portUp s (treePort m)
    setKs s k = { s with ks := { k with out := k.out ++ k.held.filter up, held := k.held.filter fun m => !up m } }) ∧
  (∀ (s : State) (i : Instr) (p : Nat), portUp s p = false →
    (∃ gn fl dev, i = .voteMessage p gn fl dev) ∨ (∃ o gn next fl, i = .decideMessage p o gn next fl) ∨
      (∃ next dev, i = .dack p next dev) ∨ (∃ next, i = .openMessage p next) →
    exec i s = .next s) ∧
  (∀ (s : State) (x : Word), ∃ k, exec (.start x) s = .next (setKs s k) ∧
    (bit s.ks.cfg 63 = true ∧ s.ks.state = .idle ∧ s.ks.geno.toNat < bits x 47 0 ∧ s.ks.genc.toNat < bits x 47 0 ∧
        (∀ e, e ∈ s.ks.abw → e.2.toNat < bits x 47 0) →
      k.state = .held ∧ k.geno.toNat = bits x 47 0 ∧ k.votes = 0 ∧ k.lflags = 0 ∧ k.lastdec = 0 ∧ k.owed = true) ∧
    (bit s.ks.cfg 63 = false ∨ s.ks.state ≠ .idle ∨ bits x 47 0 ≤ s.ks.geno.toNat ∨ bits x 47 0 ≤ s.ks.genc.toNat →
      k = { s.ks with err := true })) ∧
  (∀ (s : State), ∃ k, exec .stop s = .next (setKs s k) ∧
    (bit s.ks.cfg 63 = true ∧ s.ks.state ≠ .idle → k = { s.ks with stopreq := true }) ∧
    (bit s.ks.cfg 63 = false ∨ s.ks.state = .idle → k = { s.ks with err := true })) ∧
  (∀ (s : State), ∃ k, exec .localAbort s = .next (setKs s k) ∧
    (s.ks.state = .idle ∨ (∀ i, i < 8 → (tabGet s.ks.abw i).isSome = true) → k = { s.ks with err := true }) ∧
    (s.ks.state ≠ .idle → (∃ i, i < 8 ∧ tabGet s.ks.abw i = none) →
      k.state = .idle ∧ bits k.lastdec 63 16 = s.ks.geno.toNat ∧ bit k.lastdec 2 = true ∧ bit k.lastdec 0 = false ∧
      k.owed = false ∧ ∃ i, tabGet s.ks.abw i = none ∧ k.abw = tabSet s.ks.abw i s.ks.geno)) ∧
  (∀ (s : State) (x : Word), ∃ k, exec (.kscfgWrite x) s = .next (setKs s k) ∧
    (s.ks.state = .idle → kscfgBad (x &&& kscfgMask) = false → k.cfg = x &&& kscfgMask) ∧
    (kscfgBad (x &&& kscfgMask) = true → k = { s.ks with err := true })) ∧
  (∀ (s : State), s.ks.state = .open_ →
    (s.ks.votes.toNat = bits s.ks.cfg 11 0 ∧ (∀ j, j < 4 → bit s.ks.cfg (52 + j) = true → (tabGet s.ks.childVotes j).isSome = true) ∧
      verPending s = false ∧ sspOn s = false →
      ∃ k, exec .voteFormed s = .next (setKs s k) ∧
        let fl := s.ks.childVotes.foldl (fun f e => f ||| e.2) (s.ks.lflags ||| snapFlag s)
        let next : BitVec 48 := if s.ks.stopreq = true ∨ s.ks.geno = BitVec.allOnes 48 then 0 else s.ks.geno + 1
        (bit s.ks.cfg 63 = true → decisionTaken s.ks k (decide (fl = 0)) s.ks.geno next fl) ∧
        (bit s.ks.cfg 63 = false → k.state = .voted ∧
          k.held = s.ks.held ++ [.vote (bits s.ks.cfg 59 56) s.ks.geno fl (BitVec.ofNat 12 (devid s))])) ∧
    (s.ks.votes.toNat ≠ bits s.ks.cfg 11 0 → exec .voteFormed s = .next s) ∧
    (s.ks.timer = true → bits s.ks.cfg 31 16 ≠ 0 → bit s.ks.cfg 63 = false → sspOn s = false →
      ∃ k fl, exec .voteTimeout s = .next (setKs s k) ∧ k.state = .voted ∧ bit fl 6 = true ∧
        k.held = s.ks.held ++ [.vote (bits s.ks.cfg 59 56) s.ks.geno fl (BitVec.ofNat 12 (devid s))])) ∧
  (∀ (s : State) (p : Nat) (gn : BitVec 48) (fl : BitVec 8) (dev : BitVec 12), p < 12 → portUp s p = true →
    ∃ k, exec (.voteMessage p gn fl dev) s = .next (setKs s k) ∧
      ((∀ j, j < 4 → bit s.ks.cfg (52 + j) = true → bits s.ks.cfg (39 + 4 * j) (36 + 4 * j) ≠ p) →
        k = { s.ks with proto := true }) ∧
      (∀ j, j < 4 → bit s.ks.cfg (52 + j) = true → bits s.ks.cfg (39 + 4 * j) (36 + 4 * j) = p →
        (∀ i, i < j → bit s.ks.cfg (52 + i) = true → bits s.ks.cfg (39 + 4 * i) (36 + 4 * i) ≠ p) →
        (gn = s.ks.geno → s.ks.state = .open_ → tabGet s.ks.childVotes j = none →
          k = { s.ks with childVotes := tabSet s.ks.childVotes j fl }) ∧
        (gn ≠ s.ks.geno ∨ s.ks.state = .voted → k = { s.ks with late := BitVec.ofNat 12 (min 0xFFF (s.ks.late.toNat + 1)) }))) ∧
  (∀ (s : State) (p : Nat) (out : TreeOut) (gn next : BitVec 48) (fl : BitVec 8), p < 12 → portUp s p = true →
    ∃ k, exec (.decideMessage p out gn next fl) s = .next (setKs s k) ∧
      (¬parentPort s.ks p → k = { s.ks with proto := true }) ∧
      (parentPort s.ks p → s.ks.state = .voted → out = .commit ∨ out = .abort →
        decisionTaken s.ks k (decide (out = .commit)) gn next fl) ∧
      (parentPort s.ks p → s.ks.state = .idle → out = .start → k.state = .held ∧ k.geno = next ∧ k.owed = true) ∧
      (parentPort s.ks p → s.ks.state = .open_ ∨ s.ks.state = .held → k = { s.ks with proto := true })) ∧
  (∀ (s : State) (p : Nat) (next : BitVec 48) (dev : BitVec 12), p < 12 → portUp s p = true →
    ∃ k, exec (.dack p next dev) s = .next (setKs s k) ∧
      ((∀ j, j < 4 → bit s.ks.cfg (52 + j) = true → bits s.ks.cfg (39 + 4 * j) (36 + 4 * j) ≠ p) →
        k = { s.ks with proto := true }) ∧
      (∀ j, childAt s.ks p = some j → bit s.ks.dackw j = true → next = s.ks.next → j < 4 →
        ∀ i, i < 4 → bit k.dackw i = (bit s.ks.dackw i && decide (i ≠ j)))) ∧
  (∀ (s : State), s.ks.owed = true → s.ks.state = .held ∨ s.ks.state = .idle → s.ks.dackw = 0 →
    s.ks.next = 0 ∨ s.ks.abw.length ≤ 7 →
    ∃ k, exec .dackSend s = .next (setKs s k) ∧ k.owed = false ∧
      (bit s.ks.cfg 63 = false → k.state = s.ks.state ∧
        k.held = s.ks.held ++ [.dack (bits s.ks.cfg 59 56) s.ks.next (BitVec.ofNat 12 (devid s))]) ∧
      (bit s.ks.cfg 63 = true → bit k.lastdec 2 = true ∧ (s.ks.state = .held → k.state = .open_ ∧ k.timer = true))) ∧
  (∀ (s : State) (p : Nat) (next : BitVec 48), p < 12 → portUp s p = true →
    ∃ k, exec (.openMessage p next) s = .next (setKs s k) ∧
      (¬parentPort s.ks p → k = { s.ks with proto := true }) ∧
      (parentPort s.ks p → s.ks.state = .held → k.state = .open_ ∧ bit k.lastdec 2 = true ∧ k.timer = true) ∧
      (parentPort s.ks p → s.ks.state = .idle → next = 0 → k.state = .idle ∧ bit k.lastdec 2 = true) ∧
      (parentPort s.ks p → s.ks.state = .voted → k = { s.ks with proto := true })) ∧
  (∀ (s : State) (n : Nat), n < 8 → bit (reg s (rMdbase n)) 0 = false →
    ∃ t, exec (.repairPass n) s = .next t ∧ t.mem = s.mem ∧
      ∀ i, (tabGet s.ks.abw i).isSome = true → tabSorted s.ks.abw = true → n ∈ tabD t.ks.repaired i []) ∧
  (∀ (s : State) (k : Nat) (g : BitVec 48), k < 8 → tabGet s.ks.abw k = some g → tabSorted s.ks.abw = true →
    (∀ n, n < 8 → n ∈ tabD s.ks.repaired k []) → (∀ x, x ∈ s.shadows → x.tag ≠ some (BitVec.ofNat 8 g.toNat)) →
    ∃ t, exec (.abwRetire k) s = .next t ∧ tabGet t.ks.abw k = none ∧ t.mem = s.mem)

/-! ## Device registers -/

/-- R27, R33, R41: XID_WRITE loads a core's, or the host window's, XID and its root entry from the table at XROOT; a
write that names no such unit does nothing. -/
def Sys2Proof.Claims.xidRegisters : Prop :=
  (∀ (s : State) (u : Nat) (x : Word), coreExists s u = true →
    ∃ t, exec (.xidWrite u x) s = .next t ∧ (Machine.core t u).xid.toNat = x.toNat % 2 ^ 16 ∧
      (Machine.core t u).root = entryWord s (bits (reg s 0x101) 43 19 * 2 ^ 19 + 8 * (x.toNat % 2 ^ 16)) ∧ t.mem = s.mem ∧
      ∀ c, c ≠ u → Machine.core t c = Machine.core s c) ∧
  (∀ (s : State) (x : Word), ∃ t, exec (.xidWrite 964 x) s = .next t ∧ (reg t 0x102).toNat = x.toNat % 2 ^ 16 ∧
    t.hostRoot = entryWord s (bits (reg s 0x101) 43 19 * 2 ^ 19 + 8 * (x.toNat % 2 ^ 16)) ∧ t.cores = s.cores) ∧
  (∀ (s : State) (u : Nat) (x : Word), u ≠ 964 → coreExists s u = false →
    exec (.xidWrite u x) s = .next s)

/-- R64, R65, R155: a write to CARVE is refused with ERR when SIZE + SHADOW exceeds 48, while BUSY, or when it leaves a
slice more shadows than it may hold; else it is taken with BUSY, and while BUSY the carve-out's bound is the smaller of
the two sizes. When the resize is done BUSY returns to 0 and bytes between the sizes read 0. -/
def Sys2Proof.Claims.carveOuts : Prop :=
  (∀ (s : State) (d : Nat) (x : Word), d < 4 →
    ∃ t, exec (.carveWrite d x) s = .next t ∧ t.mem = s.mem ∧
      (48 < bits x 5 0 + bits x 13 8 ∨ bit (reg s (rCarve d)) 63 = true ∨
          (bits x 13 8 < bits (reg s (rCarve d)) 13 8 ∧ ∃ k, k < 64 ∧ 1024 * bits x 13 8 < shadowCount s (64 * d + k)) →
        t = putReg s (rCarve d) 62 62 1) ∧
      (bits x 5 0 + bits x 13 8 ≤ 48 → bit (reg s (rCarve d)) 63 = false → bits (reg s (rCarve d)) 13 8 ≤ bits x 13 8 →
        bits (reg t (rCarve d)) 5 0 = bits x 5 0 ∧ bits (reg t (rCarve d)) 13 8 = bits x 13 8 ∧
        bit (reg t (rCarve d)) 63 = true ∧ bit (reg t (rCarve d)) 62 = false ∧
        carveLimit t d = 2 ^ 23 * min (bits (reg s (rCarve d)) 5 0) (bits x 5 0))) ∧
  (∀ (s : State) (d old sh : Nat), d < 4 → bit (reg s (rCarve d)) 63 = true → Memory.wf s.mem = true →
    tabSorted s.deck = true → tabGet s.carveOld d = some (old, sh) →
    ∃ t, exec (.carveResizeDone d) s = .next t ∧ bit (reg t (rCarve d)) 63 = false ∧
      carveLimit t d = 2 ^ 23 * bits (reg s (rCarve d)) 5 0 ∧
      ∀ a, 2 ^ 40 + d * 2 ^ 30 + 2 ^ 23 * min old (bits (reg s (rCarve d)) 5 0) ≤ a →
        a < 2 ^ 40 + d * 2 ^ 30 + 2 ^ 23 * max old (bits (reg s (rCarve d)) 5 0) → tabGet s.deck (a / 128) = none →
        memRead t.mem a = 0)

/-- R27, R33, R41, R64, R65, R155: the XID registers and the carve-out registers. -/
def Obligations.XidsAndCarveOuts : Prop :=
  Claims.xidRegisters ∧ Claims.carveOuts

/-- R70, R172: a write to MDREG starts an operation with BUSY, or is refused with ERR; when a registration is done, every
block of its granule has a word with CMP and VER as written, T and S 0; a deregistration leaves them 0. -/
def Sys2Proof.Claims.metadataRegistration : Prop :=
  (∀ (s : State) (n : Nat) (x : Word) (op : Nat), n < 8 → op = 1 ∨ op = 2 →
    let i : Instr := if op = 1 then .mdregRegister n x else .mdregDeregister n x
    ∃ t, exec i s = .next t ∧ t.mem = s.mem ∧
      (bit (reg s (rMdbase n)) 0 = false ∨ bit (reg s (rMdreg n)) 61 = true ∨
          (op = 1 ∧ bit x 59 = false ∧ bit x 58 = false) ∨
          (op = 1 ∧ blockRegistered s (blockOf n (32 * bits x 36 16)) = true) ∨
          (op = 2 ∧ blockRegistered s (blockOf n (32 * bits x 36 16)) = false) →
        t = putReg s (rMdreg n) 60 60 1) ∧
      (mdregRefused s n (putBits x 63 62 op) = false →
        bits (reg t (rMdreg n)) 63 62 = op ∧ bit (reg t (rMdreg n)) 61 = true ∧ bit (reg t (rMdreg n)) 60 = false ∧
        bits (reg t (rMdreg n)) 36 16 = bits x 36 16)) ∧
  (∀ (s : State) (n : Nat), n < 8 → bit (reg s (rMdreg n)) 61 = true → bit (reg s (rMdbase n)) 0 = true →
    s.mdCache.length + 32 ≤ 2 ^ 18 → tabSorted s.mdCache = true →
    let r := reg s (rMdreg n)
    let blk := fun i => blockOf n (32 * bits r 36 16 + i)
    (bits r 63 62 = 1 → ∃ t, exec (.mdregDone n) s = .next t ∧ reg t (rMdreg n) = 0 ∧ ∀ i, i < 32 →
      bit (metaOf t (blk i)) 1 = bit r 59 ∧ bit (metaOf t (blk i)) 0 = bit r 58 ∧ metaT (metaOf t (blk i)) = 0 ∧
      metaS (metaOf t (blk i)) = 0 ∧ bits (metaOf t (blk i)) 11 9 = (if bit r 59 then 7 else 0) ∧
      bits (metaOf t (blk i)) 14 12 = if bit r 59 && bit r 58 then 7 else 0) ∧
    (bits r 63 62 = 2 → (∀ i, i < 32 → bit (metaOf s (blk i)) 0 = false) →
      ∃ t, exec (.mdregDone n) s = .next t ∧ reg t (rMdreg n) = 0 ∧ ∀ i, i < 32 → metaOf t (blk i) = 0))

/-- R134, R135: CTABCMD writes and reads the table's entries; BUSY holds until CTAB_UPDATE_DONE, and a refused write sets
ERR. -/
def Sys2Proof.Claims.continuationTable : Prop :=
  (∀ (s : State) (x : Word),
    let w0 := reg s 0x118
    let w1 := reg s 0x119
    ∃ t, exec (.ctabWriteEntry x) s = .next t ∧
      (s.ctabBusy.isSome = true ∨ bits x 59 12 ≠ 0 ∨ 46 < bits w0 61 56 ∨ bits w0 55 48 ≠ 0 ∨ bits w0 31 0 ≠ 0 ∨
          bits w1 63 44 ≠ 0 ∨ bits w1 6 0 ≠ 0 → bit (reg t 0x11A) 60 = true ∧ t.ctab = s.ctab ∧ t.ctabBusy = s.ctabBusy) ∧
      (s.ctabBusy = none → bits x 59 12 = 0 → ctabBad w0 w1 = false →
        t.ctabBusy = some (bits x 11 0, w0, w1) ∧ t.ctab = s.ctab ∧ bit (reg t 0x11A) 60 = false)) ∧
  (∀ (s : State) (x : Word), s.ctabBusy = none → bits x 59 12 = 0 →
    ∃ t, exec (.ctabReadEntry x) s = .next t ∧ reg t 0x118 = (tabD s.ctab (bits x 11 0) (0, 0)).1 ∧
      reg t 0x119 = (tabD s.ctab (bits x 11 0) (0, 0)).2 ∧ t.ctab = s.ctab) ∧
  (∀ (s : State) (i : Nat) (w0 w1 : Word), s.ctabBusy = some (i, w0, w1) →
    ∃ t, exec .ctabUpdateDone s = .next t ∧ t.ctabBusy = none ∧ tabGet t.ctab i = some (w0, w1))

/-- R70, R172, R134, R135: registering metadata granules, and the continuation table. -/
def Obligations.MetadataAndContinuations : Prop :=
  Claims.metadataRegistration ∧ Claims.continuationTable

/-- R130, R133: a write to RGRPn that is accepted takes LAST and TABLE, loads the table when it enables the group, and
discards its rounds when it drops or disables it; one that is refused sets ERR. -/
def Sys2Proof.Claims.reductionGroups : Prop :=
  (∀ (s : State) (n : Nat) (x : Word), 1 ≤ n → n ≤ 255 →
    ∃ t, exec (.rgrpWrite n x) s = .next t ∧ t.mem = s.mem ∧
      (bit (reg s (rRgrp n)) 61 = true ∨ (bit (reg s (rRgrp n)) 63 = true ∧
            (bits (reg s (rRgrp n)) 59 54 ≠ bits x 59 54 ∨ bits (reg s (rRgrp n)) 43 7 ≠ bits x 43 7)) ∨
          (bit x 63 = true ∧ bit (reg s (rRgrp n)) 63 = false ∧ 2 ^ 40 ≤ 128 * bits x 43 7) →
        t = putReg s (rRgrp n) 62 62 1) ∧
      (groupRefused s (reg s (rRgrp n)) x = false →
        bit (reg t (rRgrp n)) 63 = bit x 63 ∧ bits (reg t (rRgrp n)) 59 54 = bits x 59 54 ∧
        bits (reg t (rRgrp n)) 43 7 = bits x 43 7 ∧ bit (reg t (rRgrp n)) 62 = false ∧
        bit (reg t (rRgrp n)) 61 = ((bit x 63 && !bit (reg s (rRgrp n)) 63) || bit x 60 || !bit x 63) ∧
        (bit x 63 = true → bit (reg s (rRgrp n)) 63 = false → ∀ k, k ≤ bits x 59 54 →
          (tabD t.slotTabs n []).getD k 0 =
            BitVec.ofNat 16 (leNat (((viewBytes s (128 * bits x 43 7) 128).drop (2 * k)).take 2))))) ∧
  (∀ (s : State) (n : Nat), 1 ≤ n → n ≤ 255 → bit (reg s (rRgrp n)) 61 = true → bit (reg s (rRgrp n)) 60 = true →
    ∃ t, exec (.rgrpDrop n) s = .next t ∧ (∀ r, r ∈ t.rounds ↔ r ∈ s.rounds ∧ r.group ≠ n) ∧
      (∀ y, y ∈ t.contribs → y.x.group.toNat = n → y.st ≠ .held) ∧ bit (reg t (rRgrp n)) 60 = false ∧ t.mem = s.mem) ∧
  (∀ (s : State) (n : Nat), 1 ≤ n → n ≤ 255 → bit (reg s (rRgrp n)) 61 = true → bit (reg s (rRgrp n)) 60 = false →
    ∃ t, exec (.rgrpDone n) s = .next t ∧ bit (reg t (rRgrp n)) 61 = false ∧ t.rounds = s.rounds)

/-- R74, R76, R465, R466: a scrub pass marks an uncorrectable codeword poisoned and counts a pass; PWRCTL takes a level of
at most 8 with BUSY, or sets ERR; a sample writes POWER and TEMP and counts in SEQ; a sensor at WARNT sets WARN, and one
at TRIPT trips the part. -/
def Obligations.ScrubPowerAndThermal : Prop :=
  (∀ (s : State) (n : Nat) (x : ScrubFinding) (last : Bool), n < 8 → bit (reg s (rScrubctl n)) 63 = true →
    x.dpa < 2 ^ 40 → ctrlOf x.dpa = n → x.correctable = false →
    bit (reg s (rEhbase n)) 0 = false →
    ∃ t, exec (.patrolScrub n [x] last) s = .next t ∧ x.dpa / 64 ∈ t.poison ∧ t.mem = s.mem ∧
      bits (reg t (rScrubctl n)) 47 32 = if last then min 0xFFFF (bits (reg s (rScrubctl n)) 47 32 + 1)
        else bits (reg s (rScrubctl n)) 47 32) ∧
  (∀ (s : State) (n : Nat) (l : List ScrubFinding) (last : Bool), n < 8 → bit (reg s (rScrubctl n)) 63 = false →
    exec (.patrolScrub n l last) s = .next s) ∧
  (∀ (s : State) (i : Nat) (x : Word), i < 16 →
    ∃ t, exec (.pwrctlWrite i x) s = .next t ∧
      (bit (reg s (rPwrctl i)) 63 = true ∨ 9 ≤ bits x 3 0 ∨ (bits x 3 0 = 0 ∧ (8 ≤ i ∨ i % 2 = 1 ∨ islandHeld s i = true)) →
        bit (reg t (rPwrctl i)) 62 = true ∧ bits (reg t (rPwrctl i)) 3 0 = bits (reg s (rPwrctl i)) 3 0) ∧
      (bit (reg s (rPwrctl i)) 63 = false → 1 ≤ bits x 3 0 → bits x 3 0 ≤ 8 →
        bits (reg t (rPwrctl i)) 3 0 = bits x 3 0 ∧ bit (reg t (rPwrctl i)) 63 = true)) ∧
  (∀ (s : State) (i : Nat), i < 16 →
    ∃ t, exec (.powerChangeDone i) s = .next t ∧ bit (reg t (rPwrctl i)) 63 = false ∧
      bits (reg t (rPwrctl i)) 3 0 = bits (reg s (rPwrctl i)) 3 0) ∧
  (∀ (s : State) (x : TeleSample), x.island < 16 →
    ∃ t, exec (.telemetrySample [x] []) s = .next t ∧
      bits (reg t (rTele x.island)) 63 48 = x.power.toNat ∧ bits (reg t (rTele x.island)) 47 32 = x.temp.toNat ∧
      bits (reg t (rTele x.island)) 15 0 = (bits (reg s (rTele x.island)) 15 0 + 1) % 2 ^ 16 ∧
      (4 * bits (reg s rThermctl) 23 16 ≤ x.temp.toNat → bit (reg t rThermctl) 62 = true) ∧
      (4 * bits (reg s rThermctl) 15 8 ≤ x.temp.toNat → bit (reg s rThermctl) 63 = false →
        bit (reg t rThermctl) 63 = true ∧ bits (reg t rThermctl) 61 58 = x.island ∧
        bits (reg t (rPwrctl 15)) 3 0 = 1) ∧
      (x.temp.toNat < 4 * bits (reg s rThermctl) 15 8 → bit (reg t rThermctl) 63 = bit (reg s rThermctl) 63))

/-- R455 to R457, R77: a cold reset keeps the flash alone; a warm reset keeps HBM and the identity key pair, of either
kind; a context reset tears down the context at its origin with KILLED, or sets ERR where there is none. Before boot is complete,
and after a trip, only a cold reset acts (R458, R466). -/
def Obligations.Resets : Prop :=
  (∀ s : State, ∃ t, exec .coldReset s = .next t ∧ t.mem = [] ∧ t.cores = [] ∧ t.regs = [] ∧ t.ks = Keystone.reset ∧
    t.flashA = s.flashA ∧ t.flashB = s.flashB ∧ t.identity = false ∧ booted t = false) ∧
  (∀ (s : State) (i : Instr), i = .warmReset ∨ (i = .quiescedWarmReset ∧ s.deck = [] ∧ s.mdCache = [] ∧ s.cores = [] ∧
      s.contribs = [] ∧ s.collies = []) → resettable s = true → Memory.wf s.mem = true →
    ∃ t, exec i s = .next t ∧ t.cores = [] ∧ t.regs = [] ∧ t.deck = [] ∧ t.snap = [] ∧ t.ks = Keystone.reset ∧
      t.identity = s.identity ∧ booted t = false ∧
      (∀ a, a < 2 ^ 40 → memRead t.mem a = memRead s.mem a) ∧ ∀ a, 2 ^ 40 ≤ a → memRead t.mem a = 0) ∧
  (∀ s : State, ∃ t, exec .quiescedWarmReset s = .next t ∧ (resettable s = true → t.cores = [] ∧ t.regs = []) ∧
    (resettable s = false → t = s)) ∧
  (∀ s : State, resettable s = true ↔ booted s = true ∧ tripped s = false) ∧
  (∀ (s : State) (x : Word), resettable s = true → taskAtOrigin s x = none →
    exec (.contextReset x) s = .next (putReg s rRstctl 59 59 1)) ∧
  (∀ (s : State) (x : Word) (t : Task), resettable s = true → taskAtOrigin s x = some t →
    exec (.contextReset x) s = .next (roleFatal s ((taskCores t).headD 0) .L 0 { fatalAt 0x4B 0 0 0 with unit := 4 }))

/-- R459, R464: ATTCTL with GO starts a report, unless one is in progress, and the report keeps the nonce and writes MEAS
behind it; CFGSW with GO makes every unit whose planes differ wait, and a unit at a quiesce point switches. -/
def Sys2Proof.Claims.attestationAndPlanes : Prop :=
  (∀ (s : State) (x : Word), bit (reg s rAttctl) 62 = false →
    ∃ t, exec (.attestationReport x) s = .next t ∧ bit (reg t rAttctl) 62 = true ∧
      bits (reg t rAttctl) 43 15 = bits x 43 15 ∧ t.mem = s.mem) ∧
  (∀ (s : State) (x : Word), bit (reg s rAttctl) 62 = true → exec (.attestationReport x) s = .next s) ∧
  (∀ (s : State), bit (reg s rAttctl) 62 = true → s.deck = [] → Memory.wf s.mem = true →
    bits (reg s rAttctl) 43 15 * 2 ^ 15 < 2 ^ 40 →
    let b := bits (reg s rAttctl) 43 15 * 2 ^ 15
    ∃ t, exec .attestationDone s = .next t ∧ bit (reg t rAttctl) 62 = false ∧
      readBytes t.mem b 64 = readBytes s.mem b 64 ∧
      readBytes t.mem (b + 64) 64 = (List.range 8).flatMap fun k => wordBytes (reg s (0x478 + k))) ∧
  (∀ (s : State), bit (reg s rAttctl) 62 = false → exec .attestationDone s = .next s) ∧
  (∀ s : State, ∃ t, exec .cfgswGo s = .next t ∧ t.units.length = s.units.length ∧
    ∀ k, k < s.units.length → ∃ u v, s.units[k]? = some u ∧ t.units[k]? = some v ∧
      v = { u with waiting := u.waiting || decide (u.shadow ≠ u.active) }) ∧
  (∀ (s : State) (u : UnitPlane), s.units = [u] → u.waiting = true → quiescePoint s u = true →
    ∃ t, exec (.unitPlaneSwitch u.unit) s = .next t ∧
      t.units = [{ u with active := u.shadow, shadow := u.active, waiting := false }]) ∧
  (∀ (s : State) (u : UnitPlane), s.units = [u] → quiescePoint s u = false →
    exec (.unitPlaneSwitch u.unit) s = .next s)

/-- R287, R459, R463, R464: attestation, plane switches, and configuration differences. -/
def Obligations.AttestationAndConfiguration : Prop :=
  Claims.attestationAndPlanes ∧ Claims.configurationDifferences

/-! ## Spawn, task signals and collectives -/

/-- R277, R278, R279: spawn hands its record to Collie, here a record in scratch, answers the outcome code that Collie gave
it, and 0x82 for a spawn.w without a completion word; tsig acts on its list entries, and coll posts its record and answers its sequence number, each once the
role's release, begun at its first turn, has settled. -/
def Obligations.SpawnSignalAndCollectiveWords : Prop :=
  (∀ (s : State) (i : Instr) (m : Mark) (rd ra rb : G6) (w : Bool),
    (i = .spawn m rd ra rb ∧ w = false) ∨ (i = .spawnW m rd ra rb ∧ w = true) → ready s i m 1 = true →
    usable s [.g ra, .g rb] (.g rd) = true →
    let a := src s s ra
    let b := src s a.1 rb
    let n := stage s.cur.1 s.cur.2 s
    (2 ≤ n → exec i s = .next (finishG s b.1 m rd ⟨BitVec.ofNat 64 (n - 2), false⟩ .seq)) ∧
    (n < 2 → a.2.val.toNat % 128 = 0 → b.2.val.toNat % 2 ^ 57 = 0 → w = true →
      exec i s = .next (finishG s b.1 m rd ⟨0x82, false⟩ .seq)) ∧
    (n = 0 → a.2.val.toNat % 128 = 0 → b.2.val.toNat % 8 = 0 → (w = true → b.2.val.toNat % 2 ^ 57 ≠ 0) →
      relReady s s.cur.1 s.cur.2 .dev = true →
      ∃ u, exec i s = .next u ∧ stage s.cur.1 s.cur.2 u = 1 ∧
        (getRole u s.cur.1 s.cur.2).g = (getRole s s.cur.1 s.cur.2).g ∧ u.collies = s.collies) ∧
    (∀ t key, n = 1 → w = false → relSettled s s.cur.1 s.cur.2 = true → b.2.val.toNat % 2 ^ 57 = 0 →
      let r := a.2.val.toNat % 2 ^ 57
      r % 128 = 0 → coreLoc s s.cur.1 .read (!systemMode s s.cur.1 s.cur.2) false false r 128 = .ok (t, .pool key) →
      ∃ u x, exec i s = .next u ∧ (getRole u s.cur.1 s.cur.2).block = some (.spawn 0) ∧
        (collie u (dieOf s.cur.1)).subs = (collie s (dieOf s.cur.1)).subs ++ [x] ∧
        x.words = wordsOf 16 (readBytes s.mem key 128) ∧ x.recVa.toNat = r ∧ x.xid = (Machine.core s s.cur.1).xid ∧
        x.from_ = some s.cur)) ∧
  (∀ (s : State) (m : Mark) (ra : G6), ready s (.tsig m ra) m 1 = true → usable s [.g ra] .none = true →
    let a := src s s ra
    let n := stage s.cur.1 s.cur.2 s
    (n = 0 → relReady s s.cur.1 s.cur.2 .dev = true →
      ∃ u, exec (.tsig m ra) s = .next u ∧ stage s.cur.1 s.cur.2 u = 1 ∧ u.collies = s.collies) ∧
    (n ≠ 0 → relSettled s s.cur.1 s.cur.2 = true →
      (coreTask s s.cur.1 = none → exec (.tsig m ra) s = .next (finish s a.1 m 1 .seq)) ∧
      (∀ k, coreTask s s.cur.1 = some k → listWaits s (dieOf s.cur.1) k = false →
        exec (.tsig m ra) s = .next (finish s (tsigEntries a.1 (dieOf s.cur.1) k a.2.val) m 1 .seq)))) ∧
  (∀ (s : State) (m : Mark) (rd ra : G6) (sem : Option (BitVec 5)), ready s (.coll m rd ra sem) m 1 = true →
    usable s [.g ra] (.g rd) = true →
    let a := src s s ra
    let v := a.2.val.toNat % 2 ^ 57
    v % 64 = 0 →
    (stage s.cur.1 s.cur.2 s = 0 → relReady s s.cur.1 s.cur.2 .dev = true →
      ∃ u, exec (.coll m rd ra sem) s = .next u ∧ stage s.cur.1 s.cur.2 u = 1 ∧ u.ports = s.ports) ∧
    (stage s.cur.1 s.cur.2 s ≠ 0 → relSettled s s.cur.1 s.cur.2 = true → ∀ t sq,
      collPost s.cur.1 s.cur.2 sem v a.1 = .ok (t, sq) →
      exec (.coll m rd ra sem) s = .next (finishG s t m rd ⟨sq, false⟩ .seq)))

/-! ## Events of a role or core -/

/-- The word at a role's counter, as a fatal record names it. -/
def Sys2Proof.Claims.wordAt (s : State) (c : Nat) (r : RoleId) : Word := (peekWord s c r (getRole s c r).pc.toNat).getD 0

/-- R373, R392, R440: an asynchronous trap that may be delivered puts the role at its handler, with its wait given up, its
cause marked asynchronous and the counter of the word it would have issued next saved. R220: a role that would issue a word,
here one that waits for nothing, and is overdue for a safe point is fatal. R201, R203: words that
are not the role's are passed, four at a time, inside the slip window. -/
def Sys2Proof.Claims.eventsOfARole : Prop :=
  (∀ (s : State) (c : Nat) (r : RoleId), roleExists s c r = true → contextAt s c = true →
    let x := getRole s c r
    trapPending x = true → inHandler x = false → x.fin = false →
    bit (Machine.core s c).dbg.halt (roleNum r) = false → abandonable x = true → bits x.tvec 56 3 ≠ 0 →
    let k := if x.block.isSome = true then 0 else skipCount s c r x.pc.toNat 4
    k < 4 → k = 0 ∨ mayPass s c r k = true →
    ∃ t, exec (.asyncTrapDelivery c r) s = .next t ∧
      let y := getRole t c r
      y.pc.toNat = 8 * bits x.tvec 56 3 ∧ y.tpc = x.pc + BitVec.ofNat 57 (8 * k) ∧ y.tcause.toNat = 256 + bits x.tstat 15 8 ∧
      y.tval = pendingTval s c r ∧ inHandler y = true ∧ bit y.tstat 1 = systemMode s c r ∧
      bit y.tstat 2 = (systemMode s c r || bit x.tvec 0) ∧ y.block = none ∧ y.mid = 0 ∧
      y.g = x.g ∧ y.v = x.v ∧ y.p = x.p ∧ y.flags = x.flags ∧ t.mem = s.mem) ∧
  (∀ (s : State) (c : Nat) (r : RoleId), roleExists s c r = true → contextAt s c = true → roleHeld s c r = false →
    (getRole s c r).safecnt.toNat = 4096 → (getRole s c r).pushDue = false → (getRole s c r).mid = 0 →
    trapPending (getRole s c r) = false ∨ inHandler (getRole s c r) = true → skipCount s c r (getRole s c r).pc.toNat 4 = 0 →
    mayPass s c r 1 = true → issuesFreely (wordAt s c r) = true →
    exec (.overdue c r) s = .next (roleFatal s c r (wordAt s c r) (fatalAt 0x45 0 0 0))) ∧
  (∀ (s : State) (c : Nat) (r : RoleId), roleExists s c r = true → (getRole s c r).safecnt.toNat ≠ 4096 →
    exec (.overdue c r) s = .next s) ∧
  (∀ (s : State) (c : Nat) (r : RoleId), roleExists s c r = true → contextAt s c = true → roleHeld s c r = false →
    (getRole s c r).pushDue = false → skipCount s c r (getRole s c r).pc.toNat 4 = 4 →
    ∃ t, exec (.predecodeSkip c r) s = .next t ∧
      let x := getRole s c r
      let y := getRole t c r
      let k := passable s c r 4
      y.pc = x.pc + BitVec.ofNat 57 (8 * k) ∧ k ≤ 4 ∧ (k ≠ 0 → mayPass s c r k = true) ∧
      (k < 4 → mayPass s c r (k + 1) = false) ∧
      y.walk = (if inHandler x then x.walk else x.walk + BitVec.ofNat 64 k) ∧ y.safecnt = x.safecnt ∧ y.g = x.g ∧
      y.flags = x.flags ∧ t.mem = s.mem)

/-- R224, R442, R447: when every role of a core is blocked on a core-local condition, and not all have ended, with no load,
engine or job that could go on, the core's context is fatal with DEADLOCK, whose AUX codes what each role waits for; while
some role is not so blocked nothing happens. R445: the oldest waiting fault record is written to the ring when it has
room. -/
def Sys2Proof.Claims.deadlockAndFaultRecords : Prop :=
  (∀ (s : State) (c : Nat), coreExists s c = true → contextAt s c = true → (Machine.core s c).dbg.halt = 0 →
    (∀ r, r ∈ coreRoles c → (blockedOn s c r).isSome = true ∧ (getRole s c r).loads = []) →
    (∃ r, r ∈ coreRoles c ∧ blockedOn s c r ≠ some 0) → engineActive s c = false → jobsUnacked s c = false →
    ∃ f, exec (.deadlock c) s = .next (roleFatal s c (if c < 960 then .L else .C) 0 f) ∧ f.code = 0x47 ∧ f.unit = 4 ∧
      ∀ r, r ∈ coreRoles c → bits f.aux (4 * roleNum r + 3) (4 * roleNum r) = (blockedOn s c r).getD 0) ∧
  (∀ (s : State) (c : Nat) (r : RoleId), coreExists s c = true → r ∈ coreRoles c →
    blockedOn s c r = none ∨ (Machine.core s c).dbg.halt ≠ 0 → exec (.deadlock c) s = .next s) ∧
  (∀ (s : State) (d : Nat) (w : List Word) (rest : List (List Word)), d < 4 → tabD s.fqBuf d [] = w :: rest →
    w.length ≤ 16 → fqRoom s d = true → s.deck = [] → Memory.wf s.mem = true →
    let b := reg s (rFqbase d)
    let h := bits (reg s (rFqptr d)) 31 16
    let a := bits b 43 12 * 4096 + 128 * h
    a < 2 ^ 40 →
    ∃ t, exec (.faultRecordWrite d) s = .next t ∧ tabD t.fqBuf d [] = rest ∧
      bits (reg t (rFqptr d)) 31 16 = (h + 1) % 2 ^ bits b 4 0 ∧
      readBytes t.mem a 128 = wordsBytes (w ++ List.replicate (16 - w.length) 0) ∧
      ∀ x, x < a ∨ a + 128 ≤ x → memRead t.mem x = memRead s.mem x) ∧
  (∀ (s : State) (d : Nat), d < 4 → fqRoom s d = false → exec (.faultRecordWrite d) s = .next s)

/-- R204, R219, R241, R433 to R448: the events of a role, deadlocks and fault records. -/
def Obligations.RoleEventsAndFaultRecords : Prop :=
  Claims.eventsOfARole ∧ Claims.deadlockAndFaultRecords

/-! ## The matrix engine -/

/-- The command i, whose word p holds, is in prepare at core c, its wait byte met or already taken, and the engine does at its
turn all that is left of it (R362; log 20). -/
def Sys2Proof.Claims.prepared (s : State) (c : Nat) (i : Instr) (p : MCmd) : Prop :=
  coreExists s c = true ∧ s.alt = false ∧ stageTurn (Machine.core s c).matrix i = some (.prepare, p, 0) ∧
    p.loaded = none ∧ (p.waited = true ∨ waitTurn s c 3 (wordWs p.word) = true)

/-- The state in which a command does its work: its wait byte is taken. -/
def Sys2Proof.Claims.atWork (s : State) (c : Nat) (p : MCmd) : State :=
  modMatrix (if p.waited then s else takeWait s c (wordWs p.word)) c fun m => { m with prep := some { p with waited := true } }

/-- The command has left the stages and waits to complete in ring order, with its flags and mismatch; the roles of its core, and all other
cores, are as before. -/
def Sys2Proof.Claims.worked (s t : State) (c : Nat) (p : MCmd) (fl : BitVec 5) (mm : Option (BitVec 9)) : Prop :=
  (Machine.core t c).matrix.prep = none ∧
    (Machine.core t c).matrix.done = insertDone ⟨p.word, p.role, p.sq, fl, mm⟩ (Machine.core s c).matrix.done ∧
    (∀ r, getRole t c r = getRole s c r) ∧ ∀ d, d ≠ c → Machine.core t d = Machine.core s d

/-- Accumulator n of core c. -/
def Sys2Proof.Claims.accOf (s : State) (c n : Nat) : Acc := acc (Machine.core s c).matrix n

/-- The accumulators other than n are as before. -/
def Sys2Proof.Claims.othersKept (s t : State) (c n : Nat) : Prop := ∀ k, k ≠ n → accOf t c k = accOf s c k

/-- Descriptor h of core c. -/
def Sys2Proof.Claims.descAt (s : State) (c : Nat) (h : BitVec 4) : Desc := desc (Machine.core s c) h.toNat

/-- The old element of an accumulator, 0 when it is not live (R365). -/
def Sys2Proof.Claims.oldElem (x : Acc) (t : List (BitVec 32)) (k : Nat) : BitVec 32 := if accLive x then tileElem t k else 0

/-- R362, R367, R368, R370, R371: mnop does nothing; mzr and mld give an accumulator zeros or a slot's bytes, live, of
their type, with its status kept or cleared; mcfg sets the mode, which drops the A buffer, or loads the sixteen format
entries. -/
def Sys2Proof.Claims.matrixMovesAndModes : Prop :=
  (∀ (s : State) (ws : WaitSig) (p : MCmd), prepared s s.cur.1 (.mnop ws) p →
    ∃ t, exec (.mnop ws) s = .next t ∧ worked s t s.cur.1 p 0 none ∧ t.mem = s.mem ∧
      ∀ n, accOf t s.cur.1 n = accOf s s.cur.1 n) ∧
  (∀ (s : State) (ws : WaitSig) (a : BitVec 3) (ty cs : Bool) (p : MCmd), prepared s s.cur.1 (.mzr ws a ty cs) p →
    arrayFree (Machine.core s s.cur.1).matrix a.toNat = true →
    ∃ t, exec (.mzr ws a ty cs) s = .next t ∧ worked s t s.cur.1 p 0 none ∧ t.mem = s.mem ∧
      othersKept s t s.cur.1 a.toNat ∧
      let x := accOf s s.cur.1 a.toNat
      let y := accOf t s.cur.1 a.toNat
      accLive y = true ∧ accType y = ty ∧ accStatus y = (if cs then 0 else accStatus x) ∧
      accRed y = (Machine.core s s.cur.1).matrix.red ∧ ∀ k, tileElem y.tile k = 0 ∧ tileElem y.second k = 0) ∧
  (∀ (s : State) (ws : WaitSig) (a : BitVec 3) (ty cs : Bool) (h : BitVec 4) (pop : Bool) (p : MCmd),
    prepared s s.cur.1 (.mld ws a ty cs h pop) p → handleBad (Machine.core s s.cur.1) h = false →
    let d := descAt s s.cur.1 h
    16384 ≤ d.size → 1 ≤ d.filled → arrayFree (Machine.core s s.cur.1).matrix a.toNat = true →
    ∃ t, exec (.mld ws a ty cs h pop) s = .next t ∧ worked s t s.cur.1 p 0 none ∧ t.mem = s.mem ∧
      othersKept s t s.cur.1 a.toNat ∧ (descAt t s.cur.1 h).filled = (if pop then d.filled - 1 else d.filled) ∧
      let x := accOf s s.cur.1 a.toNat
      let y := accOf t s.cur.1 a.toNat
      accLive y = true ∧ accType y = ty ∧ accStatus y = (if cs then 0 else accStatus x) ∧
      accRed y = (Machine.core s s.cur.1).matrix.red ∧
      ∀ k, k < 4096 → (tileElem y.tile k).toNat = leNat (poolRead s s.cur.1 (slotByte d d.ridx + 4 * k) 4) ∧
        (accRed y = true → tileElem y.second k = tileElem y.tile k)) ∧
  (∀ (s : State) (ws : WaitSig) (red : Bool) (p : MCmd), prepared s s.cur.1 (.mcfgRedundant ws red) p →
    noneEarlier (Machine.core s s.cur.1).matrix = true →
    ∃ t, exec (.mcfgRedundant ws red) s = .next t ∧ worked s t s.cur.1 p 0 none ∧ t.mem = s.mem ∧
      (Machine.core t s.cur.1).matrix.red = red ∧ (Machine.core t s.cur.1).matrix.abuf = none ∧
      ∀ n, accOf t s.cur.1 n = accOf s s.cur.1 n) ∧
  (∀ (s : State) (ws : WaitSig) (h : BitVec 4) (pop : Bool) (p : MCmd), prepared s s.cur.1 (.mcfgLoadFormat ws h pop) p →
    handleBad (Machine.core s s.cur.1) h = false → noneEarlier (Machine.core s s.cur.1).matrix = true →
    let d := descAt s s.cur.1 h
    128 ≤ d.size → 1 ≤ d.filled →
    ∃ t, exec (.mcfgLoadFormat ws h pop) s = .next t ∧ worked s t s.cur.1 p 0 none ∧ t.mem = s.mem ∧
      (descAt t s.cur.1 h).filled = (if pop then d.filled - 1 else d.filled) ∧
      ∀ k, k < 16 → (tabD (Machine.core t s.cur.1).matrix.fmt k 0).toNat =
        leNat (poolRead s s.cur.1 (slotByte d d.ridx + 8 * k) 8))

/-- R360, R365, R366: mma adds to each element of its accumulator the row product of row i of A and row j of B, in the
types of its format entry, with the status of every element; a slot named by a pop is freed, and A stays in the buffer for
a later command that reuses it. -/
def Sys2Proof.Claims.matrixMultiply : Prop :=
  ∀ (s : State) (ws : WaitSig) (lp : Bool) (fidx ha hb : BitVec 4) (a : BitVec 3) (reuse popa popb : Bool) (p : MCmd),
    let i : Instr := .mma ws lp fidx ha hb a reuse popa popb
    let c := s.cur.1
    prepared s c i p →
    let k := Machine.core s c
    let e := tabD k.matrix.fmt fidx.toNat 0
    mmaCheck k e ha hb a reuse = none →
    let da := descAt s c ha
    let db := descAt s c hb
    let two := !reuse && ha == hb && popa
    (reuse = false → 1 ≤ da.filled) → (if two then 2 else 1) ≤ db.filled → arrayFree k.matrix a.toNat = true →
    let x := accOf s c a.toNat
    let ab := if reuse then ((k.matrix.abuf.map (·.bytes)).getD [])
      else poolRead s c (slotByte da da.ridx) (operandBytes (fmtA e) (fmtNoA e))
    let bb := poolRead s c (slotByte db (db.ridx + if two then 1 else 0)) (operandBytes (fmtB e) (fmtNoB e))
    let elem := fun (t : List (BitVec 32)) (m n : Nat) => mmaElem (fmtA e) (fmtB e)
      (operandRow (fmtA e) (fmtNoA e) ab m) (operandRow (fmtB e) (fmtNoB e) bb n) (oldElem x t (64 * m + n))
    ∃ t, exec i s = .next t ∧ worked s t c p 0 none ∧ t.mem = s.mem ∧ othersKept s t c a.toNat ∧
      let y := accOf t c a.toNat
      accLive y = true ∧ accType y = (if accLive x then accType x else fmtA e == .i8) ∧
      accRed y = (k.matrix.red && accRed x) ∧
      (∀ m n, m < 64 → n < 64 → tileElem y.tile (64 * m + n) = (elem x.tile m n).1 ∧
        (accRed y = true → tileElem y.second (64 * m + n) = (elem x.second m n).1) ∧
        accStatus y ||| (elem x.tile m n).2 = accStatus y) ∧
      accStatus y ||| accStatus x = accStatus y ∧
      (ha ≠ hb → (descAt t c ha).filled = (if !reuse && popa then da.filled - 1 else da.filled) ∧
        (descAt t c hb).filled = if popb then db.filled - 1 else db.filled) ∧
      (reuse = false → (Machine.core t c).matrix.abuf = some ⟨ab, BitVec.ofNat 4 (bits e 3 0), fmtNoA e⟩) ∧
      (reuse = true → (Machine.core t c).matrix.abuf = k.matrix.abuf)

/-- R369: mdr writes every element of its accumulator, converted to the target type, to the next free slot of its handle
and publishes the slot; MDRCNT counts it; the accumulator is cleared or freed as its bits say; two copies that differ
give a mismatch, at the first block that differs; the status of every conversion enters the accumulator's. -/
def Sys2Proof.Claims.matrixDrain : Prop :=
  ∀ (s : State) (ws : WaitSig) (a : BitVec 3) (dt : BitVec 4) (rm : RM) (sat : Bool) (h : BitVec 4) (clr free : Bool)
    (p : MCmd) (u : State) (draw : Nat → Nat),
    let i : Instr := .mdr ws a dt rm sat h clr free
    let c := s.cur.1
    prepared s c i p → handleBad (Machine.core s c) h = false →
    let x := accOf s c a.toNat
    let ty := DType.ofCode dt
    let d := descAt s c h
    drainType (accType x) ty = true → 512 * elemBits ty ≤ d.size → d.filled < d.slots →
    drainFree (Machine.core s c).matrix a.toNat = true →
    (rm = .sr → accType x = false → sspOn s = true) →
    mdrDraw (atWork s c p) c (accType x) rm = .ok (u, draw) → Memory.wf u.mem = true →
    let n := elemBits ty / 8
    let elem := fun k => drainElem (accType x) ty rm sat (draw k) (oldElem x x.tile k)
    ∃ t fl mm, exec i s = .next t ∧ (Machine.core t c).matrix.prep = none ∧
      (Machine.core t c).matrix.done = insertDone ⟨p.word, p.role, p.sq, fl, mm⟩ (Machine.core u c).matrix.done ∧
      (descAt t c h).filled = d.filled + 1 ∧
      (∀ k, k < 4096 → poolRead t c (slotByte d d.widx + n * k) n = leBytes n (elem k).1 ∧
        fl ||| (elem k).2.2 = fl) ∧
      (∀ b, b < poolBase c + slotByte d d.widx ∨ poolBase c + slotByte d d.widx + 4096 * n ≤ b →
        memRead t.mem b = memRead u.mem b) ∧
      (Machine.core t c).matrix.mdrcnt = (Machine.core u c).matrix.mdrcnt + 1 ∧
      (accLive x = true → accRed x = true →
        mm = (firstDiff x.tile x.second).map fun b => BitVec.ofNat 6 b ++ a) ∧ (accRed x = false → mm = none) ∧
      let y := accOf t c a.toNat
      accLive y = (accLive x && !free) ∧ accType y = accType x ∧ accStatus y ||| accStatus x = accStatus y ∧
      (∀ k, k < 4096 → accStatus y ||| (elem k).2.1 = accStatus y) ∧ ∀ k, tileElem y.tile k = if clr || free then 0 else tileElem x.tile k

/-- R367 to R376: matrix multiplication and the drain. -/
def Obligations.MatrixArithmetic : Prop :=
  Claims.matrixMultiply ∧ Claims.matrixDrain

/-- R362: the head word of the matrix ring enters prepare, with its slot freed and its placing role known; finished
commands complete oldest first, once no earlier one is in a stage: an mdr's status enters FLAGS of its placing role and the signal byte acts. -/
def Sys2Proof.Claims.matrixRing : Prop :=
  (∀ (s : State) (c : Nat) (i : Instr), coreExists s c = true → (Machine.core s c).matrix.prep = none →
    let d := descAt s c 14
    let n := (Machine.core s c).matrix.taken
    let w := ringWord s c 14 0
    1 ≤ d.filled → decodeMatrix w = .ok i →
    ∃ t, exec (.matrixCommandStart c) s = .next t ∧ (descAt t c 14).filled = d.filled - 1 ∧
      (Machine.core t c).matrix.prep =
        some { word := w, role := tabD (Machine.core s c).matrix.owners n .C, waited := false, sq := n, loaded := none } ∧
      (Machine.core t c).matrix.taken = n + 1 ∧ t.mem = s.mem ∧
      ∀ r, getRole t c r = getRole s c r) ∧
  (∀ (s : State) (c : Nat) (p : MDone) (rest : List MDone), coreExists s c = true →
    (Machine.core s c).matrix.done = p :: rest → p.mismatch = none →
    ((Machine.core s c).matrix.array.any fun a => decide (a.cmd.sq < p.sq)) = false →
    ((Machine.core s c).matrix.drain.any fun q => decide (q.sq < p.sq)) = false →
    let st : BitVec 5 := match drains p.word with
      | some a => flagsOf (accStatus (accOf s c a))
      | none => 0
    ∃ t, exec (.matrixCommandCompletion c) s = .next t ∧ (Machine.core t c).matrix.done = rest ∧ t.mem = s.mem ∧
      getRole t c p.role =
        { getRole s c p.role with flags := (getRole s c p.role).flags ||| st ||| p.orFlags } ∧
      (∀ r, r ≠ p.role → getRole t c r = getRole s c r) ∧
      ∀ n, sem (Machine.core t c) n =
        if (wordWs p.word).sen = true ∧ n = (wordWs p.word).ssem.toNat then
          (match (wordWs p.word).sop.toNat with
            | 0 => min (sem (Machine.core s c) n + 1) 0xFFFFFFFF
            | 1 => sem (Machine.core s c) n - 1
            | 2 => 1
            | _ => 0)
        else sem (Machine.core s c) n) ∧
  (∀ (s : State) (i : Instr) (p : MCmd), coreExists s s.cur.1 = true →
    stageTurn (Machine.core s s.cur.1).matrix i = some (.prepare, p, 0) → p.waited = false →
    waitTurn s s.cur.1 3 (wordWs p.word) = false →
    exec i s = .next s)

/-- R244, R362 to R366: the matrix ring, and the commands that move and set modes. -/
def Obligations.MatrixRingAndModes : Prop :=
  Claims.matrixMovesAndModes ∧ Claims.matrixRing

/-! ## The copy engine -/

/-- The turn of the command i at the acting core's copy engine is job j's: the oldest in flight of its words. -/
abbrev Sys2Proof.Claims.turnOf (s : State) (i : Instr) (j : CJob) : Prop :=
  coreExists s s.cur.1 = true ∧ (Machine.core s s.cur.1).copy.jobs.find? (fun x =>
    !x.accessed && !x.stopped && x.refused.isNone && x.failed.isNone && isCommand (decodeCopy x.words) i) = some j

/-- Element n of an index list in scratch, and the address it names in a table of 2^e-byte elements (R387). -/
def Sys2Proof.Claims.tableAddr (s : State) (table e idx n : Nat) : Nat :=
  (table + leNat (poolRead s s.cur.1 (4 * idx + 4 * n) 4) * 2 ^ e) % 2 ^ 57

/-- The rows of a command that makes accesses (R385 to R389). -/
def Sys2Proof.Claims.copyRowCount (i : Instr) (j : CJob) : Nat :=
  match i with
  | .cpy _ _ _ _ _ _ _ => (rowCounts j.shape).1 * (rowCounts j.shape).2
  | .cpyd _ _ _ _ len => len.toNat / 2048
  | .gath _ _ _ _ n _ _ => n.toNat + 1
  | .scat _ _ _ _ n _ _ => n.toNat + 1
  | .fill _ _ _ _ _ => 1
  | .redc _ _ _ _ _ _ _ _ _ => 1
  | _ => 0

/-- Row n of such a command: where it reads, where it writes, how many bytes, and its offset in the job; none where an
address is not aligned as its command asks. -/
def Sys2Proof.Claims.copyRow (s : State) (i : Instr) (j : CJob) (n : Nat) : Option Row :=
  let k := Machine.core s s.cur.1
  match i with
  | .cpy _ _ a b _ len _ =>
    let m := (rowCounts j.shape).1
    let at_ := fun (base : Nat) (s1 s2 : Int) => (((base : Int) + (n % m : Nat) * s1 + (n / m : Nat) * s2) % 2 ^ 57).toNat
    some ⟨some (at_ (sideBase k a (srcSlot j)) (strideOf j.shape 1) (strideOf j.shape 3)),
      at_ (sideBase k b j.dst) (strideOf j.shape 2) (strideOf j.shape 4), len.toNat, n * len.toNat⟩
  | .cpyd _ sa b _ _ => some ⟨some ((sa.toNat + 2048 * n) % 2 ^ 57), sideBase k b j.dst + 2048 * n, 2048, 2048 * n⟩
  | .gath _ t b _ _ e x =>
    let a := tableAddr s t.toNat e.toNat x.toNat n
    if a % min (2 ^ e.toNat) 8 = 0 then
      some ⟨some a, (sideBase k b j.dst + n * 2 ^ e.toNat) % 2 ^ 57, 2 ^ e.toNat, n * 2 ^ e.toNat⟩
    else none
  | .scat _ a t _ _ e x =>
    let d := tableAddr s t.toNat e.toNat x.toNat n
    if d % min (2 ^ e.toNat) 8 = 0 then
      some ⟨some ((sideBase k a (srcSlot j) + n * 2 ^ e.toNat) % 2 ^ 57), d, 2 ^ e.toNat, n * 2 ^ e.toNat⟩
    else none
  | .fill _ b _ len _ =>
    if sideBase k b j.dst % 8 = 0 then some ⟨none, sideBase k b j.dst, len.toNat, 0⟩ else none
  | .redc _ a d _ len _ dbl _ _ =>
    if d.toNat % (if dbl then 8 else 4) = 0 then some ⟨some (sideBase k a (srcSlot j)), d.toNat, len.toNat, 0⟩ else none
  | _ => none

/-- What redc contributes (R389). -/
def Sys2Proof.Claims.copyReduction : Instr → Option RedcBody
  | .redc _ _ _ _ _ op dbl group srcid => some ⟨(SliceOp.ofCode op).getD .add, dbl, group, srcid⟩
  | _ => none

/-- The pattern of a fill. -/
def Sys2Proof.Claims.copyPattern : Instr → Word
  | .fill _ _ _ _ pat => pat
  | _ => 0

/-- The barrier that a job counts its bytes at. -/
def Sys2Proof.Claims.jobBarrier (s : State) (i : Instr) : Option Nat := (copyBarrier i).bind (barrierKey s s.cur.1)

/-- R378, R380, R384 to R390: cnop and bartx finish once every earlier command has completed, bartx counting its bytes at
its barrier. A job's turn sends the row at its place: the bytes of the source address, or the pattern, to the destination
address of that row, each line in rising order, and goes on with the next row; after its last row its accesses are all made
and its handles settle. A row whose address is not aligned, or whose bytes may not be read, fails the job, which is fatal once
what it has sent is answered. -/
def Sys2Proof.Claims.copyTurns : Prop :=
  (∀ (s : State) (ws : WaitSig) (j : CJob), turnOf s (.cnop ws) j →
    exec (.cnop ws) s = .next (settle (putJob s s.cur.1
      { j with accessed := decide (∀ x ∈ (Machine.core s s.cur.1).copy.jobs, j.sq ≤ x.sq) }) s.cur.1)) ∧
  (∀ (s : State) (ws : WaitSig) (bc : BitVec 6) (bo : BitVec 17) (n : BitVec 48) (j : CJob), turnOf s (.bartx ws bc bo n) j →
    (∀ x, x ∈ (Machine.core s s.cur.1).copy.jobs → j.sq ≤ x.sq) →
    ∀ key, barrierKey s s.cur.1 (bc.toNat, 16 * bo.toNat) = some key →
    exec (.bartx ws bc bo n) s = .next (settle (putJob (barPut s key (barCount (barGet s key) n.toNat)) s.cur.1
      { j with accessed := true }) s.cur.1)) ∧
  (∀ (s s1 s2 s3 : State) (i : Instr) (j : CJob) (x : CopyOpts) (r : Row) (bs : List Byte) (ls : List (Nat × Nat × Loc)),
    copyOptions i = some x → turnOf s i j → j.left = [] → j.row + 1 = copyRowCount i j → copyRow s i j j.row = some r →
    readRow s s.cur.1 x.strm j (copyPattern i) r = .bytes s1 bs →
    writeLocs s.cur.1 (copyReduction i).isSome s1 (linesOf r.dst r.n) = (s2, ls, none) →
    let out := rowLines s.cur.1 j x.strm (copyReduction i) r bs ls
    sendLines s.cur.1 j.id (jobBarrier s i) (out.length + 1) s2 out = .done s3 →
    exec i s = .next (settle (putJob s3 s.cur.1
      { j with left := [], row := j.row + 1, prog := r.off + r.n, fetched := [], readDone := true, accessed := true })
      s.cur.1)) ∧
  (∀ (s s1 s2 s3 : State) (i : Instr) (j : CJob) (x : CopyOpts) (r : Row) (bs : List Byte) (ls : List (Nat × Nat × Loc)),
    copyOptions i = some x → turnOf s i j → j.left = [] → j.row + 1 < copyRowCount i j → copyRow s i j j.row = some r →
    readRow s s.cur.1 x.strm j (copyPattern i) r = .bytes s1 bs →
    writeLocs s.cur.1 (copyReduction i).isSome s1 (linesOf r.dst r.n) = (s2, ls, none) →
    let out := rowLines s.cur.1 j x.strm (copyReduction i) r bs ls
    sendLines s.cur.1 j.id (jobBarrier s i) (out.length + 1) s2 out = .done s3 →
    exec i s = exec i (putJob s3 s.cur.1
      { j with left := [], row := j.row + 1, prog := r.off + r.n, fetched := [], readDone := false })) ∧
  (∀ (s : State) (i : Instr) (j : CJob) (x : CopyOpts), copyOptions i = some x → turnOf s i j → j.left = [] →
    j.row < copyRowCount i j → copyRow s i j j.row = none →
    ∃ f, exec i s = .next (failJob s s.cur.1 j.id f j.prog) ∧ f.code = 0x42) ∧
  (∀ (s s1 : State) (i : Instr) (j : CJob) (x : CopyOpts) (r : Row) (f : Fatal), copyOptions i = some x → turnOf s i j →
    j.left = [] → j.row < copyRowCount i j → copyRow s i j j.row = some r →
    readRow s s.cur.1 x.strm j (copyPattern i) r = .fatal s1 f →
    exec i s = .next (failJob s1 s.cur.1 j.id f r.off)) ∧
  (∀ (s : State) (c id : Nat) (j : CJob) (f : Fatal) (prog : Nat), findJob (Machine.core s c) id = some j →
    j.failed = none →
    let u := putJob s c { j with failed := some (f, prog) }
    failJob s c id f prog = if jobAwaits u c id then u else copyFatal u c j.words f (firstUnperformed u c id prog))

/-- A job that names no handle, in its core's own scratch. -/
abbrev Sys2Proof.Claims.bareJob (j : CJob) : Prop := j.left = [] ∧ j.row = 0 ∧ j.src = none ∧ j.dst = none ∧ j.shape = []

/-- A pool byte range of the acting core that is its scratch. -/
abbrev Sys2Proof.Claims.scratchRange (s : State) (b n : Nat) : Prop :=
  bnd0 (Machine.core s s.cur.1) ≤ b ∧ b + n ≤ bnd1 (Machine.core s s.cur.1) ∧ b + n ≤ 0x200000

/-- R385, R388: a fill of scratch leaves its pattern there, and a cpy of one row in scratch leaves the source's bytes, as
they stood, at the destination; all other memory is unchanged. -/
def Obligations.ScratchCopies : Prop :=
  (∀ (s : State) (ws : WaitSig) (x : CopyOpts) (len : BitVec 24) (pat : Word) (d : BitVec 57) (b : Nat) (j : CJob),
    let i : Instr := .fill ws (.addr d) x len pat
    turnOf s i j → bareJob j → x.ben = false → Memory.wf s.mem = true → d.toNat = NW + b → b % 8 = 0 →
    scratchRange s b len.toNat →
    ∃ t j', exec i s = .next t ∧ findJob (Machine.core t s.cur.1) j.id = some j' ∧ j'.accessed = true ∧
      (∀ k, k < len.toNat → memRead t.mem (poolBase s.cur.1 + b + k) = pat.extractLsb' (8 * (k % 8)) 8) ∧
      ∀ a, a < poolBase s.cur.1 + b ∨ poolBase s.cur.1 + b + len.toNat ≤ a → memRead t.mem a = memRead s.mem a) ∧
  (∀ (s : State) (ws : WaitSig) (x : CopyOpts) (len : BitVec 24) (shp : BitVec 18) (a d : BitVec 57) (e b : Nat) (j : CJob),
    let i : Instr := .cpy ws 0 (.addr a) (.addr d) x len shp
    turnOf s i j → bareJob j → x.ben = false → Memory.wf s.mem = true → a.toNat = NW + e → d.toNat = NW + b →
    scratchRange s e len.toNat → scratchRange s b len.toNat →
    ∃ t j', exec i s = .next t ∧ findJob (Machine.core t s.cur.1) j.id = some j' ∧ j'.accessed = true ∧
      poolRead t s.cur.1 b len.toNat = poolRead s s.cur.1 e len.toNat ∧
      ∀ y, y < poolBase s.cur.1 + b ∨ poolBase s.cur.1 + b + len.toNat ≤ y → memRead t.mem y = memRead s.mem y)

/-- Element k of a line, w bytes wide. -/
def Sys2Proof.Claims.lineElem (l : Line) (w k : Nat) : Nat := leNat (bytesFrom l (w * k) w)

/-- R244, R377, R379, R391, R392: the oldest command of the ring starts when the engine is free of one, and is admitted
when its wait byte is met, fewer than eight jobs are in flight, its slots are there and its checks pass; it then claims
the next slots. A job whose accesses are all acknowledged completes: its flags enter FLAGS of its placing role, its signal
byte acts, and it is gone. A write refused for a shadow stops its job and holds SHADOW_FULL for its role. -/
def Sys2Proof.Claims.copyJobs : Prop :=
  (∀ (s : State) (c : Nat) (p : CAdm) (i : Instr), coreExists s c = true → (Machine.core s c).copy.adm = some p →
    (Machine.core s c).copy.jobs.length < 8 → engineStopped (Machine.core s c) = false →
    admissionTurn s c (p.words.headD 0) = true → decodeCopy p.words = .ok i →
    slotsReady (Machine.core s c) i = true → copyCheck s c i (shapeWords s c i) = none →
    ∃ t j, exec (.copyJobAdmission c) s = .next t ∧ (Machine.core t c).copy.adm = none ∧
      (Machine.core t c).copy.jobs = (Machine.core s c).copy.jobs ++ [j] ∧ j.words = p.words ∧ j.role = p.role ∧
      j.sq = p.sq ∧ j.row = 0 ∧ j.left = [] ∧ j.accessed = false ∧ j.shape = shapeWords s c i ∧ t.mem = s.mem ∧
      (∀ h pop, sideHandle (copySides i).1 = some (h, pop) →
        let d := desc (Machine.core s c) h
        j.src = some (h, (d.ridx + srcClaims (Machine.core s c) h) % d.slots, pop)) ∧
      (∀ h pop, sideHandle (copySides i).2 = some (h, pop) →
        let d := desc (Machine.core s c) h
        j.dst = some (h, (d.widx + dstClaims (Machine.core s c) h) % d.slots))) ∧
  (∀ (s : State) (c : Nat) (ws : List Word), coreExists s c = true → (Machine.core s c).copy.adm = none →
    copyHead s c = some (ws, true) → 8 ≤ (Machine.core s c).copy.jobs.length →
    ∃ t, exec (.copyJobAdmission c) s = .next t ∧ (Machine.core t c).copy.adm = some
        ⟨ws, tabD (Machine.core s c).copy.owners (Machine.core s c).copy.taken .L, false, (Machine.core s c).copy.taken⟩ ∧
      (desc (Machine.core t c) 15).filled = (desc (Machine.core s c) 15).filled - ws.length ∧
      (Machine.core t c).copy.jobs = (Machine.core s c).copy.jobs) ∧
  (∀ (s : State) (c id : Nat) (j : CJob), coreExists s c = true →
    let u := settle s c
    findJob (Machine.core u c) id = some j → j.accessed = true → j.left = [] → j.stopped = false → j.refused = none → j.failed = none →
    jobOutstanding u c id = false → handlesDone j = true →
    ∃ t, exec (.copyJobCompletion c id) s = .next t ∧ findJob (Machine.core t c) id = none ∧ t.mem = s.mem ∧
      getRole t c j.role = { getRole s c j.role with flags := (getRole s c j.role).flags ||| j.flags } ∧
      (∀ r, r ≠ j.role → getRole t c r = getRole s c r) ∧
      ∀ n, sem (Machine.core t c) n = sem (Machine.core (signal s c (wordWs (j.words.headD 0))) c) n) ∧
  (∀ (s : State) (c id line : Nat) (j : CJob) (v : Word), coreExists s c = true →
    findJob (Machine.core s c) id = some j → refusedAt s c j line = some v → (getRole s c j.role).fin = false →
    trapPending (getRole s c j.role) = false →
    (∀ i, i ∈ (Machine.core s c).copy.jobs → i.stopped = true → i.role ≠ j.role) →
    ∃ t j', exec (.copyJobStop c id line) s = .next t ∧ findJob (Machine.core t c) id = some j' ∧ j'.stopped = true ∧
      j'.refused = none ∧ trapPending (getRole t c j.role) = true ∧ bits (getRole t c j.role).tstat 15 8 = tSHADOW ∧
      pendingTval t c j.role = putBits v 5 0 0 ∧ t.mem = s.mem)

/-- R244, R377 to R392: the copy engine, from admission to completion. -/
def Obligations.CopyEngine : Prop :=
  Claims.copyTurns ∧ Claims.copyJobs

/-- R124, R129, R131, R132, R389: a contribution of group 0, or the one its round's cursor asks for, is applied to its line
as one step, element by element, and acknowledged; one that comes early is held; one turned away is sent again. -/
def Sys2Proof.Claims.contributions : Prop :=
  (∀ (s t : State) (y : Contrib) (fl : BitVec 5), s.contribs = [y] → y.st = .sent → y.x.group = 0 →
    applyLine s (match y.x.src with | .job _ _ => .loc | .peer _ _ => .peer y.gn) y.tgt y.x = .done t fl →
    exec (.reductionContribution y.x) s = .next (ackContrib t y fl)) ∧
  (∀ (s : State) (y : Contrib) (j : Nat), s.contribs = [y] → y.st = .sent → y.x.group ≠ 0 →
    groupOn s y.x.group.toNat = true → slotOf s y.x.group.toNat y.x.srcid = some j → j ≠ 0 →
    roundAt s y.x.group.toNat y.x.line = none →
    ∃ t, exec (.reductionContribution y.x) s = .next t ∧ t.contribs = [{ y with st := .held }] ∧ t.mem = s.mem ∧
      t.rounds = s.rounds) ∧
  (∀ (s : State) (tgt : Target) (x : Contribution), plainLine s x.line → tabSorted s.deck = true →
    Memory.wf s.mem = true → lineHeld s x.line = false →
    let w := if x.dbl then 8 else 4
    (∀ b, b < 128 → bit x.mask b = bit x.mask (b / w * w)) →
    ∃ t fl, applyLine s .loc tgt x = .done t fl ∧ (∀ k, k < 128 / w → lineElem (rawLine t x.line) w k =
        if bit x.mask (w * k) then (sliceOp x.op (8 * w) (lineElem (rawLine s x.line) w k) (lineElem x.data w k)).1
        else lineElem (rawLine s x.line) w k) ∧ ∀ n, n ≠ x.line → sameLine s t n) ∧
  (∀ (s : State) (c id : Nat) (j : CJob) (y : Contrib), coreExists s c = true →
    findJob (Machine.core s c) id = some j → j.stopped = false → j.failed = none → s.contribs = [y] → y.x.src = .job c id → y.st = .retry →
    (y.tgt.peer = none →
      exec (.contributionResend c id) s =
        .next { s with nextId := s.nextId + 1, contribs := [{ y with no := s.nextId, st := .sent }] }) ∧
    (∀ d, y.tgt.peer = some d → ∃ t o, exec (.contributionResend c id) s = .next t ∧ t.contribs = [] ∧
      t.peerOut = s.peerOut ++ [o] ∧ o.dev = d ∧ o.op = .contribute y.x ∧ o.who = .job c id y.off))

/-- R124, R129 to R133, R389: reduction groups, and the contributions to them. -/
def Obligations.ReductionsAtTheSlices : Prop :=
  Claims.reductionGroups ∧ Claims.contributions

/-! ## Collie: submissions -/

/-- The outcome code of the oldest submission (R277, R404). -/
def Sys2Proof.Claims.outcomeCode (s : State) (d : Nat) (u : Submission) : Nat :=
  if (recordFault u.words false).isSome then 0x81
  else
    match placing s d u.xid (recordGi u.words) u.wait with
    | .pool => 0
    | .kennel => 1
    | .reserve => 2
    | .refused => 0x80

/-- R277, R399, R402 to R404: a host launch of 128 bytes at offset 0 joins the submissions, any other is counted in DROPS;
the oldest submission is answered with its outcome code, to the spawning role or in LSTAT; one that is malformed or finds
no place leaves the pool and the Kennel alone; a record of no instance that finds the pool empty is ready in it. The
placing is the first row of R404 that applies. -/
def Sys2Proof.Claims.submissions : Prop :=
  (∀ (s : State) (d off : Nat) (bs : List Byte), d < 4 → booted s = true → tripped s = false →
    (off = 0 ∧ bs.length = 128 → ∃ t u, exec (.hostLaunch d off bs) s = .next t ∧
      (collie t d).subs = (collie s d).subs ++ [u] ∧ u.words = wordsOf 16 bs ∧ u.origin = .host ∧
      u.xid.toNat = bits (reg s 0x102) 15 0 ∧ u.wait = false ∧ u.from_ = none ∧ t.mem = s.mem) ∧
    (off ≠ 0 ∨ bs.length ≠ 128 → ∃ t, exec (.hostLaunch d off bs) s = .next t ∧ t.collies = s.collies ∧
      bits (reg t (rLstat d)) 63 48 = min 0xFFFF (bits (reg s (rLstat d)) 63 48 + 1))) ∧
  (∀ (s : State) (d : Nat) (u : Submission) (rest : List Submission), d < 4 → (collie s d).subs = u :: rest →
    ∃ t, exec (.taskSubmission d) s = .next t ∧ (collie t d).subs = rest ∧
      (∀ c r tag, u.from_ = some (c, r) → (getRole s c r).block = some (.spawn tag) →
        (getRole t c r).block = none ∧ stage c r t = 2 + outcomeCode s d u) ∧
      (u.from_ = none → u.origin = .host → bits (reg t (rLstat d)) 7 0 = outcomeCode s d u) ∧
      (0x80 ≤ outcomeCode s d u → (collie t d).pool = (collie s d).pool ∧ (collie t d).kennel = (collie s d).kennel) ∧
      (outcomeCode s d u = 0 → recordGi u.words = 0 → (collie s d).pool = [] → (collie s d).insts = [] →
        ∃ x, (collie t d).pool = [x] ∧ x.words = u.words ∧ x.xid = u.xid ∧ x.cw = u.cw ∧ x.st = .ready)) ∧
  (∀ (s : State) (d : Nat) (xid gi : BitVec 16) (w : Bool),
    let x := collie s d
    let full := opensTooMany x xid gi
    let p := placing s d xid gi w
    (full = false → x.kennel = [] → x.pool.length < bits (reg s (rClcfg d)) 9 0 → p = .pool) ∧
    (full = false → ¬(x.kennel = [] ∧ x.pool.length < bits (reg s (rClcfg d)) 9 0) → w = true → x.pool.length < 1024 →
      p = .reserve) ∧
    (full = true ∨ (¬(x.kennel = [] ∧ x.pool.length < bits (reg s (rClcfg d)) 9 0) ∧ (w = false ∨ 1024 ≤ x.pool.length)) →
      p = if x.kennel.length < kennelCap s d then .kennel else .refused)) ∧
  (∀ (s : State) (d sl : Nat) (l : Launch), sl < 256 → d = sl / 64 → (slice s sl).queue.findSome? (·.fill) = some l →
    let freed := setSlice s sl { slice s sl with queue := dropFilled (slice s sl).queue }
    let t := newTask (collie s d) (launchSubmission l) sl (some l) 0 none
    let p := placing s d l.xid 0 false
    (recordFault l.words true ≠ none →
      exec (.continuationAccept sl) s = .next (launchFault freed d t 5 1 0)) ∧
    (recordFault l.words true = none → p = .refused → exec (.continuationAccept sl) s = .next s) ∧
    (recordFault l.words true = none → p ≠ .refused →
      (∀ u, u ∈ (collie s d).kennel → u.origin = .cont → u.slice ≠ sl) →
      exec (.continuationAccept sl) s = .next (accept freed d t p))) ∧
  (∀ (s : State) (sl m : Nat), sl < 256 → circNext (slice s sl).ring (slice s sl).lastAdm = some m →
    (slice s sl).queue.length < 32 → (slice s sl).ovf = [] →
    ∃ t, exec (.admissionHoldExpiry sl) s = .next t ∧ (slice t sl).ring = (slice s sl).ring.filter (· ≠ m) ∧
      (slice t sl).queue = (slice s sl).queue) ∧
  (∀ (s : State) (d : Nat) (t : Task) (rest : List Task), d < 4 → (collie s d).kennel = t :: rest → t.decided = false →
    let x := collie s d
    (x.pool.length < bits (reg s (rClcfg d)) 9 0 → opensTooMany x t.xid t.gi = false →
      exec (.kennelMove d) s = .next (settleTasks (traceEvent (setCollie s d
        { x with kennel := rest, knRd := (x.knRd + 1) % kennelSlots s d, pool := x.pool ++ [t] }) d 9 t) d)) ∧
    (bits (reg s (rClcfg d)) 9 0 ≤ x.pool.length ∨ opensTooMany x t.xid t.gi = true →
      exec (.kennelMove d) s = .next s))

/-! ## Collie: counts, nodes, dispatch -/

/-- R409: a release of a position to come is held as a credit; one of an incomplete task whose explicit part is above 0
takes 1 from it; any other is counted in OVREL. SUCCESSOR_SUBMIT tries again what waits: the completion words, the lists
that peers have now given, then each task's entries. R411: the node that became ready first acts on branch A of its list when its predicate word is not 0, else
on branch B. -/
def Sys2Proof.Claims.releasesAndNodes : Prop :=
  (∀ (s : State) (d pos : Nat) (xid gi : BitVec 16) (i : GraphInst), instOf (collie s d) xid gi = some i →
    let t := releasePos s d xid gi pos
    (i.next ≤ pos → ∃ j, instOf (collie t d) xid gi = some j ∧ tabD j.credits pos 0 = tabD i.credits pos 0 + 1 ∧
      (collie t d).pool = (collie s d).pool) ∧
    (pos < i.next → ∀ x n, (collie s d).kennel = [] →
      (collie s d).pool.find? (fun x => x.xid == xid && x.gi == gi && x.pos == pos) = some x →
      (x.expl = n + 1 → ∃ y, findTask (collie t d) x.id = some y ∧ (y.id = x.id) ∧
        (findTask (collie s d) x.id = some x → y = { x with expl := n })) ∧
      (x.expl = 0 → t.collies = s.collies ∧
        bits (reg t (rClstat d)) 47 32 = min 0xFFFF (bits (reg s (rClstat d)) 47 32 + 1)))) ∧
  (∀ (s : State) (d : Nat), d < 4 →
    let u := retryOrphans (retryLate s d) d
    exec (.successorSubmit d) s = .next ((((collie u d).pool.filter fun t => t.st == .acting || !t.todo.isEmpty).map
      (·.id)).foldl (fun s id => advanceTask s d id) u)) ∧
  (∀ (s s1 s2 : State) (d : Nat) (t : Task) (l : List Task) (pb : List Byte) (es : List Word) (na : Nat), d < 4 →
    (((collie s d).pool.filter fun t => isNode t && t.st == .ready).foldl (fun l t => byReady t l) []) = t :: l →
    collieWaits s d t.id t.xid (bits (taskWord t 7) 56 0) 8 = false → listWaits s d t = false →
    collieRead s d t.id t.xid (bits (taskWord t 7) 56 0) 8 = some (s1, pb) → readList s1 d t = .ok (s2, es, na) →
    let branchA := decide (leNat pb ≠ 0)
    exec (.nodeDecide d) s = .next (advanceTask (modTask (forgetRemote s2 d t.id) d t.id fun u =>
      { u with st := .acting, todo := pickEntries es fun j => decide (j < na) == branchA,
               decided := !(branchA && taskKind t == 3) }) d t.id))

/-- R277, R399 to R411: submissions, releases, and graph nodes. -/
def Obligations.SubmissionsAndReleases : Prop :=
  Claims.submissions ∧ Claims.releasesAndNodes

/-- R412 to R415: a level rises by 1, up to 3, while its task is ready; a decision holds, for the first task of the order
that finds one, a position of its own whose cores are all free; a held task whose pages are pinned starts on every core of
its rectangle, with its arguments and no other general or vector register bound; once every role has ended, the next segment of a LOOP task
starts. -/
def Sys2Proof.Claims.dispatching : Prop :=
  (∀ (s : State) (d id : Nat) (t : Task), d < 4 → findTask (collie s d) id = some t → t.st = .ready → isNode t = false →
    bits (reg s (rClcfg d)) 31 16 ≠ 0 →
    (t.level < 3 → ∃ u, exec (.levelRise d id) s = .next u ∧
      findTask (collie u d) id = some { t with level := t.level + 1 }) ∧
    (3 ≤ t.level → exec (.levelRise d id) s = .next s)) ∧
  (∀ (s : State) (d : Nat), d < 4 →
    let x := collie s d
    let pick := (choose s d x.reserve (readyOrder x) []).2
    (pick = none → ∃ u, exec (.dispatchDecision d) s = .next u ∧ (collie u d).pool = x.pool) ∧
    (∀ t p, pick = some (t, p) → t ∈ readyOrder x ∧ p ∈ positions s d t ∧ (∀ c, c ∈ coresAt t p → coreTaken s d c = false) ∧
      ∃ u, exec (.dispatchDecision d) s = .next u ∧ (collie u d).pool =
        x.pool.map fun y => if y.id = t.id then { y with st := .held, place := some p } else y) ∧
    (∀ t r p, readyOrder x = t :: r → p ∈ positions s d t → (∀ c, c ∈ coresAt t p → coreTaken s d c = false) →
      ∃ q, pick = some (t, q))) ∧
  (∀ (s : State) (d : Nat) (t : Task), d < 4 → s.probes = [] →
    (collie s d).pool.find? (fun x => x.st == .held && x.saved.isNone) = some t → t.probes = 4 →
    bits (taskWord t 2) 56 0 = 0 → (∀ c, c ∈ taskCores t → coreFree s c = true) →
    ∃ u, exec (.dispatch d) s = .next u ∧ (∀ y, y ∈ (collie u d).pool → y.id = t.id → y.st = .running) ∧
      ∀ c, c ∈ taskCores t →
        let k := Machine.core u c
        k.task = some t.id ∧ k.xid = t.xid ∧ k.queues = [] ∧ k.hdesc = [] ∧ k.sems = [] ∧ k.qctl = qctlReset ∧
        k.tokLC = 0 ∧ k.tokCS = 0 ∧ k.tokSL = 0 ∧
        k.win.toNat = (if bits (taskWord t 0) 37 22 = 0 then 1024 else bits (taskWord t 0) 37 22) ∧
        ∀ r, let y := getRole u c r
          y.pc.toNat = bits (taskWord t 3) 56 0 ∧ y.fin = false ∧ y.tstat = 0 ∧ y.tvec = reg s (rTvdef d) ∧ y.v = [] ∧
          y.safecnt = 0 ∧ y.walk = 0 ∧ y.flags = 0 ∧
          ∀ n, tabGet y.g n = if 1 ≤ n ∧ n ≤ 4 then some ⟨taskWord t (11 + n), false⟩ else none) ∧
  (∀ (s : State) (d id : Nat) (t : Task), d < 4 → findTask (collie s d) id = some t → t.id = id → t.st = .running →
    lastSegment t = false → allFin s t = true → preempting s d id = false →
    ∃ u, exec (.segmentEnd d id) s = .next u ∧ findTask (collie u d) id = some { t with seg := t.seg + 1 } ∧
      ∀ c, c ∈ taskCores t → ∀ r, getRole u c r = { getRole s c r with
        fin := false, safecnt := 0, pc := BitVec.ofNat 57 (bits (taskWord t (if t.trips < t.seg + 1 then 5 else 4)) 56 0) })

/-- R104, R416: a task whose roles have all ended and whose engines are idle retires once its cores' lines are written
back and acknowledged; one with no list and no completion word then leaves the pool, and its cores are free. -/
def Sys2Proof.Claims.retirement : Prop :=
  (∀ (s : State) (d id : Nat) (t : Task), d < 4 → findTask (collie s d) id = some t → t.st = .running →
    lastSegment t = true → allFin s t = true → (∀ c, c ∈ taskCores t → enginesIdle s c = true) →
    let u := (taskCores t).foldl l1Flush s
    (∀ c, c ∈ taskCores t → (Machine.core u c).writes = []) → listWaits u d t = false →
    exec (.taskRetirement d id) s = .next (retireTask u d t)) ∧
  (∀ (s : State) (d id : Nat) (t : Task), d < 4 → findTask (collie s d) id = some t → t.st = .running →
    lastSegment t = true → allFin s t = true → (∀ c, c ∈ taskCores t → enginesIdle s c = true) →
    let u := (taskCores t).foldl l1Flush s
    (∃ c, c ∈ taskCores t ∧ (Machine.core u c).writes ≠ []) → exec (.taskRetirement d id) s = .next u) ∧
  (∀ (s : State) (d id : Nat) (t : Task), d < 4 → findTask (collie s d) id = some t →
    t.st ≠ .running ∨ lastSegment t = false ∨ allFin s t = false → exec (.taskRetirement d id) s = .next s) ∧
  (∀ (s : State) (d : Nat) (t : Task), d < 4 → (collie s d).pool = [t] → (collie s d).kennel = [] → t.st = .running →
    lastSegment t = true → allFin s t = true → bits (taskWord t 6) 56 0 = 0 → t.todo = [] → t.cw = 0 → t.gi = 0 →
    taskKind t ≤ 1 →
    (∀ c, c ∈ taskCores t → enginesIdle s c = true ∧ (Machine.core s c).l1 = [] ∧ (Machine.core s c).writes = []) →
    ∃ u, exec (.taskRetirement d t.id) s = .next u ∧ (collie u d).pool = [] ∧
      ∀ c, c ∈ taskCores t → (Machine.core u c).task = none ∧
        ∀ r, (getRole u c r).fin = true ∧ (getRole u c r).g = [] ∧ (getRole u c r).v = [])

/-- R104, R412 to R416: how a task comes to run, and how it retires. -/
def Obligations.DispatchingAndRetirement : Prop :=
  Claims.dispatching ∧ Claims.retirement

/-- R419 to R422: a request names a running task by its origin, sets RESULT 1 where there is none, and is refused while
another is in progress; a task that is no LOOP and whose cores can be stopped is saved, with its queues, semaphores, general
registers and counters, and its cores are free, RESULT 0; a saved task resumes at its own position with the registers, counters,
queues and semaphores that were saved. -/
def Obligations.Preemption : Prop :=
  (∀ (s : State) (d : Nat) (x : Word), d < 4 →
    let at_ := (5 * d + bits x 57 55, bits x 54 52, bits x 51 49)
    let mine := (collie s d).pool.find? fun t => t.st == .running && t.place == some at_
    ((collie s d).pre.isSome = true ∨ 2 ≤ bits x 63 62 →
      exec (.preemptRequest d x) s = .next (putReg s (rClstat d) 63 63 1)) ∧
    ((collie s d).pre = none → bits x 63 62 = 1 → mine = none →
      ∃ t, exec (.preemptRequest d x) s = .next t ∧ bits (reg t (rClpre d)) 60 58 = 1 ∧ t.collies = s.collies) ∧
    (∀ k, (collie s d).pre = none → bits x 63 62 = 1 → mine = some k →
      ∃ t, exec (.preemptRequest d x) s = .next t ∧
        (collie t d).pre = some { id := k.id, save := bits x 43 21 * 2 ^ 21 } ∧ (collie t d).pool = (collie s d).pool)) ∧
  (∀ (s : State) (d : Nat) (p : PreReq) (t : Task), d < 4 → (collie s d).pre = some p →
    findTask (collie s d) p.id = some t → t.id = p.id → t.st = .running → taskKind t ≠ 1 →
    (∀ c, c ∈ taskCores t → coreStoppable s false c = true ∧ (Machine.core s c).l1 = [] ∧ (Machine.core s c).writes = []) →
    collectiveOpen s d t.id = false →
    ∃ u y, exec (.preemptSave d) s = .next u ∧ findTask (collie u d) p.id = some y ∧ y.st = .ready ∧ y.place = t.place ∧
      (∃ kept : List Core, y.saved = some (p.save, kept) ∧ kept.length = (taskCores t).length ∧
        ∀ (j c : Nat), (taskCores t)[j]? = some c →
        ∃ k : Core, kept[j]? = some k ∧ k.queues = (Machine.core s c).queues ∧ k.sems = (Machine.core s c).sems ∧
          ∀ r, (k.role r).g = (getRole s c r).g ∧ (k.role r).pc = (getRole s c r).pc) ∧
      (collie u d).pre = none ∧ bits (reg u (rClpre d)) 60 58 = 0 ∧
      ∀ c, c ∈ taskCores t → (Machine.core u c).task = none) ∧
  (∀ (s : State) (d save : Nat) (t : Task) (kept : List Core), d < 4 →
    (collie s d).pool.find? (fun x => x.st == .held && x.saved.isSome && (taskCores x).all (coreFree s)) = some t →
    t.saved = some (save, kept) → kept.length = (taskCores t).length →
    ∃ u, exec (.resume d) s = .next u ∧ (∀ y, y ∈ (collie u d).pool → y.id = t.id → y.st = .running ∧ y.saved = none) ∧
      ∀ (j c : Nat) (k : Core), (taskCores t)[j]? = some c → kept[j]? = some k →
        (Machine.core u c).task = some t.id ∧ (Machine.core u c).queues = k.queues ∧ (Machine.core u c).sems = k.sems ∧
        (Machine.core u c).xid = t.xid ∧ ∀ r, (getRole u c r).g = (k.role r).g ∧ (getRole u c r).v = (k.role r).v ∧
          (getRole u c r).p = (k.role r).p ∧ (getRole u c r).pc = (k.role r).pc ∧ (getRole u c r).flags = (k.role r).flags)

/-! ## Ports, routes, page-table multicast -/

/-- R423, R425, R427: a port whose replays fail goes DOWN, which DOWNS counts and which loses the answers it awaited; a
replay is counted while a port is not DOWN; a write to PORTCFG that changes EN or LANES takes the port to TRAINING and loses no
answer that it awaits; training of a port with EN = 1 ends in UP with the lanes that LANES says. -/
def Sys2Proof.Claims.ports : Prop :=
  (∀ (s : State) (p : Nat), p < 12 →
    (portState s p ≠ 0 → ∃ t, exec (.portDown p) s = .next t ∧ portState t p = 0 ∧ bits (reg t (rPortstat p)) 61 54 = 0 ∧
      bits (reg t (rPortstat p)) 53 48 = min 63 (bits (reg s (rPortstat p)) 53 48 + 1) ∧
      (∀ q, q ∈ t.peerOut → q.port ≠ p) ∧ (∀ q, q ∈ t.sent → q.port ≠ p) ∧ t.peerOut.length = s.peerOut.length) ∧
    (portState s p = 0 → exec (.portDown p) s = .next s) ∧
    (∃ t, exec (.flitReplay p) s = .next t ∧ bits (reg t (rPortstat p)) 47 32 =
      if portState s p = 0 then bits (reg s (rPortstat p)) 47 32
      else min 0xFFFF (bits (reg s (rPortstat p)) 47 32 + 1))) ∧
  (∀ (s : State) (p : Nat) (x : Word), p < 12 →
    let old := reg s (rPortcfg p)
    let lanes := if bits x 57 56 = 0 then bits old 57 56 else bits x 57 56
    old = ofFields [(63, (bit old 63).toNat), (56, bits old 57 56)] →
    ∃ t, exec (.portcfgWrite p x) s = .next t ∧ bit (reg t (rPortcfg p)) 63 = bit x 63 ∧
      bits (reg t (rPortcfg p)) 57 56 = lanes ∧
      (bit x 63 = bit old 63 ∧ lanes = bits old 57 56 → portState t p = portState s p) ∧
      (¬(bit x 63 = bit old 63 ∧ lanes = bits old 57 56) → portState t p = 1) ∧
      t.peerOut = s.peerOut ∧ t.sent = s.sent) ∧
  (∀ (s : State) (p : Nat), p < 12 →
    (portState s p = 1 → bit (reg s (rPortcfg p)) 63 = true → ∃ t, exec (.portUp p) s = .next t ∧ portState t p = 2 ∧ bits (reg t (rPortstat p)) 61 54 =
      match bits (reg s (rPortcfg p)) 57 56 with | 1 => 0x0F | 2 => 0xF0 | _ => 0xFF) ∧
    (portState s p ≠ 1 ∨ bit (reg s (rPortcfg p)) 63 = false → exec (.portUp p) s = .next s))

/-- R426, R428: RTCMD writes and reads V and PORT of a device's entry in the route table, refusing a valid one with a port above
11; a page-table write that arrives over an UP port with a number above the last of its origin, at an entry that its slice does
not hold back, is applied there, acknowledged, and sent on over the other ports of FWD; an acknowledgement leaves one port fewer to wait for. -/
def Sys2Proof.Claims.routesAndMulticast : Prop :=
  (∀ (s : State) (x : Word),
    let dev := bits x 27 16
    (bit x 4 = true → 11 < bits x 3 0 → ∃ t, exec (.routeWrite x) s = .next t ∧ bit (reg t 0x440) 61 = true ∧
      t.routes = s.routes) ∧
    (bit x 4 = false ∨ bits x 3 0 ≤ 11 → ∃ t, exec (.routeWrite x) s = .next t ∧ bit (reg t 0x440) 61 = false ∧
      routePort t dev = (if bit x 4 then bits x 3 0 else 12) ∧
      tabD t.routes dev (0 : BitVec 5) = BitVec.ofNat 5 (bits x 4 0) ∧
      ∀ d, d ≠ dev → tabSorted s.routes = true → tabGet t.routes d = tabGet s.routes d) ∧
    (∃ t, exec (.routeRead x) s = .next t ∧ t.routes = s.routes ∧ bits (reg t 0x440) 27 16 = dev ∧
      bits (reg t 0x440) 4 0 = (tabD s.routes dev (0 : BitVec 5)).toNat ∧
      (bit (reg t 0x440) 4 = true → bits (reg t 0x440) 3 0 = routePort s dev))) ∧
  (∀ (s : State) (p origin sq : Nat) (dpa : BitVec 44) (v : Word), p < 12 →
    (portState s p ≠ 2 ∨ sq ≤ tabD s.ptmcLast origin 0 ∨ entryHeld s dpa.toNat = true → exec (.ptmcWriteArrival p origin sq dpa v) s = .next s) ∧
    (portState s p = 2 → tabD s.ptmcLast origin 0 < sq → entryHeld s dpa.toNat = false →
      ∃ t, exec (.ptmcWriteArrival p origin sq dpa v) s = .next t ∧ tabD t.ptmcLast origin 0 = sq ∧
        t.ptmcAck = s.ptmcAck ++ [(origin, sq, p)] ∧
        (hasMem s dpa.toNat = true → t.mem = (putEntry s (dpa.toNat / 8 * 8) v).mem ∧
          t.deck = (putEntry s (dpa.toNat / 8 * 8) v).deck) ∧
        (hasMem s dpa.toNat = false → t.mem = s.mem) ∧
        ∀ q, q ∈ t.ptmcFwd → q ∈ s.ptmcFwd ∨ (q.origin = origin ∧ q.sq = sq ∧ q.dpa = dpa ∧ q.val = v ∧ p ∉ q.ports))) ∧
  (∀ (s : State) (o : PtmcOut) (q : Nat) (l : List Nat), s.ptmcOut = [{ o with ports := q :: l }] →
    ∃ t, exec (.ptmcAcknowledgement o.origin o.sq) s = .next t ∧
      t.ptmcOut = if l = [] then [] else [{ o with ports := l }])

/-- R421 to R427: ports, routes and page-table multicast. -/
def Obligations.PortsAndRoutes : Prop :=
  Claims.ports ∧ Claims.routesAndMulticast

/-! ## Peers and collectives -/

/-- A request to a peer is answered over a port that is UP, with the status that came; over any other port that does not
train, with NOROUTE. -/
def Sys2Proof.Claims.answered (s : State) (p : PeerOut) (st : PeerStatus) : PeerStatus :=
  if p.port < 12 ∧ portState s p.port = 2 then st else .noRoute

/-- R72, R175, R179, R427: an access that arrives at an UP port is performed at its home slice and answered: NOMEM without memory,
GENMISMATCH for a VER block of another generation, else the bytes read, or the status of its write, of a whole block in one; one
whose line is held waits, and nothing is answered while the port is not UP. An answer to a request of the device gives a fetch its word, a load its part, a write its
acknowledgement; one over a port that trains waits. -/
def Obligations.PeerAccesses : Prop :=
  (∀ (s : State) (p : Nat) (q : PeerReq), p < 12 →
    let a := peerDpa q.op
    (portState s p ≠ 2 → exec (.peerRequest p q) s = .next s) ∧
    (portState s p = 2 → peerNoMem s a = true →
      exec (.peerRequest p q) s = .next { s with peerIn := s.peerIn ++ [(q.tag, .noMem, [])] }) ∧
    (portState s p = 2 → peerNoMem s a = false → peerWaits s p q.op = true → exec (.peerRequest p q) s = .next s) ∧
    (portState s p = 2 → peerNoMem s a = false → peerWaits s p q.op = false → genClash s a q.gn = true →
      exec (.peerRequest p q) s = .next { s with peerIn := s.peerIn ++ [(q.tag, .genMismatch, [])] }) ∧
    (portState s p = 2 → peerNoMem s a = false → peerWaits s p q.op = false → genClash s a q.gn = false →
      (∀ n, q.op = .read (BitVec.ofNat 44 a) n →
        let x := sliceRead s .second false (a / 128) (a % 128) n
        exec (.peerRequest p q) s = .next { x.1 with peerIn := x.1.peerIn ++
          [if x.2.2 then (q.tag, .poisoned, []) else (q.tag, .ok, bytesFrom x.2.1 (a % 128) n)] }) ∧
      (∀ m d t, q.op = .write (BitVec.ofNat 44 a) m d → sliceWrite s (.peer q.gn) .second false (a / 128) m d = .done t →
        exec (.peerRequest p q) s = .next { t with peerIn := t.peerIn ++ [(q.tag, .ok, [])] }) ∧
      (∀ m d t v, q.op = .write (BitVec.ofNat 44 a) m d →
        sliceWrite s (.peer q.gn) .second false (a / 128) m d = .full t v →
        exec (.peerRequest p q) s = .next { t with peerIn := t.peerIn ++ [(q.tag, .shadowFull, wordBytes v)] }) ∧
      (∀ d t, q.op = .block (BitVec.ofNat 44 a) d →
        writeBlock q.gn s ((peerLines q.op).zipIdx.map fun x => (x.1, blockLine d x.2)) = .done t →
        exec (.peerRequest p q) s = .next { t with peerIn := t.peerIn ++ [(q.tag, .ok, [])] }) ∧
      (∀ op dbl x t old fl, q.op = .amo (BitVec.ofNat 44 a) op dbl x →
        sliceRmw s (.peer q.gn) .second a (if dbl then 8 else 4) (amoStep op (if dbl then 8 else 4) x.toNat) =
          .done t old fl →
        exec (.peerRequest p q) s = .next { t with peerIn := t.peerIn ++
          [(q.tag, .ok, leBytes 8 old ++ [fl.zeroExtend 8])] }))) ∧
  (∀ (s : State) (tag : Nat) (st : PeerStatus) (bs : List Byte), (∀ p, p ∈ s.peerOut → p.tag ≠ tag) →
    exec (.peerResponse tag st bs) s = .next s) ∧
  (∀ (s : State) (p : PeerOut) (st : PeerStatus) (bs : List Byte), s.peerOut = [p] →
    (p.port < 12 ∧ portState s p.port = 1 → exec (.peerResponse p.tag st bs) s = .next s) ∧
    (¬(p.port < 12 ∧ portState s p.port = 1) →
      (∀ c r key, p.who = .fetch c r key → answered s p st = .ok →
        ∃ t, exec (.peerResponse p.tag st bs) s = .next t ∧ t.peerOut = [] ∧
          tabGet (Machine.core t c).icache key = some (BitVec.ofNat 64 (leNat (answerBytes bs 8)))) ∧
      (∀ c r id part l x n a, p.who = .load c r id part → p.op = .read a n → findLoad s c r id = some l →
        l.parts[part]? = some x → answered s p st = .ok →
        ∃ t l' y, exec (.peerResponse p.tag st bs) s = .next t ∧ t.peerOut = [] ∧ findLoad t c r id = some l' ∧
          l'.parts[part]? = some y ∧ y.got = some (answerBytes bs n)) ∧
      (∀ c id w, p.who = .write c id → findWrite (Machine.core s c) id = some w → w.thru = false →
        (answered s p st = .ok → ∃ t, exec (.peerResponse p.tag st bs) s = .next t ∧ t.peerOut = [] ∧
          findWrite (Machine.core t c) id = some { w with performed := true }) ∧
        (answered s p st = .noRoute → contextAt s c = true → ∃ u, exec (.peerResponse p.tag st bs) s =
          .next (siteFatal u c (firstRole w.roles) w.site (fatalAt 0x44 3 w.site.va.toNat (peerDpa p.op))) ∧
          u.mem = s.mem))))

/-- R279, R432, R434, R435: a part that arrives over an UP port is taken by the record it names when it fits, is parked
when it names none and there is room, and is dropped over any other port; parts parked too long are refused and counted;
a collective that has made and closed everything completes and adds 1 to its semaphore; one that makes no progress for
2 ms, or whose part was refused or lost, fails, and the context that issued it takes the error. -/
def Obligations.Collectives : Prop :=
  (∀ (s : State) (p : Nat) (x : CollPart), p < 12 →
    (portState s p ≠ 2 → exec (.collectivePart p x) s = .next s) ∧
    (portState s p = 2 → matchPart s p x = none →
      (parkedBytes (port s p) + x.bytes.length ≤ 2 ^ 18 → ∃ t, exec (.collectivePart p x) s = .next t ∧
        (port t p).parked = (port s p).parked ++ [x] ∧ (port t p).posted = (port s p).posted) ∧
      (2 ^ 18 < parkedBytes (port s p) + x.bytes.length → exec (.collectivePart p x) s = .next s)) ∧
    (∀ q y, portState s p = 2 → matchPart s p x = some (q, y) → partFits y x = true →
      exec (.collectivePart p x) s = .next (walkOn q (walkFuel (joinPart y x))
        (answerPart (putPosted s q (joinPart y x)) p x .ok) (joinPart y x))) ∧
    (∀ q y, portState s p = 2 → matchPart s p x = some (q, y) → partFits y x = false →
      ∃ t, exec (.collectivePart p x) s = .next t ∧ (port t p).answers = (port s p).answers ++ [(x, .refused)] ∧
        (port t p).posted = (port s p).posted)) ∧
  (∀ (s : State) (p : Nat) (x : CollPart) (r : List CollPart), p < 12 → (port s p).parked = x :: r →
    ∃ t, exec (.parkedPartDiscard p) s = .next t ∧ (port t p).parked = r ∧
      (port t p).answers = (port s p).answers ++ [(x, .refused)] ∧
      bits (reg t (rPortstat p)) 23 16 = min 255 (bits (reg s (rPortstat p)) 23 16 + 1)) ∧
  (∀ (s : State) (p k : Nat) (x : Posted), p < 12 → findPosted s p k = some x →
    (x.walked = spanTuples x.words → x.closed * spanBound x.words 0 = spanTuples x.words → x.out = [] →
      ∃ t, exec (.collectiveComplete p k) s = .next t ∧ findPosted t p k = none ∧ t.mem = s.mem ∧
        ∀ n, x.sem = some n → isSystem x.core = true ∨ (x.task.isSome = true ∧ (Machine.core s x.core).task = x.task) →
          sem (Machine.core t x.core) n.toNat = min (sem (Machine.core s x.core) n.toNat + 1) 0xFFFFFFFF) ∧
    (spanDone x = false →
      ∃ u, findPosted u p k = none ∧ u.mem = s.mem ∧ u.cores = s.cores ∧ exec (.collectiveTimeout p k) s = .next
        (if isSystem x.core = true ∨ (x.task.isSome = true ∧ (Machine.core s x.core).task = x.task) then
          engineFatal u x.core (fENGINE 0x32) 3 (x.words.take 4) 0 else u))) ∧
  (∀ (s : State) (p tag : Nat) (st : PartStatus) (q : SentPart) (x : Posted), p < 12 → s.sent = [q] → q.tag = tag →
    q.port < 12 → findPosted s q.home q.k = some x →
    (portState s q.port = 1 → exec (.partAnswer p tag st) s = .next s) ∧
    (portState s q.port = 2 → st = .ok → ∃ t y, exec (.partAnswer p tag st) s = .next t ∧ t.sent = [] ∧
      findPosted t q.home q.k = some y ∧ y.out = x.out.filter (· ≠ tag) ∧ y.got = x.got) ∧
    (portState s q.port = 0 ∨ (portState s q.port = 2 ∧ st ≠ .ok) →
      ∃ u, findPosted u q.home q.k = none ∧ u.mem = s.mem ∧ u.cores = s.cores ∧ exec (.partAnswer p tag st) s = .next
        (if isSystem x.core = true ∨ (x.task.isSome = true ∧ (Machine.core s x.core).task = x.task) then
          engineFatal u x.core (fENGINE 0x31) 3 (x.words.take 4) 0 else u)))

/-! ## The host -/

/-- The register that a read event of the host names. -/
def Sys2Proof.Claims.hostReads : Instr → Option Nat
  | .doorbellRead d => if d < 4 then some (0x474 + d) else none
  | .ehptrRead n => if n < 8 then some (0x150 + n) else none
  | .shstatRead d => if d < 4 then some (0x128 + d) else none
  | .ksstatRead => some 0x111
  | .lstatRead d => if d < 4 then some (0x414 + d) else none
  | .knstatRead d => if d < 4 then some (0x40C + d) else none
  | .clstatRead d => if d < 4 then some (0x404 + d) else none
  | .portstatRead p => if p < 12 then some (0x430 + p) else none
  | .fqptrRead d => if d < 4 then some (0x454 + d) else none
  | .trptrRead d => if d < 4 then some (0x464 + d) else none
  | _ => none

/-- The fields that a read of the register clears (R75, R154, R402, R405, R406, R425, R445, R452, R454), by high and low
bit. -/
def Sys2Proof.Claims.clearedByRead (n : Nat) : List (Nat × Nat) :=
  if 0x474 ≤ n then [(63, 0)]
  else if 0x464 ≤ n then [(63, 48)]
  else if 0x454 ≤ n then [(63, 48), (47, 32)]
  else if 0x430 ≤ n then [(53, 48), (47, 32), (23, 16)]
  else if 0x414 ≤ n then [(63, 48)]
  else if 0x40C ≤ n then [(20, 0)]
  else if 0x404 ≤ n then [(47, 32)]
  else if 0x150 ≤ n then [(63, 48)]
  else [(47, 32)]

/-- Bit b of a register is in one of the fields. -/
def Sys2Proof.Claims.inFields (l : List (Nat × Nat)) (b : Nat) : Bool := l.any fun f => decide (f.2 ≤ b ∧ b ≤ f.1)

/-- The host's requests are taken: boot is complete and the part has not tripped. -/
def Sys2Proof.Claims.hostOpen (s : State) : Prop := booted s = true ∧ tripped s = false

/-- R3, R448, R453, R454: a register read by the host answers the register's value and clears the fields whose access is RS,
changing no other bit; HERR and DOORBELL likewise. A read of BAR0 answers a device register, TSTAMP, the captured counts, HERR,
or a word of a core's debug window; one that is not aligned is refused. After a trip BOOTSTAT and THERMCTL alone are answered
(R466), and BOOTSTAT when boot has stopped (R458). -/
def Sys2Proof.Claims.hostRegisterReads : Prop :=
  (∀ (s : State) (i : Instr) (n : Nat), hostReads i = some n → hostOpen s →
    ∃ t, exec i s = .next t ∧ t.hostOut = .data (wordBytes (regView s n)) ∧ t.mem = s.mem ∧ t.cores = s.cores ∧
      (n ≠ 0x111 → ∀ b, b < 64 → bit (reg t n) b = if inFields (clearedByRead n) b then false else bit (reg s n) b) ∧
      (n = 0x111 → t.regs = s.regs ∧ t.ks = { s.ks with late := 0 }) ∧
      (∀ d, d < 4 → n = 0x474 + d → regView s n = reg s n)) ∧
  (∀ s : State, hostOpen s →
    exec .herrRead s = .next { s with hostOut := .data (wordBytes s.herr), herr := 0 }) ∧
  (∀ (s : State) (d : Nat) (x : Word), d < 4 → hostOpen s →
    ∃ t, exec (.doorbell d x) s = .next t ∧ reg t (0x474 + d) = reg s (0x474 + d) ||| x ∧
      (Machine.core t (960 + d)).wake = true ∧ t.hostOut = .written ∧ t.mem = s.mem) ∧
  (∀ (s : State) (off : Nat), hostOpen s →
    (off % 8 ≠ 0 → ∃ t, execBar0Read off s = .next t ∧ t.hostOut = .unsupported ∧ t.mem = s.mem) ∧
    (∀ n, off = 8 * n → 0x100 ≤ n → n < 0x800 →
      ∃ t, execBar0Read off s = .next t ∧ t.hostOut = .data (wordBytes (regView s n)) ∧ t.mem = s.mem) ∧
    (off = 0x104000 → execBar0Read off s = .next { s with hostOut := .data (wordBytes s.tstamp) }) ∧
    (∀ d, d < 4 → off = 0x104008 + 8 * d →
      execBar0Read off s = .next { s with hostOut := .data (wordBytes (tabD s.tscap d 0)) }) ∧
    (off = 0x104028 → execBar0Read off s = .next { s with hostOut := .data (wordBytes s.herr), herr := 0 }) ∧
    (∀ c i, coreExists s c = true → i < 5 → off = 0x2000000 + 0x1000 * c + 8 * i →
      execBar0Read off s = .next { s with hostOut := .data (wordBytes (windowView s c i)) })) ∧
  (∀ (s : State) (n : Nat), tripped s = true →
    (n = 0x471 ∨ n = 0x4A0 → execBar0Read (8 * n) s = .next { s with hostOut := .data (wordBytes (regView s n)) }) ∧
    (n ≠ 0x471 → n ≠ 0x4A0 → execBar0Read (8 * n) s = .next (hostAbort s))) ∧
  (∀ (s : State), tripped s = false → booted s = false → bits (reg s 0x471) 63 56 ≠ 0 →
    execBar0Read (8 * 0x471) s = .next { s with hostOut := .data (wordBytes (regView s 0x471)) })

/-- R29, R73, R105, R453, R454: a host access whose every line translates and none of which is held is performed in order
at its home slices; one of which a line does not translate is aborted and counted, with no byte performed. -/
def Sys2Proof.Claims.hostAccesses : Prop :=
  (∀ (s : State) (va n : Nat), hostOpen s →
    (hostLocate .read va s (linesOf va n) = none → exec (.hostRead va n) s = .next (hostAbort s)) ∧
    (∀ t ps, hostLocate .read va s (linesOf va n) = some (t, ps) → ps.any (hostHeld s false) = false →
      let g := hostGet t ps
      (g.2.2 = false → exec (.hostRead va n) s = .next { g.1 with hostOut := .data g.2.1 }) ∧
      (g.2.2 = true → exec (.hostRead va n) s = .next { g.1 with
        hostOut := .poisoned, herr := putBits g.1.herr 31 16 (min 0xFFFF (bits g.1.herr 31 16 + 1)) }))) ∧
  (∀ (s : State) (va : Nat) (bs : List Byte), hostOpen s →
    (hostLocate .write va s (linesOf va bs.length) = none → exec (.hostWrite va bs) s = .next (hostAbort s)) ∧
    (∀ t ps, hostLocate .write va s (linesOf va bs.length) = some (t, ps) → ps.any (hostHeld s true) = false →
      let w := hostPut bs (ps.length + 1) t ps
      (w.2 = false → exec (.hostWrite va bs) s = .next { w.1 with hostOut := .written }) ∧
      (w.2 = true → exec (.hostWrite va bs) s = .next (hostAbort w.1)))) ∧
  (∀ (s : State), ∃ t, t = hostAbort s ∧ t.hostOut = .completerAbort ∧ t.mem = s.mem ∧
    bits t.herr 63 48 = min 0xFFFF (bits s.herr 63 48 + 1)) ∧
  (∀ (s : State) (off n : Nat), hostOpen s →
    (off % 8 ≠ 0 ∨ n ≠ 8 → ∃ t, exec (.unsupportedRequest off n) s = .next t ∧ t.hostOut = .unsupported ∧
      bits t.herr 47 32 = min 0xFFFF (bits s.herr 47 32 + 1) ∧ t.mem = s.mem ∧ t.regs = s.regs)) ∧
  (∀ (s : State) (x : Word), hostOpen s → ∃ t, exec (.tstampWrite x) s = .next t ∧ t.tstamp = x ∧ t.hostOut = .written ∧
    ∀ d, d < 4 → tabGet t.tscap d = some (Config.clockAt (960 + d) s.tick)) ∧
  (∀ (s : State) (n : Nat) (x : Word), hostOpen s → 0x100 ≤ n → n < 0x800 → (n < 0x474 ∨ 0x478 ≤ n) →
    exec (.registerWrite n x) s = .next (regWrite s n x)) ∧
  (∀ (s : State) (i : Instr), (∃ va n, i = .hostRead va n) ∨ (∃ va bs, i = .hostWrite va bs) ∨ i = .herrRead ∨
      (∃ n x, i = .registerWrite n x) →
    (tripped s = true → exec i s = .next (hostAbort s)) ∧
    (tripped s = false → booted s = false → exec i s = .next s))

/-- R79 to R82: the host port. -/
def Obligations.HostPort : Prop :=
  Claims.hostRegisterReads ∧ Claims.hostAccesses

/-! ## The debug window -/

/-- R448 to R450: HALT stops a role at its next word boundary, or once its word in progress has completed, and clearing it
lets the role go on past a breakpoint at its counter; STEP lets it issue one word; BRKEN is written with them. A role halts
before a word at a breakpoint address. DBGDATA reads and writes the selected item of a halted role, and sets ERR for a role
that is not halted. -/
def Obligations.DebugWindow : Prop :=
  (∀ (s : State) (c : Nat) (x : Word), coreExists s c = true → hostOpen s → bits x 6 4 = 0 →
    ∃ t, exec (.debugHalt c x) s = .next t ∧ (Machine.core t c).dbg.brken = bit x 8 ∧ t.mem = s.mem ∧
      ∀ r, r ∈ coreRoles c →
        (bit x (roleNum r) = true → haltWaits s c r = false → bit (Machine.core t c).dbg.halt (roleNum r) = true) ∧
        (bit x (roleNum r) = true → haltWaits s c r = true → bit (Machine.core s c).dbg.halt (roleNum r) = false →
          bit (Machine.core t c).dbg.halt (roleNum r) = false ∧ whyOf (Machine.core t c) r = 5) ∧
        (bit x (roleNum r) = false → bit (Machine.core t c).dbg.halt (roleNum r) = false ∧
          (bit (Machine.core s c).dbg.halt (roleNum r) = true → (getRole t c r).bpPass = true ∧
            whyOf (Machine.core t c) r = 0)) ∧
        (getRole t c r).g = (getRole s c r).g ∧ (getRole t c r).pc = (getRole s c r).pc) ∧
  (∀ (s : State) (c : Nat) (r : RoleId), roleExists s c r = true → hostOpen s →
    ∃ t, exec (.debugStep c r) s = .next t ∧ bit (Machine.core t c).dbg.step (roleNum r) = true ∧
      bit (Machine.core t c).dbg.halt (roleNum r) = false ∧ (getRole t c r).pc = (getRole s c r).pc ∧ t.mem = s.mem) ∧
  (∀ (s : State) (c : Nat) (r : RoleId) (w : Word), roleExists s c r = true → roleHeld s c r = false →
    (getRole s c r).bpPass = false → breakAt (Machine.core s c) r (getRole s c r).pc = true →
    peekWord s c r (getRole s c r).pc.toNat = some w → executes c r w = true →
    ∃ t, exec (.addressBreakpoint c r) s = .next t ∧ bit (Machine.core t c).dbg.halt (roleNum r) = true ∧
      whyOf (Machine.core t c) r = 4 ∧ getRole t c r = getRole s c r ∧ t.mem = s.mem) ∧
  (∀ (s : State) (c : Nat), coreExists s c = true → hostOpen s →
    let k := Machine.core s c
    let r := selRole c k
    let i := selIndex k
    let x := getRole s c r
    (bit k.dbg.halt (roleNum r) = false → ∃ t, exec (.dbgdataRead c) s = .next t ∧ t.hostOut = .data (wordBytes 0) ∧
      (Machine.core t c).dbg.err = true) ∧
    (bit k.dbg.halt (roleNum r) = true →
      (∀ v, selKind k = 0 → 1 ≤ i → i < 48 → tabGet x.g i = some v →
        exec (.dbgdataRead c) s = .next { s with hostOut := .data (wordBytes v.val) }) ∧
      (selKind k = 0 → 1 ≤ i → i < 48 → tabGet x.g i = none → ∃ t, exec (.dbgdataRead c) s = .next t ∧
        t.hostOut = .data (wordBytes 0) ∧ (Machine.core t c).dbg.unb = true) ∧
      (∀ v, selKind k = 1 → i / 64 < 28 → tabGet x.v (i / 64) = some v → exec (.dbgdataRead c) s = .next { s with
        hostOut := .data (wordBytes ((lane v (i % 64)).zeroExtend 64)) }) ∧
      (selKind k = 3 → exec (.dbgdataRead c) s = .next { s with hostOut := .data (wordBytes (x.pc.zeroExtend 64)) }))) ∧
  (∀ (s : State) (c : Nat) (w : Word), coreExists s c = true → hostOpen s →
    let k := Machine.core s c
    let r := selRole c k
    let i := selIndex k
    (bit k.dbg.halt (roleNum r) = false → ∃ t, exec (.dbgdataWrite c w) s = .next t ∧ (Machine.core t c).dbg.err = true ∧
      getRole t c r = getRole s c r) ∧
    (bit k.dbg.halt (roleNum r) = true →
      (selKind k = 0 → 1 ≤ i → i < 48 → ∃ t, exec (.dbgdataWrite c w) s = .next t ∧
        tabGet (getRole t c r).g i = some ⟨w, false⟩ ∧
        ∀ n, n ≠ i → tabGet (getRole t c r).g n = tabGet (getRole s c r).g n) ∧
      (selKind k = 3 → ∃ t, exec (.dbgdataWrite c w) s = .next t ∧
        (getRole t c r).pc.toNat = 8 * bits w 56 3 ∧ (getRole t c r).g = (getRole s c r).g)))

/-! ## How a word ends, and what it leaves alone -/

/-- R203, R205, R220, R241: a word that completes moves its role's counter, counts in WALK outside a handler and in
SAFECNT, pops the token of its pop-before unless it has, and pushes that of its push-after once the role's memory operations and releases are
done and the FIFO has room; it changes no register and no memory. A word whose guard does not hold does only this. -/
def Obligations.WordsComplete : Prop :=
  (∀ (s : State) (c : Nat) (r : RoleId) (m : Mark) (len : Nat) (fl : Flow),
    let x := getRole s c r
    let t := complete s c r m len fl
    let y := getRole t c r
    y.pc = (match fl with
      | .jump a => BitVec.ofNat 57 a
      | .stay => x.pc
      | _ => x.pc + BitVec.ofNat 57 (8 * len)) ∧
    y.walk = (if inHandler x = true ∨ fl = .stay then x.walk else x.walk + BitVec.ofNat 64 len) ∧
    y.safecnt = (if fl = .safePoint then 0 else x.safecnt + 1) ∧
    upCount (Machine.core t c) r = upCount (Machine.core s c) r - (if m.pb = true ∧ x.popDone = false then 1 else 0) ∧
    (m.pa = false → x.pushDue = false → downCount (Machine.core t c) r = downCount (Machine.core s c) r) ∧
    (m.pa = true → x.pushDue = false → x.block = none →
      (pushReady s c r = true ∧ downCount (Machine.core s c) r < 16 →
        downCount (Machine.core t c) r = downCount (Machine.core s c) r + 1 ∧ y.pushDue = false) ∧
      (pushReady s c r = false ∨ 16 ≤ downCount (Machine.core s c) r →
        downCount (Machine.core t c) r = downCount (Machine.core s c) r ∧ y.pushDue = true)) ∧
    y.g = x.g ∧ y.v = x.v ∧ y.p = x.p ∧ y.lc = x.lc ∧ y.flags = x.flags ∧ y.tstat = x.tstat ∧ t.mem = s.mem ∧
    t.regs = s.regs ∧ (∀ q, q ≠ r → getRole t c q = getRole s c q) ∧
    ∀ d, d ≠ c → Machine.core t d = Machine.core s d) ∧
  (∀ (s : State) (i : Instr) (m : Mark) (g : Guard),
    (∃ x, alu3Of s i = some x ∧ m = x.m ∧ g = x.g) ∨ (∃ x, alu2Of i = some x ∧ m = x.m ∧ g = x.g) ∨
      (∃ x, predOf i = some x ∧ m = x.m ∧ g = x.g) ∨ (∃ x, loadOf i = some x ∧ m = x.m ∧ g = x.g) ∨
      (∃ sz a e, i = .st m sz a e g) →
    ready s i m 1 = true → guardHolds s g = false → exec i s = .next (finish s s m 1 .seq))

/-- The queue that a scalar operand names. -/
def Sys2Proof.Claims.queueOf (x : G6) : Nat := x.toNat % 8

/-- R90, R206 to R208, R213, R214, R226, R241: g0 reads 0 and discards what is written to it; a general register reads
what was written; codes 48 to 55 take the oldest entry of a queue and 56 to 63 leave it; a write to a queue appends. A word
that reads an unbound register traps with UNBOUND and its number; one that uses a queue of another role, or pops or pushes
past the ends of one of its own, traps with QUEUE; one that must wait for a queue takes the token of its pop-before (R89) and
changes nothing else but what it waits for. -/
def Obligations.OperandForms : Prop :=
  (∀ (s : State) (v : Reg), src s s 0 = (s, ⟨0, false⟩) ∧ writeG s.cur.1 s.cur.2 s 0 v = s) ∧
  (∀ (s : State) (x y : G6) (v : Reg), 1 ≤ x.toNat → x.toNat < 48 → y.toNat < 48 → y ≠ x →
    let t := writeG s.cur.1 s.cur.2 s x v
    (src t t x).2 = v ∧ (src t t y).2 = (src s s y).2 ∧ t.mem = s.mem) ∧
  (∀ (s : State) (x : G6) (v : Reg) (l : List QSlot), 48 ≤ x.toNat →
    tabD (Machine.core s s.cur.1).queues (queueOf x) [] = .full v :: l →
    (src s s x).2 = v ∧ tabD (Machine.core (src s s x).1 s.cur.1).queues (queueOf x) [] =
      if x.toNat < 56 then l else .full v :: l) ∧
  (∀ (s : State) (x : G6) (v : Reg), 48 ≤ x.toNat →
    tabD (Machine.core (writeG s.cur.1 s.cur.2 s x v) s.cur.1).queues (queueOf x) [] =
      tabD (Machine.core s s.cur.1).queues (queueOf x) [] ++ [.full v]) ∧
  (∀ (s : State) (i : Instr) (x : Alu2), alu2Of i = some x → ready s i x.m 1 = true → guardHolds s x.g = true →
    let c := s.cur.1
    let r := s.cur.2
    let k := Machine.core s c
    let w := (encode i).headD 0
    let q := queueOf x.ra
    (getRole s c r).loads = [] →
    (1 ≤ x.ra.toNat → x.ra.toNat < 48 → tabGet (getRole s c r).g x.ra.toNat = none →
      exec i s = .next (takeTrap s c r w 3 (BitVec.ofNat 64 x.ra.toNat))) ∧
    (48 ≤ x.ra.toNat → (qRoles k q).2 ≠ some r →
      exec i s = .next (takeTrap s c r w 4 (BitVec.ofNat 64 (4 * 16 + q)))) ∧
    (48 ≤ x.ra.toNat → qRoles k q = (some r, some r) → qLen k q = 0 →
      exec i s = .next (takeTrap s c r w 4 (BitVec.ofNat 64 (2 * 16 + q)))) ∧
    (48 ≤ x.ra.toNat → x.rd = 0 → (qRoles k q).2 = some r → (qRoles k q).1 ≠ some r → qFilled k q 0 = false →
      ∃ l, exec i s = .next (waits (popEarly s c r x.m) c r (.queue l)))) ∧
  (∀ (s : State) (m : Mark) (rd : G6) (imm : BitVec 32) (g : Guard),
    let i : Instr := .li m rd imm g
    let c := s.cur.1
    let r := s.cur.2
    let k := Machine.core s c
    let w := (encode i).headD 0
    let q := queueOf rd
    ready s i m 1 = true → guardHolds s g = true → 48 ≤ rd.toNat →
    ((qRoles k q).1 ≠ some r → exec i s = .next (takeTrap s c r w 4 (BitVec.ofNat 64 (3 * 16 + q)))) ∧
    (qRoles k q = (some r, some r) → 4 ≤ qLen k q →
      exec i s = .next (takeTrap s c r w 4 (BitVec.ofNat 64 (1 * 16 + q)))))

/-- The registers of a role, but for general register d, are as before; so are its trap registers and loads. -/
def Sys2Proof.Claims.roleKept (x y : Role) (d : G6) : Prop :=
  (∀ n, n ≠ d.toNat → tabGet y.g n = tabGet x.g n) ∧ y.v = x.v ∧ y.lc = x.lc ∧ y.flags = x.flags ∧ y.vgen = x.vgen ∧
    y.tvec = x.tvec ∧ y.tpc = x.tpc ∧ y.tcause = x.tcause ∧ y.tval = x.tval ∧ y.vstart = x.vstart ∧ y.tstat = x.tstat ∧
    y.loads = x.loads ∧ y.fin = x.fin ∧ y.block = x.block

/-- Everything outside the acting role is as before, but for its core's queues among l, tokens and counts. -/
def Sys2Proof.Claims.restKept (s t : State) (l : List G6) : Prop :=
  let c := s.cur.1
  let k := Machine.core s c
  let k' := Machine.core t c
  t.mem = s.mem ∧ t.deck = s.deck ∧ t.regs = s.regs ∧ t.ks = s.ks ∧ t.snap = s.snap ∧ t.shadows = s.shadows ∧
    t.pins = s.pins ∧ t.collies = s.collies ∧ t.ports = s.ports ∧ (∀ d, d ≠ c → Machine.core t d = Machine.core s d) ∧
    (∀ q, q ≠ s.cur.2 → getRole t c q = getRole s c q) ∧ k'.xid = k.xid ∧ k'.root = k.root ∧ k'.bnd0 = k.bnd0 ∧
    k'.bnd1 = k.bnd1 ∧ k'.bnd2 = k.bnd2 ∧ k'.win = k.win ∧ k'.rect = k.rect ∧ k'.qctl = k.qctl ∧ k'.hdesc = k.hdesc ∧
    k'.sems = k.sems ∧ k'.l1 = k.l1 ∧ k'.writes = k.writes ∧ k'.matrix = k.matrix ∧ k'.copy = k.copy ∧
    k'.vqueues = k.vqueues ∧
    ∀ q, (∀ x, x ∈ l → 48 ≤ x.toNat → queueOf x ≠ q) → tabD k'.queues q [] = tabD k.queues q []

/-- The frame of the scalar register words: each changes, beside what completing a word changes, its destination register
and the queues that its operands name, and nothing else; a predicate word changes its destination predicate. Memory, the
special registers, the flags, the trap registers, the other roles and the other cores are unchanged. -/
def Obligations.RegisterWordFrame : Prop :=
  (∀ (s : State) (i : Instr) (x : Alu3), alu3Of s i = some x → ready s i x.m 1 = true → guardHolds s x.g = true →
    usable s [.g x.ra, .g x.rb] (.g x.rd) = true →
    ∃ t, exec i s = .next t ∧ restKept s t [x.ra, x.rb, x.rd] ∧
      roleKept (getRole s s.cur.1 s.cur.2) (getRole t s.cur.1 s.cur.2) x.rd ∧
      (getRole t s.cur.1 s.cur.2).p = (getRole s s.cur.1 s.cur.2).p) ∧
  (∀ (s : State) (i : Instr) (x : Alu2), alu2Of i = some x → ready s i x.m 1 = true → guardHolds s x.g = true →
    usable s [.g x.ra] (.g x.rd) = true →
    ∃ t, exec i s = .next t ∧ restKept s t [x.ra, x.rd] ∧
      roleKept (getRole s s.cur.1 s.cur.2) (getRole t s.cur.1 s.cur.2) x.rd ∧
      (getRole t s.cur.1 s.cur.2).p = (getRole s s.cur.1 s.cur.2).p) ∧
  (∀ (s : State) (i : Instr) (x : PredOp), predOf i = some x → ready s i x.m 1 = true → guardHolds s x.g = true →
    ∃ t, exec i s = .next t ∧ restKept s t [] ∧
      roleKept (getRole s s.cur.1 s.cur.2) (getRole t s.cur.1 s.cur.2) 0 ∧
      (getRole t s.cur.1 s.cur.2).g = (getRole s s.cur.1 s.cur.2).g ∧
      ∀ n, n ≠ x.pd.toNat → tabGet (getRole t s.cur.1 s.cur.2).p n = tabGet (getRole s s.cur.1 s.cur.2).p n) ∧
  (∀ (s : State) (m : Mark) (c : Cond) (pd : P3) (ra rb : G6) (g : Guard), ready s (.cmp m c pd ra rb g) m 1 = true →
    guardHolds s g = true → usable s [.g ra, .g rb] .none = true →
    ∃ t, exec (.cmp m c pd ra rb g) s = .next t ∧ restKept s t [ra, rb] ∧
      roleKept (getRole s s.cur.1 s.cur.2) (getRole t s.cur.1 s.cur.2) 0 ∧
      (getRole t s.cur.1 s.cur.2).g = (getRole s s.cur.1 s.cur.2).g ∧
      ∀ n, n ≠ pd.toNat → tabGet (getRole t s.cur.1 s.cur.2).p n = tabGet (getRole s s.cur.1 s.cur.2).p n)

/-- The frame of st: a store to scratch changes the bytes at the address that its operands give, at once or, the other way of
the step, when its write is performed (log 3), and no other byte of memory; one to a line elsewhere changes no byte until its write is performed, but for what translating its address marks
in the page table. No register changes, but for the queues that its operands name. -/
def Obligations.StoreFrame : Prop :=
  (∀ (s : State) (m : Mark) (sz : Size) (rs : G6) (ea : EA) (g : Guard) (t : State) (key : Nat),
    ready s (.st m sz rs ea g) m 1 = true → guardHolds s g = true →
    usable s [.g rs, .g ea.rb, .g ea.ri] .none = true → Memory.wf s.mem = true →
    let a := storeArgs s rs ea
    let n := sizeBytes sz
    coreLoc s s.cur.1 .write (!systemMode s s.cur.1 s.cur.2) false true a.2.1 n = .ok (t, .pool key) →
    a.2.1 % n = 0 → locBusy s s.cur.1 s.cur.2 (.pool key) = false → relSettled s s.cur.1 s.cur.2 = true →
    stage s.cur.1 s.cur.2 s = 0 →
    ∃ u, exec (.st m sz rs ea g) s = .next u ∧
      (∀ b, b < key ∨ key + n ≤ b → memRead u.mem b = memRead s.mem b) ∧
      (s.alt = false → ∀ j, j < n → memRead u.mem (key + j) = a.2.2.extractLsb' (8 * j) 8) ∧
      (s.alt = true → u.mem = s.mem) ∧ u.deck = s.deck ∧ u.regs = s.regs ∧
      roleKept (getRole s s.cur.1 s.cur.2) (getRole u s.cur.1 s.cur.2) 0 ∧
      (getRole u s.cur.1 s.cur.2).g = (getRole s s.cur.1 s.cur.2).g ∧
      (getRole u s.cur.1 s.cur.2).p = (getRole s s.cur.1 s.cur.2).p ∧
      (∀ q, q ≠ s.cur.2 → getRole u s.cur.1 q = getRole s s.cur.1 q) ∧
      ∀ d, d ≠ s.cur.1 → Machine.core u d = Machine.core s d) ∧
  (∀ (s : State) (m : Mark) (sz : Size) (rs : G6) (ea : EA) (g : Guard) (t : State) (tgt : Target) (leaf : Option Nat),
    ready s (.st m sz rs ea g) m 1 = true → guardHolds s g = true →
    usable s [.g rs, .g ea.rb, .g ea.ri] .none = true →
    let a := storeArgs s rs ea
    let n := sizeBytes sz
    coreLoc s s.cur.1 .write (!systemMode s s.cur.1 s.cur.2) false true a.2.1 n = .ok (t, .dev tgt leaf) →
    a.2.1 % n = 0 → locBusy t s.cur.1 s.cur.2 (.dev tgt leaf) = false → relSettled s s.cur.1 s.cur.2 = true →
    stage s.cur.1 s.cur.2 s = 0 → inOpenRange t tgt = false →
    ∃ u, exec (.st m sz rs ea g) s = .next u ∧ u.mem = t.mem ∧ u.deck = t.deck ∧
      (getRole u s.cur.1 s.cur.2).g = (getRole s s.cur.1 s.cur.2).g ∧
      (getRole u s.cur.1 s.cur.2).v = (getRole s s.cur.1 s.cur.2).v ∧
      (getRole u s.cur.1 s.cur.2).p = (getRole s s.cur.1 s.cur.2).p ∧
      (getRole u s.cur.1 s.cur.2).flags = (getRole s s.cur.1 s.cur.2).flags ∧
      (getRole u s.cur.1 s.cur.2).tstat = (getRole s s.cur.1 s.cur.2).tstat)

/-! ## Encoding, step, reset, invariant -/

/-- Words written out from the spec's encodings decode to the instructions they stand for: one of each main family. -/
def Obligations.DecodeWords : Prop :=
  decodeWords 0x2021_70C0_0001_0000 none = .ok (.sub ⟨.C, true, false⟩ 5 48 48 ⟨false, 0⟩) ∧
  decodeWords 0xC290_0000_0000_0000 none = .ok (.fin ⟨.A, false, false⟩) ∧
  decodeWords 0x4680_0000_0000_0000 none = .ok (.vote ⟨.L, false, false⟩ 0) ∧
  decodeWords 0x0110_4500_0002_0000 none = .ok (.cmp ⟨.C, false, false⟩ .lt 1 5 0 ⟨false, 0⟩) ∧
  decodeWords 0x4691_8000_0000_0000 none = .ok (.vwait ⟨.L, false, false⟩ 6) ∧
  decodeWords 0x0010_0000_0000_0000 none = .ok (.nop ⟨.C, false, false⟩ ⟨false, 0⟩) ∧
  decodeWords 0x0000_0000_0000_0000 none = .error .opcode ∧
  decodeMatrix 0x0000_0820_0000_0000 = .ok (.mzr ⟨false, 0, 0, false, 0, 0⟩ 0 false true)

/-- Decoding undoes encoding: each well-formed instruction's words, followed by any bytes, decode to it and leave those
bytes; each well-formed engine command's ring words decode to it. Every operand is at every value its encoding admits. -/
def Obligations.EncodeDecodeAgree : Prop := ∀ i : Instr, Laws.Encoding.Statement i

/-- The state in which role r of core c acts at a step that names it, and the way the step goes where it has two (log 3). -/
def Sys2Proof.Claims.acting (s : State) (alt : Bool) (c : Nat) (r : RoleId) (rest : List Choice) : State :=
  { nextTick { s with sched := rest, alt := false } with alt := alt, cur := (c, r) }

/-- A step runs the decoded instruction: when it is the turn of a role that may issue and the word fetched at its counter
is one it executes and decodes to i, the step is i's meaning in the state after the fetch; a safe takes the next word as
well; an event given to the step is its meaning, but that OVERDUE comes only in its role's turn (R220); an engine command is its
meaning at its turn. -/
def Obligations.StepRunsDecoded : Prop :=
  (∀ (s t : State) (alt : Bool) (c : Nat) (r : RoleId) (rest : List Choice) (w : Word) (i : Instr),
    s.sched = (if alt then .roleAlt c r else .role c r) :: rest → clockGated s c = false →
    roleExists s c r = true → booted s = true → tripped s = false → (isSystem c = true ∨ (Machine.core s c).task ≠ none) →
    roleHeld s c r = false → (getRole s c r).pushDue = false →
    fetch (acting s alt c r rest) c r (getRole s c r).pc.toNat = .ok (t, some w) → executes c r w = true →
    breakAt (Machine.core t c) r (getRole s c r).pc = false ∨ (getRole t c r).bpPass = true →
    (takesTwo w = false → decodeWords w none = .ok i → step s = exec i t) ∧
    (∀ u x, takesTwo w = true → fetch t c r (((getRole s c r).pc.toNat + 8) % 2 ^ 57) = .ok (u, some x) →
      decodeWords w (some x) = .ok i → step s = exec i u)) ∧
  (∀ (s : State) (i : Instr) (rest : List Choice), s.sched = .event i :: rest → tripped s = false →
    (∀ c r, i ≠ .overdue c r) → step s = exec i (nextTick { s with sched := rest, alt := false })) ∧
  (∀ (s : State) (c : Nat) (r : RoleId) (rest : List Choice), s.sched = .event (.overdue c r) :: rest →
    (getRole s c r).safecnt.toNat ≠ 4096 → step s = .next (nextTick { s with sched := rest, alt := false })) ∧
  (∀ (s : State) (c : Nat) (st : MStage) (alt : Bool) (w : Word) (i : Instr) (rest : List Choice),
    s.sched = .matrix c st alt :: rest → tripped s = false → clockGated s c = false →
    stageWord (Machine.core s c).matrix st = some w → decodeMatrix w = .ok i → step s = exec i (acting s alt c .C rest)) ∧
  (∀ (s : State) (c id : Nat) (j : CJob) (i : Instr) (rest : List Choice), s.sched = .job c id :: rest →
    tripped s = false → clockGated s c = false → findJob (Machine.core s c) id = some j → decodeCopy j.words = .ok i →
    step s = exec i (acting s false c .C rest))

/-- R50, R74, R203, R206, R406, R425, R465, R466: what reset leaves, where the spec gives it. -/
def Obligations.ResetValues : Prop :=
  (∀ c, (Machine.core State.reset c).bnd0 = 0x08 ∧ (Machine.core State.reset c).bnd1 = 0x40 ∧
    (Machine.core State.reset c).bnd2 = 0x50 ∧ (Machine.core State.reset c).win = 0x0400 ∧
    (Machine.core State.reset c).qctl = 0xA4A0592244) ∧
  (∀ d, d < 4 → bits (reg State.reset (0x400 + d)) 9 0 = 960) ∧
  (∀ n, n < 8 → bit (reg State.reset (0x140 + n)) 63 = true ∧ bits (reg State.reset (0x140 + n)) 7 0 = 24) ∧
  (∀ p, p < 12 → bit (reg State.reset (0x420 + p)) 63 = false ∧ bits (reg State.reset (0x420 + p)) 57 56 = 3 ∧
    portState State.reset p = 0) ∧
  (∀ i, i < 16 → bits (reg State.reset (0x480 + i)) 3 0 = 8) ∧
  bits (reg State.reset 0x4A0) 23 16 = 100 ∧ bits (reg State.reset 0x4A0) 15 8 = 115 ∧
  State.reset.ks.state = .idle ∧ booted State.reset = false ∧ tripped State.reset = false

/-- The invariant of runs holds right after reset. -/
def Obligations.ResetMeetsInvariant : Prop := RunInv State.reset

/-- Every step keeps the invariant of runs: memory in canonical form, and the tables of the Deck, the metadata cache, the
abort window and the routes with rising keys. -/
def Obligations.StepKeepsInvariant : Prop :=
  ∀ s t : State, RunInv s → step s = .next t → RunInv t
end

