-- ==== Sys2Proof/Laws/State.lean ====
section
/-! SUPPORT. Sys2Proof/Laws/State.lean: what each update of State leaves of each field, one lemma per field per update. -/

namespace Sys2Proof.Machine

/-! ## setCore -/

@[simp] theorem setCore_mem (s : State) (c : Nat) (k : Core) : (setCore s c k).mem = s.mem := rfl
@[simp] theorem setCore_poison (s : State) (c : Nat) (k : Core) : (setCore s c k).poison = s.poison := rfl
@[simp] theorem setCore_deck (s : State) (c : Nat) (k : Core) : (setCore s c k).deck = s.deck := rfl
@[simp] theorem setCore_mdCache (s : State) (c : Nat) (k : Core) : (setCore s c k).mdCache = s.mdCache := rfl
@[simp] theorem setCore_slices (s : State) (c : Nat) (k : Core) : (setCore s c k).slices = s.slices := rfl
@[simp] theorem setCore_shadows (s : State) (c : Nat) (k : Core) : (setCore s c k).shadows = s.shadows := rfl
@[simp] theorem setCore_marks (s : State) (c : Nat) (k : Core) : (setCore s c k).marks = s.marks := rfl
@[simp] theorem setCore_markNo (s : State) (c : Nat) (k : Core) : (setCore s c k).markNo = s.markNo := rfl
@[simp] theorem setCore_snap (s : State) (c : Nat) (k : Core) : (setCore s c k).snap = s.snap := rfl
@[simp] theorem setCore_snFlight (s : State) (c : Nat) (k : Core) : (setCore s c k).snFlight = s.snFlight := rfl
@[simp] theorem setCore_pins (s : State) (c : Nat) (k : Core) : (setCore s c k).pins = s.pins := rfl
@[simp] theorem setCore_probes (s : State) (c : Nat) (k : Core) : (setCore s c k).probes = s.probes := rfl
@[simp] theorem setCore_slotTabs (s : State) (c : Nat) (k : Core) : (setCore s c k).slotTabs = s.slotTabs := rfl
@[simp] theorem setCore_rounds (s : State) (c : Nat) (k : Core) : (setCore s c k).rounds = s.rounds := rfl
@[simp] theorem setCore_contribs (s : State) (c : Nat) (k : Core) : (setCore s c k).contribs = s.contribs := rfl
@[simp] theorem setCore_ctab (s : State) (c : Nat) (k : Core) : (setCore s c k).ctab = s.ctab := rfl
@[simp] theorem setCore_ctabBusy (s : State) (c : Nat) (k : Core) : (setCore s c k).ctabBusy = s.ctabBusy := rfl
@[simp] theorem setCore_ctabTook (s : State) (c : Nat) (k : Core) : (setCore s c k).ctabTook = s.ctabTook := rfl
@[simp] theorem setCore_carveOld (s : State) (c : Nat) (k : Core) : (setCore s c k).carveOld = s.carveOld := rfl
@[simp] theorem setCore_ks (s : State) (c : Nat) (k : Core) : (setCore s c k).ks = s.ks := rfl
@[simp] theorem setCore_regs (s : State) (c : Nat) (k : Core) : (setCore s c k).regs = s.regs := rfl
@[simp] theorem setCore_hostRoot (s : State) (c : Nat) (k : Core) : (setCore s c k).hostRoot = s.hostRoot := rfl
@[simp] theorem setCore_hostTlb (s : State) (c : Nat) (k : Core) : (setCore s c k).hostTlb = s.hostTlb := rfl
@[simp] theorem setCore_fqBuf (s : State) (c : Nat) (k : Core) : (setCore s c k).fqBuf = s.fqBuf := rfl
@[simp] theorem setCore_collies (s : State) (c : Nat) (k : Core) : (setCore s c k).collies = s.collies := rfl
@[simp] theorem setCore_ports (s : State) (c : Nat) (k : Core) : (setCore s c k).ports = s.ports := rfl
@[simp] theorem setCore_sent (s : State) (c : Nat) (k : Core) : (setCore s c k).sent = s.sent := rfl
@[simp] theorem setCore_routes (s : State) (c : Nat) (k : Core) : (setCore s c k).routes = s.routes := rfl
@[simp] theorem setCore_peerOut (s : State) (c : Nat) (k : Core) : (setCore s c k).peerOut = s.peerOut := rfl
@[simp] theorem setCore_peerIn (s : State) (c : Nat) (k : Core) : (setCore s c k).peerIn = s.peerIn := rfl
@[simp] theorem setCore_ptmcOut (s : State) (c : Nat) (k : Core) : (setCore s c k).ptmcOut = s.ptmcOut := rfl
@[simp] theorem setCore_ptmcFwd (s : State) (c : Nat) (k : Core) : (setCore s c k).ptmcFwd = s.ptmcFwd := rfl
@[simp] theorem setCore_ptmcLast (s : State) (c : Nat) (k : Core) : (setCore s c k).ptmcLast = s.ptmcLast := rfl
@[simp] theorem setCore_ptmcAck (s : State) (c : Nat) (k : Core) : (setCore s c k).ptmcAck = s.ptmcAck := rfl
@[simp] theorem setCore_herr (s : State) (c : Nat) (k : Core) : (setCore s c k).herr = s.herr := rfl
@[simp] theorem setCore_tstamp (s : State) (c : Nat) (k : Core) : (setCore s c k).tstamp = s.tstamp := rfl
@[simp] theorem setCore_tscap (s : State) (c : Nat) (k : Core) : (setCore s c k).tscap = s.tscap := rfl
@[simp] theorem setCore_flashA (s : State) (c : Nat) (k : Core) : (setCore s c k).flashA = s.flashA := rfl
@[simp] theorem setCore_flashB (s : State) (c : Nat) (k : Core) : (setCore s c k).flashB = s.flashB := rfl
@[simp] theorem setCore_svnMin (s : State) (c : Nat) (k : Core) : (setCore s c k).svnMin = s.svnMin := rfl
@[simp] theorem setCore_units (s : State) (c : Nat) (k : Core) : (setCore s c k).units = s.units := rfl
@[simp] theorem setCore_cfgKey (s : State) (c : Nat) (k : Core) : (setCore s c k).cfgKey = s.cfgKey := rfl
@[simp] theorem setCore_absent (s : State) (c : Nat) (k : Core) : (setCore s c k).absent = s.absent := rfl
@[simp] theorem setCore_identity (s : State) (c : Nat) (k : Core) : (setCore s c k).identity = s.identity := rfl
@[simp] theorem setCore_hostOut (s : State) (c : Nat) (k : Core) : (setCore s c k).hostOut = s.hostOut := rfl
@[simp] theorem setCore_sched (s : State) (c : Nat) (k : Core) : (setCore s c k).sched = s.sched := rfl
@[simp] theorem setCore_cur (s : State) (c : Nat) (k : Core) : (setCore s c k).cur = s.cur := rfl
@[simp] theorem setCore_alt (s : State) (c : Nat) (k : Core) : (setCore s c k).alt = s.alt := rfl
@[simp] theorem setCore_tick (s : State) (c : Nat) (k : Core) : (setCore s c k).tick = s.tick := rfl
@[simp] theorem setCore_nextId (s : State) (c : Nat) (k : Core) : (setCore s c k).nextId = s.nextId := rfl

/-! ## modCore -/

@[simp] theorem modCore_mem (s : State) (c : Nat) (f : Core → Core) : (modCore s c f).mem = s.mem := rfl
@[simp] theorem modCore_poison (s : State) (c : Nat) (f : Core → Core) : (modCore s c f).poison = s.poison := rfl
@[simp] theorem modCore_deck (s : State) (c : Nat) (f : Core → Core) : (modCore s c f).deck = s.deck := rfl
@[simp] theorem modCore_mdCache (s : State) (c : Nat) (f : Core → Core) : (modCore s c f).mdCache = s.mdCache := rfl
@[simp] theorem modCore_slices (s : State) (c : Nat) (f : Core → Core) : (modCore s c f).slices = s.slices := rfl
@[simp] theorem modCore_shadows (s : State) (c : Nat) (f : Core → Core) : (modCore s c f).shadows = s.shadows := rfl
@[simp] theorem modCore_marks (s : State) (c : Nat) (f : Core → Core) : (modCore s c f).marks = s.marks := rfl
@[simp] theorem modCore_markNo (s : State) (c : Nat) (f : Core → Core) : (modCore s c f).markNo = s.markNo := rfl
@[simp] theorem modCore_snap (s : State) (c : Nat) (f : Core → Core) : (modCore s c f).snap = s.snap := rfl
@[simp] theorem modCore_snFlight (s : State) (c : Nat) (f : Core → Core) : (modCore s c f).snFlight = s.snFlight := rfl
@[simp] theorem modCore_pins (s : State) (c : Nat) (f : Core → Core) : (modCore s c f).pins = s.pins := rfl
@[simp] theorem modCore_probes (s : State) (c : Nat) (f : Core → Core) : (modCore s c f).probes = s.probes := rfl
@[simp] theorem modCore_slotTabs (s : State) (c : Nat) (f : Core → Core) : (modCore s c f).slotTabs = s.slotTabs := rfl
@[simp] theorem modCore_rounds (s : State) (c : Nat) (f : Core → Core) : (modCore s c f).rounds = s.rounds := rfl
@[simp] theorem modCore_contribs (s : State) (c : Nat) (f : Core → Core) : (modCore s c f).contribs = s.contribs := rfl
@[simp] theorem modCore_ctab (s : State) (c : Nat) (f : Core → Core) : (modCore s c f).ctab = s.ctab := rfl
@[simp] theorem modCore_ctabBusy (s : State) (c : Nat) (f : Core → Core) : (modCore s c f).ctabBusy = s.ctabBusy := rfl
@[simp] theorem modCore_ctabTook (s : State) (c : Nat) (f : Core → Core) : (modCore s c f).ctabTook = s.ctabTook := rfl
@[simp] theorem modCore_carveOld (s : State) (c : Nat) (f : Core → Core) : (modCore s c f).carveOld = s.carveOld := rfl
@[simp] theorem modCore_ks (s : State) (c : Nat) (f : Core → Core) : (modCore s c f).ks = s.ks := rfl
@[simp] theorem modCore_regs (s : State) (c : Nat) (f : Core → Core) : (modCore s c f).regs = s.regs := rfl
@[simp] theorem modCore_hostRoot (s : State) (c : Nat) (f : Core → Core) : (modCore s c f).hostRoot = s.hostRoot := rfl
@[simp] theorem modCore_hostTlb (s : State) (c : Nat) (f : Core → Core) : (modCore s c f).hostTlb = s.hostTlb := rfl
@[simp] theorem modCore_fqBuf (s : State) (c : Nat) (f : Core → Core) : (modCore s c f).fqBuf = s.fqBuf := rfl
@[simp] theorem modCore_collies (s : State) (c : Nat) (f : Core → Core) : (modCore s c f).collies = s.collies := rfl
@[simp] theorem modCore_ports (s : State) (c : Nat) (f : Core → Core) : (modCore s c f).ports = s.ports := rfl
@[simp] theorem modCore_sent (s : State) (c : Nat) (f : Core → Core) : (modCore s c f).sent = s.sent := rfl
@[simp] theorem modCore_routes (s : State) (c : Nat) (f : Core → Core) : (modCore s c f).routes = s.routes := rfl
@[simp] theorem modCore_peerOut (s : State) (c : Nat) (f : Core → Core) : (modCore s c f).peerOut = s.peerOut := rfl
@[simp] theorem modCore_peerIn (s : State) (c : Nat) (f : Core → Core) : (modCore s c f).peerIn = s.peerIn := rfl
@[simp] theorem modCore_ptmcOut (s : State) (c : Nat) (f : Core → Core) : (modCore s c f).ptmcOut = s.ptmcOut := rfl
@[simp] theorem modCore_ptmcFwd (s : State) (c : Nat) (f : Core → Core) : (modCore s c f).ptmcFwd = s.ptmcFwd := rfl
@[simp] theorem modCore_ptmcLast (s : State) (c : Nat) (f : Core → Core) : (modCore s c f).ptmcLast = s.ptmcLast := rfl
@[simp] theorem modCore_ptmcAck (s : State) (c : Nat) (f : Core → Core) : (modCore s c f).ptmcAck = s.ptmcAck := rfl
@[simp] theorem modCore_herr (s : State) (c : Nat) (f : Core → Core) : (modCore s c f).herr = s.herr := rfl
@[simp] theorem modCore_tstamp (s : State) (c : Nat) (f : Core → Core) : (modCore s c f).tstamp = s.tstamp := rfl
@[simp] theorem modCore_tscap (s : State) (c : Nat) (f : Core → Core) : (modCore s c f).tscap = s.tscap := rfl
@[simp] theorem modCore_flashA (s : State) (c : Nat) (f : Core → Core) : (modCore s c f).flashA = s.flashA := rfl
@[simp] theorem modCore_flashB (s : State) (c : Nat) (f : Core → Core) : (modCore s c f).flashB = s.flashB := rfl
@[simp] theorem modCore_svnMin (s : State) (c : Nat) (f : Core → Core) : (modCore s c f).svnMin = s.svnMin := rfl
@[simp] theorem modCore_units (s : State) (c : Nat) (f : Core → Core) : (modCore s c f).units = s.units := rfl
@[simp] theorem modCore_cfgKey (s : State) (c : Nat) (f : Core → Core) : (modCore s c f).cfgKey = s.cfgKey := rfl
@[simp] theorem modCore_absent (s : State) (c : Nat) (f : Core → Core) : (modCore s c f).absent = s.absent := rfl
@[simp] theorem modCore_identity (s : State) (c : Nat) (f : Core → Core) : (modCore s c f).identity = s.identity := rfl
@[simp] theorem modCore_hostOut (s : State) (c : Nat) (f : Core → Core) : (modCore s c f).hostOut = s.hostOut := rfl
@[simp] theorem modCore_sched (s : State) (c : Nat) (f : Core → Core) : (modCore s c f).sched = s.sched := rfl
@[simp] theorem modCore_cur (s : State) (c : Nat) (f : Core → Core) : (modCore s c f).cur = s.cur := rfl
@[simp] theorem modCore_alt (s : State) (c : Nat) (f : Core → Core) : (modCore s c f).alt = s.alt := rfl
@[simp] theorem modCore_tick (s : State) (c : Nat) (f : Core → Core) : (modCore s c f).tick = s.tick := rfl
@[simp] theorem modCore_nextId (s : State) (c : Nat) (f : Core → Core) : (modCore s c f).nextId = s.nextId := rfl

/-! ## putRole -/

@[simp] theorem putRole_mem (s : State) (c : Nat) (r : RoleId) (x : Role) : (putRole s c r x).mem = s.mem := rfl
@[simp] theorem putRole_poison (s : State) (c : Nat) (r : RoleId) (x : Role) : (putRole s c r x).poison = s.poison := rfl
@[simp] theorem putRole_deck (s : State) (c : Nat) (r : RoleId) (x : Role) : (putRole s c r x).deck = s.deck := rfl
@[simp] theorem putRole_mdCache (s : State) (c : Nat) (r : RoleId) (x : Role) : (putRole s c r x).mdCache = s.mdCache := rfl
@[simp] theorem putRole_slices (s : State) (c : Nat) (r : RoleId) (x : Role) : (putRole s c r x).slices = s.slices := rfl
@[simp] theorem putRole_shadows (s : State) (c : Nat) (r : RoleId) (x : Role) : (putRole s c r x).shadows = s.shadows := rfl
@[simp] theorem putRole_marks (s : State) (c : Nat) (r : RoleId) (x : Role) : (putRole s c r x).marks = s.marks := rfl
@[simp] theorem putRole_markNo (s : State) (c : Nat) (r : RoleId) (x : Role) : (putRole s c r x).markNo = s.markNo := rfl
@[simp] theorem putRole_snap (s : State) (c : Nat) (r : RoleId) (x : Role) : (putRole s c r x).snap = s.snap := rfl
@[simp] theorem putRole_snFlight (s : State) (c : Nat) (r : RoleId) (x : Role) : (putRole s c r x).snFlight = s.snFlight := rfl
@[simp] theorem putRole_pins (s : State) (c : Nat) (r : RoleId) (x : Role) : (putRole s c r x).pins = s.pins := rfl
@[simp] theorem putRole_probes (s : State) (c : Nat) (r : RoleId) (x : Role) : (putRole s c r x).probes = s.probes := rfl
@[simp] theorem putRole_slotTabs (s : State) (c : Nat) (r : RoleId) (x : Role) : (putRole s c r x).slotTabs = s.slotTabs := rfl
@[simp] theorem putRole_rounds (s : State) (c : Nat) (r : RoleId) (x : Role) : (putRole s c r x).rounds = s.rounds := rfl
@[simp] theorem putRole_contribs (s : State) (c : Nat) (r : RoleId) (x : Role) : (putRole s c r x).contribs = s.contribs := rfl
@[simp] theorem putRole_ctab (s : State) (c : Nat) (r : RoleId) (x : Role) : (putRole s c r x).ctab = s.ctab := rfl
@[simp] theorem putRole_ctabBusy (s : State) (c : Nat) (r : RoleId) (x : Role) : (putRole s c r x).ctabBusy = s.ctabBusy := rfl
@[simp] theorem putRole_ctabTook (s : State) (c : Nat) (r : RoleId) (x : Role) : (putRole s c r x).ctabTook = s.ctabTook := rfl
@[simp] theorem putRole_carveOld (s : State) (c : Nat) (r : RoleId) (x : Role) : (putRole s c r x).carveOld = s.carveOld := rfl
@[simp] theorem putRole_ks (s : State) (c : Nat) (r : RoleId) (x : Role) : (putRole s c r x).ks = s.ks := rfl
@[simp] theorem putRole_regs (s : State) (c : Nat) (r : RoleId) (x : Role) : (putRole s c r x).regs = s.regs := rfl
@[simp] theorem putRole_hostRoot (s : State) (c : Nat) (r : RoleId) (x : Role) : (putRole s c r x).hostRoot = s.hostRoot := rfl
@[simp] theorem putRole_hostTlb (s : State) (c : Nat) (r : RoleId) (x : Role) : (putRole s c r x).hostTlb = s.hostTlb := rfl
@[simp] theorem putRole_fqBuf (s : State) (c : Nat) (r : RoleId) (x : Role) : (putRole s c r x).fqBuf = s.fqBuf := rfl
@[simp] theorem putRole_collies (s : State) (c : Nat) (r : RoleId) (x : Role) : (putRole s c r x).collies = s.collies := rfl
@[simp] theorem putRole_ports (s : State) (c : Nat) (r : RoleId) (x : Role) : (putRole s c r x).ports = s.ports := rfl
@[simp] theorem putRole_sent (s : State) (c : Nat) (r : RoleId) (x : Role) : (putRole s c r x).sent = s.sent := rfl
@[simp] theorem putRole_routes (s : State) (c : Nat) (r : RoleId) (x : Role) : (putRole s c r x).routes = s.routes := rfl
@[simp] theorem putRole_peerOut (s : State) (c : Nat) (r : RoleId) (x : Role) : (putRole s c r x).peerOut = s.peerOut := rfl
@[simp] theorem putRole_peerIn (s : State) (c : Nat) (r : RoleId) (x : Role) : (putRole s c r x).peerIn = s.peerIn := rfl
@[simp] theorem putRole_ptmcOut (s : State) (c : Nat) (r : RoleId) (x : Role) : (putRole s c r x).ptmcOut = s.ptmcOut := rfl
@[simp] theorem putRole_ptmcFwd (s : State) (c : Nat) (r : RoleId) (x : Role) : (putRole s c r x).ptmcFwd = s.ptmcFwd := rfl
@[simp] theorem putRole_ptmcLast (s : State) (c : Nat) (r : RoleId) (x : Role) : (putRole s c r x).ptmcLast = s.ptmcLast := rfl
@[simp] theorem putRole_ptmcAck (s : State) (c : Nat) (r : RoleId) (x : Role) : (putRole s c r x).ptmcAck = s.ptmcAck := rfl
@[simp] theorem putRole_herr (s : State) (c : Nat) (r : RoleId) (x : Role) : (putRole s c r x).herr = s.herr := rfl
@[simp] theorem putRole_tstamp (s : State) (c : Nat) (r : RoleId) (x : Role) : (putRole s c r x).tstamp = s.tstamp := rfl
@[simp] theorem putRole_tscap (s : State) (c : Nat) (r : RoleId) (x : Role) : (putRole s c r x).tscap = s.tscap := rfl
@[simp] theorem putRole_flashA (s : State) (c : Nat) (r : RoleId) (x : Role) : (putRole s c r x).flashA = s.flashA := rfl
@[simp] theorem putRole_flashB (s : State) (c : Nat) (r : RoleId) (x : Role) : (putRole s c r x).flashB = s.flashB := rfl
@[simp] theorem putRole_svnMin (s : State) (c : Nat) (r : RoleId) (x : Role) : (putRole s c r x).svnMin = s.svnMin := rfl
@[simp] theorem putRole_units (s : State) (c : Nat) (r : RoleId) (x : Role) : (putRole s c r x).units = s.units := rfl
@[simp] theorem putRole_cfgKey (s : State) (c : Nat) (r : RoleId) (x : Role) : (putRole s c r x).cfgKey = s.cfgKey := rfl
@[simp] theorem putRole_absent (s : State) (c : Nat) (r : RoleId) (x : Role) : (putRole s c r x).absent = s.absent := rfl
@[simp] theorem putRole_identity (s : State) (c : Nat) (r : RoleId) (x : Role) : (putRole s c r x).identity = s.identity := rfl
@[simp] theorem putRole_hostOut (s : State) (c : Nat) (r : RoleId) (x : Role) : (putRole s c r x).hostOut = s.hostOut := rfl
@[simp] theorem putRole_sched (s : State) (c : Nat) (r : RoleId) (x : Role) : (putRole s c r x).sched = s.sched := rfl
@[simp] theorem putRole_cur (s : State) (c : Nat) (r : RoleId) (x : Role) : (putRole s c r x).cur = s.cur := rfl
@[simp] theorem putRole_alt (s : State) (c : Nat) (r : RoleId) (x : Role) : (putRole s c r x).alt = s.alt := rfl
@[simp] theorem putRole_tick (s : State) (c : Nat) (r : RoleId) (x : Role) : (putRole s c r x).tick = s.tick := rfl
@[simp] theorem putRole_nextId (s : State) (c : Nat) (r : RoleId) (x : Role) : (putRole s c r x).nextId = s.nextId := rfl

/-! ## modRole -/

@[simp] theorem modRole_mem (s : State) (c : Nat) (r : RoleId) (f : Role → Role) : (modRole s c r f).mem = s.mem := rfl
@[simp] theorem modRole_poison (s : State) (c : Nat) (r : RoleId) (f : Role → Role) : (modRole s c r f).poison = s.poison := rfl
@[simp] theorem modRole_deck (s : State) (c : Nat) (r : RoleId) (f : Role → Role) : (modRole s c r f).deck = s.deck := rfl
@[simp] theorem modRole_mdCache (s : State) (c : Nat) (r : RoleId) (f : Role → Role) : (modRole s c r f).mdCache = s.mdCache := rfl
@[simp] theorem modRole_slices (s : State) (c : Nat) (r : RoleId) (f : Role → Role) : (modRole s c r f).slices = s.slices := rfl
@[simp] theorem modRole_shadows (s : State) (c : Nat) (r : RoleId) (f : Role → Role) : (modRole s c r f).shadows = s.shadows := rfl
@[simp] theorem modRole_marks (s : State) (c : Nat) (r : RoleId) (f : Role → Role) : (modRole s c r f).marks = s.marks := rfl
@[simp] theorem modRole_markNo (s : State) (c : Nat) (r : RoleId) (f : Role → Role) : (modRole s c r f).markNo = s.markNo := rfl
@[simp] theorem modRole_snap (s : State) (c : Nat) (r : RoleId) (f : Role → Role) : (modRole s c r f).snap = s.snap := rfl
@[simp] theorem modRole_snFlight (s : State) (c : Nat) (r : RoleId) (f : Role → Role) : (modRole s c r f).snFlight = s.snFlight := rfl
@[simp] theorem modRole_pins (s : State) (c : Nat) (r : RoleId) (f : Role → Role) : (modRole s c r f).pins = s.pins := rfl
@[simp] theorem modRole_probes (s : State) (c : Nat) (r : RoleId) (f : Role → Role) : (modRole s c r f).probes = s.probes := rfl
@[simp] theorem modRole_slotTabs (s : State) (c : Nat) (r : RoleId) (f : Role → Role) : (modRole s c r f).slotTabs = s.slotTabs := rfl
@[simp] theorem modRole_rounds (s : State) (c : Nat) (r : RoleId) (f : Role → Role) : (modRole s c r f).rounds = s.rounds := rfl
@[simp] theorem modRole_contribs (s : State) (c : Nat) (r : RoleId) (f : Role → Role) : (modRole s c r f).contribs = s.contribs := rfl
@[simp] theorem modRole_ctab (s : State) (c : Nat) (r : RoleId) (f : Role → Role) : (modRole s c r f).ctab = s.ctab := rfl
@[simp] theorem modRole_ctabBusy (s : State) (c : Nat) (r : RoleId) (f : Role → Role) : (modRole s c r f).ctabBusy = s.ctabBusy := rfl
@[simp] theorem modRole_ctabTook (s : State) (c : Nat) (r : RoleId) (f : Role → Role) : (modRole s c r f).ctabTook = s.ctabTook := rfl
@[simp] theorem modRole_carveOld (s : State) (c : Nat) (r : RoleId) (f : Role → Role) : (modRole s c r f).carveOld = s.carveOld := rfl
@[simp] theorem modRole_ks (s : State) (c : Nat) (r : RoleId) (f : Role → Role) : (modRole s c r f).ks = s.ks := rfl
@[simp] theorem modRole_regs (s : State) (c : Nat) (r : RoleId) (f : Role → Role) : (modRole s c r f).regs = s.regs := rfl
@[simp] theorem modRole_hostRoot (s : State) (c : Nat) (r : RoleId) (f : Role → Role) : (modRole s c r f).hostRoot = s.hostRoot := rfl
@[simp] theorem modRole_hostTlb (s : State) (c : Nat) (r : RoleId) (f : Role → Role) : (modRole s c r f).hostTlb = s.hostTlb := rfl
@[simp] theorem modRole_fqBuf (s : State) (c : Nat) (r : RoleId) (f : Role → Role) : (modRole s c r f).fqBuf = s.fqBuf := rfl
@[simp] theorem modRole_collies (s : State) (c : Nat) (r : RoleId) (f : Role → Role) : (modRole s c r f).collies = s.collies := rfl
@[simp] theorem modRole_ports (s : State) (c : Nat) (r : RoleId) (f : Role → Role) : (modRole s c r f).ports = s.ports := rfl
@[simp] theorem modRole_sent (s : State) (c : Nat) (r : RoleId) (f : Role → Role) : (modRole s c r f).sent = s.sent := rfl
@[simp] theorem modRole_routes (s : State) (c : Nat) (r : RoleId) (f : Role → Role) : (modRole s c r f).routes = s.routes := rfl
@[simp] theorem modRole_peerOut (s : State) (c : Nat) (r : RoleId) (f : Role → Role) : (modRole s c r f).peerOut = s.peerOut := rfl
@[simp] theorem modRole_peerIn (s : State) (c : Nat) (r : RoleId) (f : Role → Role) : (modRole s c r f).peerIn = s.peerIn := rfl
@[simp] theorem modRole_ptmcOut (s : State) (c : Nat) (r : RoleId) (f : Role → Role) : (modRole s c r f).ptmcOut = s.ptmcOut := rfl
@[simp] theorem modRole_ptmcFwd (s : State) (c : Nat) (r : RoleId) (f : Role → Role) : (modRole s c r f).ptmcFwd = s.ptmcFwd := rfl
@[simp] theorem modRole_ptmcLast (s : State) (c : Nat) (r : RoleId) (f : Role → Role) : (modRole s c r f).ptmcLast = s.ptmcLast := rfl
@[simp] theorem modRole_ptmcAck (s : State) (c : Nat) (r : RoleId) (f : Role → Role) : (modRole s c r f).ptmcAck = s.ptmcAck := rfl
@[simp] theorem modRole_herr (s : State) (c : Nat) (r : RoleId) (f : Role → Role) : (modRole s c r f).herr = s.herr := rfl
@[simp] theorem modRole_tstamp (s : State) (c : Nat) (r : RoleId) (f : Role → Role) : (modRole s c r f).tstamp = s.tstamp := rfl
@[simp] theorem modRole_tscap (s : State) (c : Nat) (r : RoleId) (f : Role → Role) : (modRole s c r f).tscap = s.tscap := rfl
@[simp] theorem modRole_flashA (s : State) (c : Nat) (r : RoleId) (f : Role → Role) : (modRole s c r f).flashA = s.flashA := rfl
@[simp] theorem modRole_flashB (s : State) (c : Nat) (r : RoleId) (f : Role → Role) : (modRole s c r f).flashB = s.flashB := rfl
@[simp] theorem modRole_svnMin (s : State) (c : Nat) (r : RoleId) (f : Role → Role) : (modRole s c r f).svnMin = s.svnMin := rfl
@[simp] theorem modRole_units (s : State) (c : Nat) (r : RoleId) (f : Role → Role) : (modRole s c r f).units = s.units := rfl
@[simp] theorem modRole_cfgKey (s : State) (c : Nat) (r : RoleId) (f : Role → Role) : (modRole s c r f).cfgKey = s.cfgKey := rfl
@[simp] theorem modRole_absent (s : State) (c : Nat) (r : RoleId) (f : Role → Role) : (modRole s c r f).absent = s.absent := rfl
@[simp] theorem modRole_identity (s : State) (c : Nat) (r : RoleId) (f : Role → Role) : (modRole s c r f).identity = s.identity := rfl
@[simp] theorem modRole_hostOut (s : State) (c : Nat) (r : RoleId) (f : Role → Role) : (modRole s c r f).hostOut = s.hostOut := rfl
@[simp] theorem modRole_sched (s : State) (c : Nat) (r : RoleId) (f : Role → Role) : (modRole s c r f).sched = s.sched := rfl
@[simp] theorem modRole_cur (s : State) (c : Nat) (r : RoleId) (f : Role → Role) : (modRole s c r f).cur = s.cur := rfl
@[simp] theorem modRole_alt (s : State) (c : Nat) (r : RoleId) (f : Role → Role) : (modRole s c r f).alt = s.alt := rfl
@[simp] theorem modRole_tick (s : State) (c : Nat) (r : RoleId) (f : Role → Role) : (modRole s c r f).tick = s.tick := rfl
@[simp] theorem modRole_nextId (s : State) (c : Nat) (r : RoleId) (f : Role → Role) : (modRole s c r f).nextId = s.nextId := rfl

/-! ## setReg -/

@[simp] theorem setReg_cores (s : State) (n : Nat) (w : Word) : (setReg s n w).cores = s.cores := rfl
@[simp] theorem setReg_mem (s : State) (n : Nat) (w : Word) : (setReg s n w).mem = s.mem := rfl
@[simp] theorem setReg_poison (s : State) (n : Nat) (w : Word) : (setReg s n w).poison = s.poison := rfl
@[simp] theorem setReg_deck (s : State) (n : Nat) (w : Word) : (setReg s n w).deck = s.deck := rfl
@[simp] theorem setReg_mdCache (s : State) (n : Nat) (w : Word) : (setReg s n w).mdCache = s.mdCache := rfl
@[simp] theorem setReg_slices (s : State) (n : Nat) (w : Word) : (setReg s n w).slices = s.slices := rfl
@[simp] theorem setReg_shadows (s : State) (n : Nat) (w : Word) : (setReg s n w).shadows = s.shadows := rfl
@[simp] theorem setReg_marks (s : State) (n : Nat) (w : Word) : (setReg s n w).marks = s.marks := rfl
@[simp] theorem setReg_markNo (s : State) (n : Nat) (w : Word) : (setReg s n w).markNo = s.markNo := rfl
@[simp] theorem setReg_snap (s : State) (n : Nat) (w : Word) : (setReg s n w).snap = s.snap := rfl
@[simp] theorem setReg_snFlight (s : State) (n : Nat) (w : Word) : (setReg s n w).snFlight = s.snFlight := rfl
@[simp] theorem setReg_pins (s : State) (n : Nat) (w : Word) : (setReg s n w).pins = s.pins := rfl
@[simp] theorem setReg_probes (s : State) (n : Nat) (w : Word) : (setReg s n w).probes = s.probes := rfl
@[simp] theorem setReg_slotTabs (s : State) (n : Nat) (w : Word) : (setReg s n w).slotTabs = s.slotTabs := rfl
@[simp] theorem setReg_rounds (s : State) (n : Nat) (w : Word) : (setReg s n w).rounds = s.rounds := rfl
@[simp] theorem setReg_contribs (s : State) (n : Nat) (w : Word) : (setReg s n w).contribs = s.contribs := rfl
@[simp] theorem setReg_ctab (s : State) (n : Nat) (w : Word) : (setReg s n w).ctab = s.ctab := rfl
@[simp] theorem setReg_ctabBusy (s : State) (n : Nat) (w : Word) : (setReg s n w).ctabBusy = s.ctabBusy := rfl
@[simp] theorem setReg_ctabTook (s : State) (n : Nat) (w : Word) : (setReg s n w).ctabTook = s.ctabTook := rfl
@[simp] theorem setReg_carveOld (s : State) (n : Nat) (w : Word) : (setReg s n w).carveOld = s.carveOld := rfl
@[simp] theorem setReg_ks (s : State) (n : Nat) (w : Word) : (setReg s n w).ks = s.ks := rfl
@[simp] theorem setReg_hostRoot (s : State) (n : Nat) (w : Word) : (setReg s n w).hostRoot = s.hostRoot := rfl
@[simp] theorem setReg_hostTlb (s : State) (n : Nat) (w : Word) : (setReg s n w).hostTlb = s.hostTlb := rfl
@[simp] theorem setReg_fqBuf (s : State) (n : Nat) (w : Word) : (setReg s n w).fqBuf = s.fqBuf := rfl
@[simp] theorem setReg_collies (s : State) (n : Nat) (w : Word) : (setReg s n w).collies = s.collies := rfl
@[simp] theorem setReg_ports (s : State) (n : Nat) (w : Word) : (setReg s n w).ports = s.ports := rfl
@[simp] theorem setReg_sent (s : State) (n : Nat) (w : Word) : (setReg s n w).sent = s.sent := rfl
@[simp] theorem setReg_routes (s : State) (n : Nat) (w : Word) : (setReg s n w).routes = s.routes := rfl
@[simp] theorem setReg_peerOut (s : State) (n : Nat) (w : Word) : (setReg s n w).peerOut = s.peerOut := rfl
@[simp] theorem setReg_peerIn (s : State) (n : Nat) (w : Word) : (setReg s n w).peerIn = s.peerIn := rfl
@[simp] theorem setReg_ptmcOut (s : State) (n : Nat) (w : Word) : (setReg s n w).ptmcOut = s.ptmcOut := rfl
@[simp] theorem setReg_ptmcFwd (s : State) (n : Nat) (w : Word) : (setReg s n w).ptmcFwd = s.ptmcFwd := rfl
@[simp] theorem setReg_ptmcLast (s : State) (n : Nat) (w : Word) : (setReg s n w).ptmcLast = s.ptmcLast := rfl
@[simp] theorem setReg_ptmcAck (s : State) (n : Nat) (w : Word) : (setReg s n w).ptmcAck = s.ptmcAck := rfl
@[simp] theorem setReg_herr (s : State) (n : Nat) (w : Word) : (setReg s n w).herr = s.herr := rfl
@[simp] theorem setReg_tstamp (s : State) (n : Nat) (w : Word) : (setReg s n w).tstamp = s.tstamp := rfl
@[simp] theorem setReg_tscap (s : State) (n : Nat) (w : Word) : (setReg s n w).tscap = s.tscap := rfl
@[simp] theorem setReg_flashA (s : State) (n : Nat) (w : Word) : (setReg s n w).flashA = s.flashA := rfl
@[simp] theorem setReg_flashB (s : State) (n : Nat) (w : Word) : (setReg s n w).flashB = s.flashB := rfl
@[simp] theorem setReg_svnMin (s : State) (n : Nat) (w : Word) : (setReg s n w).svnMin = s.svnMin := rfl
@[simp] theorem setReg_units (s : State) (n : Nat) (w : Word) : (setReg s n w).units = s.units := rfl
@[simp] theorem setReg_cfgKey (s : State) (n : Nat) (w : Word) : (setReg s n w).cfgKey = s.cfgKey := rfl
@[simp] theorem setReg_absent (s : State) (n : Nat) (w : Word) : (setReg s n w).absent = s.absent := rfl
@[simp] theorem setReg_identity (s : State) (n : Nat) (w : Word) : (setReg s n w).identity = s.identity := rfl
@[simp] theorem setReg_hostOut (s : State) (n : Nat) (w : Word) : (setReg s n w).hostOut = s.hostOut := rfl
@[simp] theorem setReg_sched (s : State) (n : Nat) (w : Word) : (setReg s n w).sched = s.sched := rfl
@[simp] theorem setReg_cur (s : State) (n : Nat) (w : Word) : (setReg s n w).cur = s.cur := rfl
@[simp] theorem setReg_alt (s : State) (n : Nat) (w : Word) : (setReg s n w).alt = s.alt := rfl
@[simp] theorem setReg_tick (s : State) (n : Nat) (w : Word) : (setReg s n w).tick = s.tick := rfl
@[simp] theorem setReg_nextId (s : State) (n : Nat) (w : Word) : (setReg s n w).nextId = s.nextId := rfl

/-! ## putReg -/

@[simp] theorem putReg_cores (s : State) (n hi lo v : Nat) : (putReg s n hi lo v).cores = s.cores := rfl
@[simp] theorem putReg_mem (s : State) (n hi lo v : Nat) : (putReg s n hi lo v).mem = s.mem := rfl
@[simp] theorem putReg_poison (s : State) (n hi lo v : Nat) : (putReg s n hi lo v).poison = s.poison := rfl
@[simp] theorem putReg_deck (s : State) (n hi lo v : Nat) : (putReg s n hi lo v).deck = s.deck := rfl
@[simp] theorem putReg_mdCache (s : State) (n hi lo v : Nat) : (putReg s n hi lo v).mdCache = s.mdCache := rfl
@[simp] theorem putReg_slices (s : State) (n hi lo v : Nat) : (putReg s n hi lo v).slices = s.slices := rfl
@[simp] theorem putReg_shadows (s : State) (n hi lo v : Nat) : (putReg s n hi lo v).shadows = s.shadows := rfl
@[simp] theorem putReg_marks (s : State) (n hi lo v : Nat) : (putReg s n hi lo v).marks = s.marks := rfl
@[simp] theorem putReg_markNo (s : State) (n hi lo v : Nat) : (putReg s n hi lo v).markNo = s.markNo := rfl
@[simp] theorem putReg_snap (s : State) (n hi lo v : Nat) : (putReg s n hi lo v).snap = s.snap := rfl
@[simp] theorem putReg_snFlight (s : State) (n hi lo v : Nat) : (putReg s n hi lo v).snFlight = s.snFlight := rfl
@[simp] theorem putReg_pins (s : State) (n hi lo v : Nat) : (putReg s n hi lo v).pins = s.pins := rfl
@[simp] theorem putReg_probes (s : State) (n hi lo v : Nat) : (putReg s n hi lo v).probes = s.probes := rfl
@[simp] theorem putReg_slotTabs (s : State) (n hi lo v : Nat) : (putReg s n hi lo v).slotTabs = s.slotTabs := rfl
@[simp] theorem putReg_rounds (s : State) (n hi lo v : Nat) : (putReg s n hi lo v).rounds = s.rounds := rfl
@[simp] theorem putReg_contribs (s : State) (n hi lo v : Nat) : (putReg s n hi lo v).contribs = s.contribs := rfl
@[simp] theorem putReg_ctab (s : State) (n hi lo v : Nat) : (putReg s n hi lo v).ctab = s.ctab := rfl
@[simp] theorem putReg_ctabBusy (s : State) (n hi lo v : Nat) : (putReg s n hi lo v).ctabBusy = s.ctabBusy := rfl
@[simp] theorem putReg_ctabTook (s : State) (n hi lo v : Nat) : (putReg s n hi lo v).ctabTook = s.ctabTook := rfl
@[simp] theorem putReg_carveOld (s : State) (n hi lo v : Nat) : (putReg s n hi lo v).carveOld = s.carveOld := rfl
@[simp] theorem putReg_ks (s : State) (n hi lo v : Nat) : (putReg s n hi lo v).ks = s.ks := rfl
@[simp] theorem putReg_hostRoot (s : State) (n hi lo v : Nat) : (putReg s n hi lo v).hostRoot = s.hostRoot := rfl
@[simp] theorem putReg_hostTlb (s : State) (n hi lo v : Nat) : (putReg s n hi lo v).hostTlb = s.hostTlb := rfl
@[simp] theorem putReg_fqBuf (s : State) (n hi lo v : Nat) : (putReg s n hi lo v).fqBuf = s.fqBuf := rfl
@[simp] theorem putReg_collies (s : State) (n hi lo v : Nat) : (putReg s n hi lo v).collies = s.collies := rfl
@[simp] theorem putReg_ports (s : State) (n hi lo v : Nat) : (putReg s n hi lo v).ports = s.ports := rfl
@[simp] theorem putReg_sent (s : State) (n hi lo v : Nat) : (putReg s n hi lo v).sent = s.sent := rfl
@[simp] theorem putReg_routes (s : State) (n hi lo v : Nat) : (putReg s n hi lo v).routes = s.routes := rfl
@[simp] theorem putReg_peerOut (s : State) (n hi lo v : Nat) : (putReg s n hi lo v).peerOut = s.peerOut := rfl
@[simp] theorem putReg_peerIn (s : State) (n hi lo v : Nat) : (putReg s n hi lo v).peerIn = s.peerIn := rfl
@[simp] theorem putReg_ptmcOut (s : State) (n hi lo v : Nat) : (putReg s n hi lo v).ptmcOut = s.ptmcOut := rfl
@[simp] theorem putReg_ptmcFwd (s : State) (n hi lo v : Nat) : (putReg s n hi lo v).ptmcFwd = s.ptmcFwd := rfl
@[simp] theorem putReg_ptmcLast (s : State) (n hi lo v : Nat) : (putReg s n hi lo v).ptmcLast = s.ptmcLast := rfl
@[simp] theorem putReg_ptmcAck (s : State) (n hi lo v : Nat) : (putReg s n hi lo v).ptmcAck = s.ptmcAck := rfl
@[simp] theorem putReg_herr (s : State) (n hi lo v : Nat) : (putReg s n hi lo v).herr = s.herr := rfl
@[simp] theorem putReg_tstamp (s : State) (n hi lo v : Nat) : (putReg s n hi lo v).tstamp = s.tstamp := rfl
@[simp] theorem putReg_tscap (s : State) (n hi lo v : Nat) : (putReg s n hi lo v).tscap = s.tscap := rfl
@[simp] theorem putReg_flashA (s : State) (n hi lo v : Nat) : (putReg s n hi lo v).flashA = s.flashA := rfl
@[simp] theorem putReg_flashB (s : State) (n hi lo v : Nat) : (putReg s n hi lo v).flashB = s.flashB := rfl
@[simp] theorem putReg_svnMin (s : State) (n hi lo v : Nat) : (putReg s n hi lo v).svnMin = s.svnMin := rfl
@[simp] theorem putReg_units (s : State) (n hi lo v : Nat) : (putReg s n hi lo v).units = s.units := rfl
@[simp] theorem putReg_cfgKey (s : State) (n hi lo v : Nat) : (putReg s n hi lo v).cfgKey = s.cfgKey := rfl
@[simp] theorem putReg_absent (s : State) (n hi lo v : Nat) : (putReg s n hi lo v).absent = s.absent := rfl
@[simp] theorem putReg_identity (s : State) (n hi lo v : Nat) : (putReg s n hi lo v).identity = s.identity := rfl
@[simp] theorem putReg_hostOut (s : State) (n hi lo v : Nat) : (putReg s n hi lo v).hostOut = s.hostOut := rfl
@[simp] theorem putReg_sched (s : State) (n hi lo v : Nat) : (putReg s n hi lo v).sched = s.sched := rfl
@[simp] theorem putReg_cur (s : State) (n hi lo v : Nat) : (putReg s n hi lo v).cur = s.cur := rfl
@[simp] theorem putReg_alt (s : State) (n hi lo v : Nat) : (putReg s n hi lo v).alt = s.alt := rfl
@[simp] theorem putReg_tick (s : State) (n hi lo v : Nat) : (putReg s n hi lo v).tick = s.tick := rfl
@[simp] theorem putReg_nextId (s : State) (n hi lo v : Nat) : (putReg s n hi lo v).nextId = s.nextId := rfl

/-! ## setCollie -/

@[simp] theorem setCollie_cores (s : State) (d : Nat) (x : Collie) : (setCollie s d x).cores = s.cores := rfl
@[simp] theorem setCollie_mem (s : State) (d : Nat) (x : Collie) : (setCollie s d x).mem = s.mem := rfl
@[simp] theorem setCollie_poison (s : State) (d : Nat) (x : Collie) : (setCollie s d x).poison = s.poison := rfl
@[simp] theorem setCollie_deck (s : State) (d : Nat) (x : Collie) : (setCollie s d x).deck = s.deck := rfl
@[simp] theorem setCollie_mdCache (s : State) (d : Nat) (x : Collie) : (setCollie s d x).mdCache = s.mdCache := rfl
@[simp] theorem setCollie_slices (s : State) (d : Nat) (x : Collie) : (setCollie s d x).slices = s.slices := rfl
@[simp] theorem setCollie_shadows (s : State) (d : Nat) (x : Collie) : (setCollie s d x).shadows = s.shadows := rfl
@[simp] theorem setCollie_marks (s : State) (d : Nat) (x : Collie) : (setCollie s d x).marks = s.marks := rfl
@[simp] theorem setCollie_markNo (s : State) (d : Nat) (x : Collie) : (setCollie s d x).markNo = s.markNo := rfl
@[simp] theorem setCollie_snap (s : State) (d : Nat) (x : Collie) : (setCollie s d x).snap = s.snap := rfl
@[simp] theorem setCollie_snFlight (s : State) (d : Nat) (x : Collie) : (setCollie s d x).snFlight = s.snFlight := rfl
@[simp] theorem setCollie_pins (s : State) (d : Nat) (x : Collie) : (setCollie s d x).pins = s.pins := rfl
@[simp] theorem setCollie_probes (s : State) (d : Nat) (x : Collie) : (setCollie s d x).probes = s.probes := rfl
@[simp] theorem setCollie_slotTabs (s : State) (d : Nat) (x : Collie) : (setCollie s d x).slotTabs = s.slotTabs := rfl
@[simp] theorem setCollie_rounds (s : State) (d : Nat) (x : Collie) : (setCollie s d x).rounds = s.rounds := rfl
@[simp] theorem setCollie_contribs (s : State) (d : Nat) (x : Collie) : (setCollie s d x).contribs = s.contribs := rfl
@[simp] theorem setCollie_ctab (s : State) (d : Nat) (x : Collie) : (setCollie s d x).ctab = s.ctab := rfl
@[simp] theorem setCollie_ctabBusy (s : State) (d : Nat) (x : Collie) : (setCollie s d x).ctabBusy = s.ctabBusy := rfl
@[simp] theorem setCollie_ctabTook (s : State) (d : Nat) (x : Collie) : (setCollie s d x).ctabTook = s.ctabTook := rfl
@[simp] theorem setCollie_carveOld (s : State) (d : Nat) (x : Collie) : (setCollie s d x).carveOld = s.carveOld := rfl
@[simp] theorem setCollie_ks (s : State) (d : Nat) (x : Collie) : (setCollie s d x).ks = s.ks := rfl
@[simp] theorem setCollie_regs (s : State) (d : Nat) (x : Collie) : (setCollie s d x).regs = s.regs := rfl
@[simp] theorem setCollie_hostRoot (s : State) (d : Nat) (x : Collie) : (setCollie s d x).hostRoot = s.hostRoot := rfl
@[simp] theorem setCollie_hostTlb (s : State) (d : Nat) (x : Collie) : (setCollie s d x).hostTlb = s.hostTlb := rfl
@[simp] theorem setCollie_fqBuf (s : State) (d : Nat) (x : Collie) : (setCollie s d x).fqBuf = s.fqBuf := rfl
@[simp] theorem setCollie_ports (s : State) (d : Nat) (x : Collie) : (setCollie s d x).ports = s.ports := rfl
@[simp] theorem setCollie_sent (s : State) (d : Nat) (x : Collie) : (setCollie s d x).sent = s.sent := rfl
@[simp] theorem setCollie_routes (s : State) (d : Nat) (x : Collie) : (setCollie s d x).routes = s.routes := rfl
@[simp] theorem setCollie_peerOut (s : State) (d : Nat) (x : Collie) : (setCollie s d x).peerOut = s.peerOut := rfl
@[simp] theorem setCollie_peerIn (s : State) (d : Nat) (x : Collie) : (setCollie s d x).peerIn = s.peerIn := rfl
@[simp] theorem setCollie_ptmcOut (s : State) (d : Nat) (x : Collie) : (setCollie s d x).ptmcOut = s.ptmcOut := rfl
@[simp] theorem setCollie_ptmcFwd (s : State) (d : Nat) (x : Collie) : (setCollie s d x).ptmcFwd = s.ptmcFwd := rfl
@[simp] theorem setCollie_ptmcLast (s : State) (d : Nat) (x : Collie) : (setCollie s d x).ptmcLast = s.ptmcLast := rfl
@[simp] theorem setCollie_ptmcAck (s : State) (d : Nat) (x : Collie) : (setCollie s d x).ptmcAck = s.ptmcAck := rfl
@[simp] theorem setCollie_herr (s : State) (d : Nat) (x : Collie) : (setCollie s d x).herr = s.herr := rfl
@[simp] theorem setCollie_tstamp (s : State) (d : Nat) (x : Collie) : (setCollie s d x).tstamp = s.tstamp := rfl
@[simp] theorem setCollie_tscap (s : State) (d : Nat) (x : Collie) : (setCollie s d x).tscap = s.tscap := rfl
@[simp] theorem setCollie_flashA (s : State) (d : Nat) (x : Collie) : (setCollie s d x).flashA = s.flashA := rfl
@[simp] theorem setCollie_flashB (s : State) (d : Nat) (x : Collie) : (setCollie s d x).flashB = s.flashB := rfl
@[simp] theorem setCollie_svnMin (s : State) (d : Nat) (x : Collie) : (setCollie s d x).svnMin = s.svnMin := rfl
@[simp] theorem setCollie_units (s : State) (d : Nat) (x : Collie) : (setCollie s d x).units = s.units := rfl
@[simp] theorem setCollie_cfgKey (s : State) (d : Nat) (x : Collie) : (setCollie s d x).cfgKey = s.cfgKey := rfl
@[simp] theorem setCollie_absent (s : State) (d : Nat) (x : Collie) : (setCollie s d x).absent = s.absent := rfl
@[simp] theorem setCollie_identity (s : State) (d : Nat) (x : Collie) : (setCollie s d x).identity = s.identity := rfl
@[simp] theorem setCollie_hostOut (s : State) (d : Nat) (x : Collie) : (setCollie s d x).hostOut = s.hostOut := rfl
@[simp] theorem setCollie_sched (s : State) (d : Nat) (x : Collie) : (setCollie s d x).sched = s.sched := rfl
@[simp] theorem setCollie_cur (s : State) (d : Nat) (x : Collie) : (setCollie s d x).cur = s.cur := rfl
@[simp] theorem setCollie_alt (s : State) (d : Nat) (x : Collie) : (setCollie s d x).alt = s.alt := rfl
@[simp] theorem setCollie_tick (s : State) (d : Nat) (x : Collie) : (setCollie s d x).tick = s.tick := rfl
@[simp] theorem setCollie_nextId (s : State) (d : Nat) (x : Collie) : (setCollie s d x).nextId = s.nextId := rfl

/-! ## setPort -/

@[simp] theorem setPort_cores (s : State) (p : Nat) (x : Port) : (setPort s p x).cores = s.cores := rfl
@[simp] theorem setPort_mem (s : State) (p : Nat) (x : Port) : (setPort s p x).mem = s.mem := rfl
@[simp] theorem setPort_poison (s : State) (p : Nat) (x : Port) : (setPort s p x).poison = s.poison := rfl
@[simp] theorem setPort_deck (s : State) (p : Nat) (x : Port) : (setPort s p x).deck = s.deck := rfl
@[simp] theorem setPort_mdCache (s : State) (p : Nat) (x : Port) : (setPort s p x).mdCache = s.mdCache := rfl
@[simp] theorem setPort_slices (s : State) (p : Nat) (x : Port) : (setPort s p x).slices = s.slices := rfl
@[simp] theorem setPort_shadows (s : State) (p : Nat) (x : Port) : (setPort s p x).shadows = s.shadows := rfl
@[simp] theorem setPort_marks (s : State) (p : Nat) (x : Port) : (setPort s p x).marks = s.marks := rfl
@[simp] theorem setPort_markNo (s : State) (p : Nat) (x : Port) : (setPort s p x).markNo = s.markNo := rfl
@[simp] theorem setPort_snap (s : State) (p : Nat) (x : Port) : (setPort s p x).snap = s.snap := rfl
@[simp] theorem setPort_snFlight (s : State) (p : Nat) (x : Port) : (setPort s p x).snFlight = s.snFlight := rfl
@[simp] theorem setPort_pins (s : State) (p : Nat) (x : Port) : (setPort s p x).pins = s.pins := rfl
@[simp] theorem setPort_probes (s : State) (p : Nat) (x : Port) : (setPort s p x).probes = s.probes := rfl
@[simp] theorem setPort_slotTabs (s : State) (p : Nat) (x : Port) : (setPort s p x).slotTabs = s.slotTabs := rfl
@[simp] theorem setPort_rounds (s : State) (p : Nat) (x : Port) : (setPort s p x).rounds = s.rounds := rfl
@[simp] theorem setPort_contribs (s : State) (p : Nat) (x : Port) : (setPort s p x).contribs = s.contribs := rfl
@[simp] theorem setPort_ctab (s : State) (p : Nat) (x : Port) : (setPort s p x).ctab = s.ctab := rfl
@[simp] theorem setPort_ctabBusy (s : State) (p : Nat) (x : Port) : (setPort s p x).ctabBusy = s.ctabBusy := rfl
@[simp] theorem setPort_ctabTook (s : State) (p : Nat) (x : Port) : (setPort s p x).ctabTook = s.ctabTook := rfl
@[simp] theorem setPort_carveOld (s : State) (p : Nat) (x : Port) : (setPort s p x).carveOld = s.carveOld := rfl
@[simp] theorem setPort_ks (s : State) (p : Nat) (x : Port) : (setPort s p x).ks = s.ks := rfl
@[simp] theorem setPort_regs (s : State) (p : Nat) (x : Port) : (setPort s p x).regs = s.regs := rfl
@[simp] theorem setPort_hostRoot (s : State) (p : Nat) (x : Port) : (setPort s p x).hostRoot = s.hostRoot := rfl
@[simp] theorem setPort_hostTlb (s : State) (p : Nat) (x : Port) : (setPort s p x).hostTlb = s.hostTlb := rfl
@[simp] theorem setPort_fqBuf (s : State) (p : Nat) (x : Port) : (setPort s p x).fqBuf = s.fqBuf := rfl
@[simp] theorem setPort_collies (s : State) (p : Nat) (x : Port) : (setPort s p x).collies = s.collies := rfl
@[simp] theorem setPort_sent (s : State) (p : Nat) (x : Port) : (setPort s p x).sent = s.sent := rfl
@[simp] theorem setPort_routes (s : State) (p : Nat) (x : Port) : (setPort s p x).routes = s.routes := rfl
@[simp] theorem setPort_peerOut (s : State) (p : Nat) (x : Port) : (setPort s p x).peerOut = s.peerOut := rfl
@[simp] theorem setPort_peerIn (s : State) (p : Nat) (x : Port) : (setPort s p x).peerIn = s.peerIn := rfl
@[simp] theorem setPort_ptmcOut (s : State) (p : Nat) (x : Port) : (setPort s p x).ptmcOut = s.ptmcOut := rfl
@[simp] theorem setPort_ptmcFwd (s : State) (p : Nat) (x : Port) : (setPort s p x).ptmcFwd = s.ptmcFwd := rfl
@[simp] theorem setPort_ptmcLast (s : State) (p : Nat) (x : Port) : (setPort s p x).ptmcLast = s.ptmcLast := rfl
@[simp] theorem setPort_ptmcAck (s : State) (p : Nat) (x : Port) : (setPort s p x).ptmcAck = s.ptmcAck := rfl
@[simp] theorem setPort_herr (s : State) (p : Nat) (x : Port) : (setPort s p x).herr = s.herr := rfl
@[simp] theorem setPort_tstamp (s : State) (p : Nat) (x : Port) : (setPort s p x).tstamp = s.tstamp := rfl
@[simp] theorem setPort_tscap (s : State) (p : Nat) (x : Port) : (setPort s p x).tscap = s.tscap := rfl
@[simp] theorem setPort_flashA (s : State) (p : Nat) (x : Port) : (setPort s p x).flashA = s.flashA := rfl
@[simp] theorem setPort_flashB (s : State) (p : Nat) (x : Port) : (setPort s p x).flashB = s.flashB := rfl
@[simp] theorem setPort_svnMin (s : State) (p : Nat) (x : Port) : (setPort s p x).svnMin = s.svnMin := rfl
@[simp] theorem setPort_units (s : State) (p : Nat) (x : Port) : (setPort s p x).units = s.units := rfl
@[simp] theorem setPort_cfgKey (s : State) (p : Nat) (x : Port) : (setPort s p x).cfgKey = s.cfgKey := rfl
@[simp] theorem setPort_absent (s : State) (p : Nat) (x : Port) : (setPort s p x).absent = s.absent := rfl
@[simp] theorem setPort_identity (s : State) (p : Nat) (x : Port) : (setPort s p x).identity = s.identity := rfl
@[simp] theorem setPort_hostOut (s : State) (p : Nat) (x : Port) : (setPort s p x).hostOut = s.hostOut := rfl
@[simp] theorem setPort_sched (s : State) (p : Nat) (x : Port) : (setPort s p x).sched = s.sched := rfl
@[simp] theorem setPort_cur (s : State) (p : Nat) (x : Port) : (setPort s p x).cur = s.cur := rfl
@[simp] theorem setPort_alt (s : State) (p : Nat) (x : Port) : (setPort s p x).alt = s.alt := rfl
@[simp] theorem setPort_tick (s : State) (p : Nat) (x : Port) : (setPort s p x).tick = s.tick := rfl
@[simp] theorem setPort_nextId (s : State) (p : Nat) (x : Port) : (setPort s p x).nextId = s.nextId := rfl

/-! ## nextTick -/

@[simp] theorem nextTick_cores (s : State) : (nextTick s).cores = s.cores := rfl
@[simp] theorem nextTick_mem (s : State) : (nextTick s).mem = s.mem := rfl
@[simp] theorem nextTick_poison (s : State) : (nextTick s).poison = s.poison := rfl
@[simp] theorem nextTick_deck (s : State) : (nextTick s).deck = s.deck := rfl
@[simp] theorem nextTick_mdCache (s : State) : (nextTick s).mdCache = s.mdCache := rfl
@[simp] theorem nextTick_slices (s : State) : (nextTick s).slices = s.slices := rfl
@[simp] theorem nextTick_shadows (s : State) : (nextTick s).shadows = s.shadows := rfl
@[simp] theorem nextTick_marks (s : State) : (nextTick s).marks = s.marks := rfl
@[simp] theorem nextTick_markNo (s : State) : (nextTick s).markNo = s.markNo := rfl
@[simp] theorem nextTick_snap (s : State) : (nextTick s).snap = s.snap := rfl
@[simp] theorem nextTick_snFlight (s : State) : (nextTick s).snFlight = s.snFlight := rfl
@[simp] theorem nextTick_pins (s : State) : (nextTick s).pins = s.pins := rfl
@[simp] theorem nextTick_probes (s : State) : (nextTick s).probes = s.probes := rfl
@[simp] theorem nextTick_slotTabs (s : State) : (nextTick s).slotTabs = s.slotTabs := rfl
@[simp] theorem nextTick_rounds (s : State) : (nextTick s).rounds = s.rounds := rfl
@[simp] theorem nextTick_contribs (s : State) : (nextTick s).contribs = s.contribs := rfl
@[simp] theorem nextTick_ctab (s : State) : (nextTick s).ctab = s.ctab := rfl
@[simp] theorem nextTick_ctabBusy (s : State) : (nextTick s).ctabBusy = s.ctabBusy := rfl
@[simp] theorem nextTick_ctabTook (s : State) : (nextTick s).ctabTook = s.ctabTook := rfl
@[simp] theorem nextTick_carveOld (s : State) : (nextTick s).carveOld = s.carveOld := rfl
@[simp] theorem nextTick_ks (s : State) : (nextTick s).ks = s.ks := rfl
@[simp] theorem nextTick_regs (s : State) : (nextTick s).regs = s.regs := rfl
@[simp] theorem nextTick_hostRoot (s : State) : (nextTick s).hostRoot = s.hostRoot := rfl
@[simp] theorem nextTick_hostTlb (s : State) : (nextTick s).hostTlb = s.hostTlb := rfl
@[simp] theorem nextTick_fqBuf (s : State) : (nextTick s).fqBuf = s.fqBuf := rfl
@[simp] theorem nextTick_collies (s : State) : (nextTick s).collies = s.collies := rfl
@[simp] theorem nextTick_ports (s : State) : (nextTick s).ports = s.ports := rfl
@[simp] theorem nextTick_sent (s : State) : (nextTick s).sent = s.sent := rfl
@[simp] theorem nextTick_routes (s : State) : (nextTick s).routes = s.routes := rfl
@[simp] theorem nextTick_peerOut (s : State) : (nextTick s).peerOut = s.peerOut := rfl
@[simp] theorem nextTick_peerIn (s : State) : (nextTick s).peerIn = s.peerIn := rfl
@[simp] theorem nextTick_ptmcOut (s : State) : (nextTick s).ptmcOut = s.ptmcOut := rfl
@[simp] theorem nextTick_ptmcFwd (s : State) : (nextTick s).ptmcFwd = s.ptmcFwd := rfl
@[simp] theorem nextTick_ptmcLast (s : State) : (nextTick s).ptmcLast = s.ptmcLast := rfl
@[simp] theorem nextTick_ptmcAck (s : State) : (nextTick s).ptmcAck = s.ptmcAck := rfl
@[simp] theorem nextTick_herr (s : State) : (nextTick s).herr = s.herr := rfl
@[simp] theorem nextTick_tstamp (s : State) : (nextTick s).tstamp = s.tstamp := rfl
@[simp] theorem nextTick_tscap (s : State) : (nextTick s).tscap = s.tscap := rfl
@[simp] theorem nextTick_flashA (s : State) : (nextTick s).flashA = s.flashA := rfl
@[simp] theorem nextTick_flashB (s : State) : (nextTick s).flashB = s.flashB := rfl
@[simp] theorem nextTick_svnMin (s : State) : (nextTick s).svnMin = s.svnMin := rfl
@[simp] theorem nextTick_units (s : State) : (nextTick s).units = s.units := rfl
@[simp] theorem nextTick_cfgKey (s : State) : (nextTick s).cfgKey = s.cfgKey := rfl
@[simp] theorem nextTick_absent (s : State) : (nextTick s).absent = s.absent := rfl
@[simp] theorem nextTick_identity (s : State) : (nextTick s).identity = s.identity := rfl
@[simp] theorem nextTick_hostOut (s : State) : (nextTick s).hostOut = s.hostOut := rfl
@[simp] theorem nextTick_sched (s : State) : (nextTick s).sched = s.sched := rfl
@[simp] theorem nextTick_cur (s : State) : (nextTick s).cur = s.cur := rfl
@[simp] theorem nextTick_alt (s : State) : (nextTick s).alt = s.alt := rfl
@[simp] theorem nextTick_nextId (s : State) : (nextTick s).nextId = s.nextId := rfl

/-! ## freshId -/

@[simp] theorem freshId_cores (s : State) : (freshId s).1.cores = s.cores := rfl
@[simp] theorem freshId_mem (s : State) : (freshId s).1.mem = s.mem := rfl
@[simp] theorem freshId_poison (s : State) : (freshId s).1.poison = s.poison := rfl
@[simp] theorem freshId_deck (s : State) : (freshId s).1.deck = s.deck := rfl
@[simp] theorem freshId_mdCache (s : State) : (freshId s).1.mdCache = s.mdCache := rfl
@[simp] theorem freshId_slices (s : State) : (freshId s).1.slices = s.slices := rfl
@[simp] theorem freshId_shadows (s : State) : (freshId s).1.shadows = s.shadows := rfl
@[simp] theorem freshId_marks (s : State) : (freshId s).1.marks = s.marks := rfl
@[simp] theorem freshId_markNo (s : State) : (freshId s).1.markNo = s.markNo := rfl
@[simp] theorem freshId_snap (s : State) : (freshId s).1.snap = s.snap := rfl
@[simp] theorem freshId_snFlight (s : State) : (freshId s).1.snFlight = s.snFlight := rfl
@[simp] theorem freshId_pins (s : State) : (freshId s).1.pins = s.pins := rfl
@[simp] theorem freshId_probes (s : State) : (freshId s).1.probes = s.probes := rfl
@[simp] theorem freshId_slotTabs (s : State) : (freshId s).1.slotTabs = s.slotTabs := rfl
@[simp] theorem freshId_rounds (s : State) : (freshId s).1.rounds = s.rounds := rfl
@[simp] theorem freshId_contribs (s : State) : (freshId s).1.contribs = s.contribs := rfl
@[simp] theorem freshId_ctab (s : State) : (freshId s).1.ctab = s.ctab := rfl
@[simp] theorem freshId_ctabBusy (s : State) : (freshId s).1.ctabBusy = s.ctabBusy := rfl
@[simp] theorem freshId_ctabTook (s : State) : (freshId s).1.ctabTook = s.ctabTook := rfl
@[simp] theorem freshId_carveOld (s : State) : (freshId s).1.carveOld = s.carveOld := rfl
@[simp] theorem freshId_ks (s : State) : (freshId s).1.ks = s.ks := rfl
@[simp] theorem freshId_regs (s : State) : (freshId s).1.regs = s.regs := rfl
@[simp] theorem freshId_hostRoot (s : State) : (freshId s).1.hostRoot = s.hostRoot := rfl
@[simp] theorem freshId_hostTlb (s : State) : (freshId s).1.hostTlb = s.hostTlb := rfl
@[simp] theorem freshId_fqBuf (s : State) : (freshId s).1.fqBuf = s.fqBuf := rfl
@[simp] theorem freshId_collies (s : State) : (freshId s).1.collies = s.collies := rfl
@[simp] theorem freshId_ports (s : State) : (freshId s).1.ports = s.ports := rfl
@[simp] theorem freshId_sent (s : State) : (freshId s).1.sent = s.sent := rfl
@[simp] theorem freshId_routes (s : State) : (freshId s).1.routes = s.routes := rfl
@[simp] theorem freshId_peerOut (s : State) : (freshId s).1.peerOut = s.peerOut := rfl
@[simp] theorem freshId_peerIn (s : State) : (freshId s).1.peerIn = s.peerIn := rfl
@[simp] theorem freshId_ptmcOut (s : State) : (freshId s).1.ptmcOut = s.ptmcOut := rfl
@[simp] theorem freshId_ptmcFwd (s : State) : (freshId s).1.ptmcFwd = s.ptmcFwd := rfl
@[simp] theorem freshId_ptmcLast (s : State) : (freshId s).1.ptmcLast = s.ptmcLast := rfl
@[simp] theorem freshId_ptmcAck (s : State) : (freshId s).1.ptmcAck = s.ptmcAck := rfl
@[simp] theorem freshId_herr (s : State) : (freshId s).1.herr = s.herr := rfl
@[simp] theorem freshId_tstamp (s : State) : (freshId s).1.tstamp = s.tstamp := rfl
@[simp] theorem freshId_tscap (s : State) : (freshId s).1.tscap = s.tscap := rfl
@[simp] theorem freshId_flashA (s : State) : (freshId s).1.flashA = s.flashA := rfl
@[simp] theorem freshId_flashB (s : State) : (freshId s).1.flashB = s.flashB := rfl
@[simp] theorem freshId_svnMin (s : State) : (freshId s).1.svnMin = s.svnMin := rfl
@[simp] theorem freshId_units (s : State) : (freshId s).1.units = s.units := rfl
@[simp] theorem freshId_cfgKey (s : State) : (freshId s).1.cfgKey = s.cfgKey := rfl
@[simp] theorem freshId_absent (s : State) : (freshId s).1.absent = s.absent := rfl
@[simp] theorem freshId_identity (s : State) : (freshId s).1.identity = s.identity := rfl
@[simp] theorem freshId_hostOut (s : State) : (freshId s).1.hostOut = s.hostOut := rfl
@[simp] theorem freshId_sched (s : State) : (freshId s).1.sched = s.sched := rfl
@[simp] theorem freshId_cur (s : State) : (freshId s).1.cur = s.cur := rfl
@[simp] theorem freshId_alt (s : State) : (freshId s).1.alt = s.alt := rfl
@[simp] theorem freshId_tick (s : State) : (freshId s).1.tick = s.tick := rfl

/-! ## countEvent -/

@[simp] theorem countEvent_mem (s : State) (c : Nat) (r : RoleId) (ev n : Nat) : (countEvent s c r ev n).mem = s.mem := rfl
@[simp] theorem countEvent_poison (s : State) (c : Nat) (r : RoleId) (ev n : Nat) : (countEvent s c r ev n).poison = s.poison := rfl
@[simp] theorem countEvent_deck (s : State) (c : Nat) (r : RoleId) (ev n : Nat) : (countEvent s c r ev n).deck = s.deck := rfl
@[simp] theorem countEvent_mdCache (s : State) (c : Nat) (r : RoleId) (ev n : Nat) : (countEvent s c r ev n).mdCache = s.mdCache := rfl
@[simp] theorem countEvent_slices (s : State) (c : Nat) (r : RoleId) (ev n : Nat) : (countEvent s c r ev n).slices = s.slices := rfl
@[simp] theorem countEvent_shadows (s : State) (c : Nat) (r : RoleId) (ev n : Nat) : (countEvent s c r ev n).shadows = s.shadows := rfl
@[simp] theorem countEvent_marks (s : State) (c : Nat) (r : RoleId) (ev n : Nat) : (countEvent s c r ev n).marks = s.marks := rfl
@[simp] theorem countEvent_markNo (s : State) (c : Nat) (r : RoleId) (ev n : Nat) : (countEvent s c r ev n).markNo = s.markNo := rfl
@[simp] theorem countEvent_snap (s : State) (c : Nat) (r : RoleId) (ev n : Nat) : (countEvent s c r ev n).snap = s.snap := rfl
@[simp] theorem countEvent_snFlight (s : State) (c : Nat) (r : RoleId) (ev n : Nat) : (countEvent s c r ev n).snFlight = s.snFlight := rfl
@[simp] theorem countEvent_pins (s : State) (c : Nat) (r : RoleId) (ev n : Nat) : (countEvent s c r ev n).pins = s.pins := rfl
@[simp] theorem countEvent_probes (s : State) (c : Nat) (r : RoleId) (ev n : Nat) : (countEvent s c r ev n).probes = s.probes := rfl
@[simp] theorem countEvent_slotTabs (s : State) (c : Nat) (r : RoleId) (ev n : Nat) : (countEvent s c r ev n).slotTabs = s.slotTabs := rfl
@[simp] theorem countEvent_rounds (s : State) (c : Nat) (r : RoleId) (ev n : Nat) : (countEvent s c r ev n).rounds = s.rounds := rfl
@[simp] theorem countEvent_contribs (s : State) (c : Nat) (r : RoleId) (ev n : Nat) : (countEvent s c r ev n).contribs = s.contribs := rfl
@[simp] theorem countEvent_ctab (s : State) (c : Nat) (r : RoleId) (ev n : Nat) : (countEvent s c r ev n).ctab = s.ctab := rfl
@[simp] theorem countEvent_ctabBusy (s : State) (c : Nat) (r : RoleId) (ev n : Nat) : (countEvent s c r ev n).ctabBusy = s.ctabBusy := rfl
@[simp] theorem countEvent_ctabTook (s : State) (c : Nat) (r : RoleId) (ev n : Nat) : (countEvent s c r ev n).ctabTook = s.ctabTook := rfl
@[simp] theorem countEvent_carveOld (s : State) (c : Nat) (r : RoleId) (ev n : Nat) : (countEvent s c r ev n).carveOld = s.carveOld := rfl
@[simp] theorem countEvent_ks (s : State) (c : Nat) (r : RoleId) (ev n : Nat) : (countEvent s c r ev n).ks = s.ks := rfl
@[simp] theorem countEvent_regs (s : State) (c : Nat) (r : RoleId) (ev n : Nat) : (countEvent s c r ev n).regs = s.regs := rfl
@[simp] theorem countEvent_hostRoot (s : State) (c : Nat) (r : RoleId) (ev n : Nat) : (countEvent s c r ev n).hostRoot = s.hostRoot := rfl
@[simp] theorem countEvent_hostTlb (s : State) (c : Nat) (r : RoleId) (ev n : Nat) : (countEvent s c r ev n).hostTlb = s.hostTlb := rfl
@[simp] theorem countEvent_fqBuf (s : State) (c : Nat) (r : RoleId) (ev n : Nat) : (countEvent s c r ev n).fqBuf = s.fqBuf := rfl
@[simp] theorem countEvent_collies (s : State) (c : Nat) (r : RoleId) (ev n : Nat) : (countEvent s c r ev n).collies = s.collies := rfl
@[simp] theorem countEvent_ports (s : State) (c : Nat) (r : RoleId) (ev n : Nat) : (countEvent s c r ev n).ports = s.ports := rfl
@[simp] theorem countEvent_sent (s : State) (c : Nat) (r : RoleId) (ev n : Nat) : (countEvent s c r ev n).sent = s.sent := rfl
@[simp] theorem countEvent_routes (s : State) (c : Nat) (r : RoleId) (ev n : Nat) : (countEvent s c r ev n).routes = s.routes := rfl
@[simp] theorem countEvent_peerOut (s : State) (c : Nat) (r : RoleId) (ev n : Nat) : (countEvent s c r ev n).peerOut = s.peerOut := rfl
@[simp] theorem countEvent_peerIn (s : State) (c : Nat) (r : RoleId) (ev n : Nat) : (countEvent s c r ev n).peerIn = s.peerIn := rfl
@[simp] theorem countEvent_ptmcOut (s : State) (c : Nat) (r : RoleId) (ev n : Nat) : (countEvent s c r ev n).ptmcOut = s.ptmcOut := rfl
@[simp] theorem countEvent_ptmcFwd (s : State) (c : Nat) (r : RoleId) (ev n : Nat) : (countEvent s c r ev n).ptmcFwd = s.ptmcFwd := rfl
@[simp] theorem countEvent_ptmcLast (s : State) (c : Nat) (r : RoleId) (ev n : Nat) : (countEvent s c r ev n).ptmcLast = s.ptmcLast := rfl
@[simp] theorem countEvent_ptmcAck (s : State) (c : Nat) (r : RoleId) (ev n : Nat) : (countEvent s c r ev n).ptmcAck = s.ptmcAck := rfl
@[simp] theorem countEvent_herr (s : State) (c : Nat) (r : RoleId) (ev n : Nat) : (countEvent s c r ev n).herr = s.herr := rfl
@[simp] theorem countEvent_tstamp (s : State) (c : Nat) (r : RoleId) (ev n : Nat) : (countEvent s c r ev n).tstamp = s.tstamp := rfl
@[simp] theorem countEvent_tscap (s : State) (c : Nat) (r : RoleId) (ev n : Nat) : (countEvent s c r ev n).tscap = s.tscap := rfl
@[simp] theorem countEvent_flashA (s : State) (c : Nat) (r : RoleId) (ev n : Nat) : (countEvent s c r ev n).flashA = s.flashA := rfl
@[simp] theorem countEvent_flashB (s : State) (c : Nat) (r : RoleId) (ev n : Nat) : (countEvent s c r ev n).flashB = s.flashB := rfl
@[simp] theorem countEvent_svnMin (s : State) (c : Nat) (r : RoleId) (ev n : Nat) : (countEvent s c r ev n).svnMin = s.svnMin := rfl
@[simp] theorem countEvent_units (s : State) (c : Nat) (r : RoleId) (ev n : Nat) : (countEvent s c r ev n).units = s.units := rfl
@[simp] theorem countEvent_cfgKey (s : State) (c : Nat) (r : RoleId) (ev n : Nat) : (countEvent s c r ev n).cfgKey = s.cfgKey := rfl
@[simp] theorem countEvent_absent (s : State) (c : Nat) (r : RoleId) (ev n : Nat) : (countEvent s c r ev n).absent = s.absent := rfl
@[simp] theorem countEvent_identity (s : State) (c : Nat) (r : RoleId) (ev n : Nat) : (countEvent s c r ev n).identity = s.identity := rfl
@[simp] theorem countEvent_hostOut (s : State) (c : Nat) (r : RoleId) (ev n : Nat) : (countEvent s c r ev n).hostOut = s.hostOut := rfl
@[simp] theorem countEvent_sched (s : State) (c : Nat) (r : RoleId) (ev n : Nat) : (countEvent s c r ev n).sched = s.sched := rfl
@[simp] theorem countEvent_cur (s : State) (c : Nat) (r : RoleId) (ev n : Nat) : (countEvent s c r ev n).cur = s.cur := rfl
@[simp] theorem countEvent_alt (s : State) (c : Nat) (r : RoleId) (ev n : Nat) : (countEvent s c r ev n).alt = s.alt := rfl
@[simp] theorem countEvent_tick (s : State) (c : Nat) (r : RoleId) (ev n : Nat) : (countEvent s c r ev n).tick = s.tick := rfl
@[simp] theorem countEvent_nextId (s : State) (c : Nat) (r : RoleId) (ev n : Nat) : (countEvent s c r ev n).nextId = s.nextId := rfl

/-! ## Core.setRole -/

@[simp] theorem setRole_xid (k : Core) (r : RoleId) (x : Role) : (k.setRole r x).xid = k.xid := by cases r <;> rfl
@[simp] theorem setRole_root (k : Core) (r : RoleId) (x : Role) : (k.setRole r x).root = k.root := by cases r <;> rfl
@[simp] theorem setRole_specdrop (k : Core) (r : RoleId) (x : Role) : (k.setRole r x).specdrop = k.specdrop := by cases r <;> rfl
@[simp] theorem setRole_cretry (k : Core) (r : RoleId) (x : Role) : (k.setRole r x).cretry = k.cretry := by cases r <;> rfl
@[simp] theorem setRole_bnd0 (k : Core) (r : RoleId) (x : Role) : (k.setRole r x).bnd0 = k.bnd0 := by cases r <;> rfl
@[simp] theorem setRole_bnd1 (k : Core) (r : RoleId) (x : Role) : (k.setRole r x).bnd1 = k.bnd1 := by cases r <;> rfl
@[simp] theorem setRole_bnd2 (k : Core) (r : RoleId) (x : Role) : (k.setRole r x).bnd2 = k.bnd2 := by cases r <;> rfl
@[simp] theorem setRole_win (k : Core) (r : RoleId) (x : Role) : (k.setRole r x).win = k.win := by cases r <;> rfl
@[simp] theorem setRole_rect (k : Core) (r : RoleId) (x : Role) : (k.setRole r x).rect = k.rect := by cases r <;> rfl
@[simp] theorem setRole_qctl (k : Core) (r : RoleId) (x : Role) : (k.setRole r x).qctl = k.qctl := by cases r <;> rfl
@[simp] theorem setRole_queues (k : Core) (r : RoleId) (x : Role) : (k.setRole r x).queues = k.queues := by cases r <;> rfl
@[simp] theorem setRole_vqueues (k : Core) (r : RoleId) (x : Role) : (k.setRole r x).vqueues = k.vqueues := by cases r <;> rfl
@[simp] theorem setRole_tokLC (k : Core) (r : RoleId) (x : Role) : (k.setRole r x).tokLC = k.tokLC := by cases r <;> rfl
@[simp] theorem setRole_tokCS (k : Core) (r : RoleId) (x : Role) : (k.setRole r x).tokCS = k.tokCS := by cases r <;> rfl
@[simp] theorem setRole_tokSL (k : Core) (r : RoleId) (x : Role) : (k.setRole r x).tokSL = k.tokSL := by cases r <;> rfl
@[simp] theorem setRole_hdesc (k : Core) (r : RoleId) (x : Role) : (k.setRole r x).hdesc = k.hdesc := by cases r <;> rfl
@[simp] theorem setRole_sems (k : Core) (r : RoleId) (x : Role) : (k.setRole r x).sems = k.sems := by cases r <;> rfl
@[simp] theorem setRole_task (k : Core) (r : RoleId) (x : Role) : (k.setRole r x).task = k.task := by cases r <;> rfl
@[simp] theorem setRole_slots (k : Core) (r : RoleId) (x : Role) : (k.setRole r x).slots = k.slots := by cases r <;> rfl
@[simp] theorem setRole_l1 (k : Core) (r : RoleId) (x : Role) : (k.setRole r x).l1 = k.l1 := by cases r <;> rfl
@[simp] theorem setRole_icache (k : Core) (r : RoleId) (x : Role) : (k.setRole r x).icache = k.icache := by cases r <;> rfl
@[simp] theorem setRole_image (k : Core) (r : RoleId) (x : Role) : (k.setRole r x).image = k.image := by cases r <;> rfl
@[simp] theorem setRole_tlb (k : Core) (r : RoleId) (x : Role) : (k.setRole r x).tlb = k.tlb := by cases r <;> rfl
@[simp] theorem setRole_writes (k : Core) (r : RoleId) (x : Role) : (k.setRole r x).writes = k.writes := by cases r <;> rfl
@[simp] theorem setRole_prefs (k : Core) (r : RoleId) (x : Role) : (k.setRole r x).prefs = k.prefs := by cases r <;> rfl
@[simp] theorem setRole_matrix (k : Core) (r : RoleId) (x : Role) : (k.setRole r x).matrix = k.matrix := by cases r <;> rfl
@[simp] theorem setRole_copy (k : Core) (r : RoleId) (x : Role) : (k.setRole r x).copy = k.copy := by cases r <;> rfl
@[simp] theorem setRole_pmc (k : Core) (r : RoleId) (x : Role) : (k.setRole r x).pmc = k.pmc := by cases r <;> rfl
@[simp] theorem setRole_pmsel (k : Core) (r : RoleId) (x : Role) : (k.setRole r x).pmsel = k.pmsel := by cases r <;> rfl
@[simp] theorem setRole_dbg (k : Core) (r : RoleId) (x : Role) : (k.setRole r x).dbg = k.dbg := by cases r <;> rfl
@[simp] theorem setRole_halted (k : Core) (r : RoleId) (x : Role) : (k.setRole r x).halted = k.halted := by cases r <;> rfl
@[simp] theorem setRole_wake (k : Core) (r : RoleId) (x : Role) : (k.setRole r x).wake = k.wake := by cases r <;> rfl
@[simp] theorem setRole_ptmcSeq (k : Core) (r : RoleId) (x : Role) : (k.setRole r x).ptmcSeq = k.ptmcSeq := by cases r <;> rfl

end Sys2Proof.Machine
end

