-- ==== Sys2Proof/Laws/Tables.lean ====
section
/-! SUPPORT. Sys2Proof/Laws/Tables.lean: reading a table after setting an entry, and cores and roles after an update. -/

namespace Sys2Proof.Machine

/-! ## Tables -/

theorem tabGet_tabSet_same {α : Type} (t : Tab α) (n : Nat) (a : α) : tabGet (tabSet t n a) n = some a := by
  induction t with
  | nil => simp [tabSet, tabGet]
  | cons e t ih =>
    obtain ⟨k, b⟩ := e
    unfold tabSet
    split
    · simp [tabGet]
    · split
      · simp [tabGet]
      · rename_i h1 h2
        simp [tabGet, h1, h2, ih]

theorem tabGet_tabSet_other {α : Type} (t : Tab α) (n m : Nat) (a : α) (h : m ≠ n) :
    tabGet (tabSet t n a) m = tabGet t m := by
  induction t with
  | nil =>
    simp only [tabSet, tabGet]
    rw [if_neg (Ne.symm h)]
    split <;> rfl
  | cons e t ih =>
    obtain ⟨k, b⟩ := e
    unfold tabSet
    split
    · simp only [tabGet]
      rw [if_neg (Ne.symm h)]
      split
      · rename_i h1 h2
        rw [if_neg (by omega), if_pos (by omega)]
      · rfl
    · split
      · rename_i h1 h2
        subst h2
        simp only [tabGet]
        rw [if_neg (Ne.symm h), if_neg (Ne.symm h)]
      · simp only [tabGet, ih]

@[simp] theorem tabD_tabSet_same {α : Type} (t : Tab α) (n : Nat) (a d : α) : tabD (tabSet t n a) n d = a := by
  simp [tabD, tabGet_tabSet_same]

theorem tabD_tabSet_other {α : Type} (t : Tab α) (n m : Nat) (a d : α) (h : m ≠ n) :
    tabD (tabSet t n a) m d = tabD t m d := by
  simp [tabD, tabGet_tabSet_other t n m a h]

/-! ## Tables with rising keys -/

/-- Every key of a table is above a bound. -/
def Tab.above {α : Type} (a : Nat) : Tab α → Prop
  | [] => True
  | (k, _) :: t => a < k ∧ Tab.above a t

theorem Tab.above_mono {α : Type} {a b : Nat} (h : b ≤ a) : (t : Tab α) → Tab.above a t → Tab.above b t
  | [], _ => trivial
  | _ :: t, ⟨h1, h2⟩ => ⟨by omega, Tab.above_mono h t h2⟩

/-- Rising keys of a table with a first entry. -/
theorem tabSorted_cons {α : Type} (k : Nat) (b : α) (t : Tab α) :
    tabSorted ((k, b) :: t) = true ↔ Tab.above k t ∧ tabSorted t = true := by
  induction t generalizing k b with
  | nil => simp [tabSorted, Tab.above]
  | cons e t ih =>
    obtain ⟨l, c⟩ := e
    simp only [tabSorted, Bool.and_eq_true, decide_eq_true_eq, Tab.above]
    constructor
    · rintro ⟨hk, hw⟩
      exact ⟨⟨hk, Tab.above_mono (Nat.le_of_lt hk) t ((ih l c).1 hw).1⟩, hw⟩
    · rintro ⟨⟨hk, _⟩, hw⟩
      exact ⟨hk, hw⟩

theorem Tab.above_set {α : Type} {k n : Nat} (a : α) (h : k < n) : (t : Tab α) → Tab.above k t →
    Tab.above k (tabSet t n a)
  | [], _ => ⟨h, trivial⟩
  | (l, b) :: t, ⟨h1, h2⟩ => by
    unfold tabSet
    split
    · exact ⟨h, h1, h2⟩
    · split
      · exact ⟨h, h2⟩
      · exact ⟨h1, Tab.above_set a h t h2⟩

/-- Setting an entry keeps the keys rising. -/
theorem tabSorted_tabSet {α : Type} (t : Tab α) (n : Nat) (a : α) (h : tabSorted t = true) :
    tabSorted (tabSet t n a) = true := by
  induction t with
  | nil => rfl
  | cons e t ih =>
    obtain ⟨k, b⟩ := e
    obtain ⟨h1, h2⟩ := (tabSorted_cons k b t).1 h
    unfold tabSet
    split
    · exact (tabSorted_cons n a _).2 ⟨⟨by assumption, Tab.above_mono (by omega) t h1⟩, h⟩
    · split
      · rename_i hk
        subst hk
        exact (tabSorted_cons k a t).2 ⟨h1, h2⟩
      · exact (tabSorted_cons k b _).2 ⟨Tab.above_set a (by omega) t h1, ih h2⟩

/-- Dropping entries keeps the keys rising. -/
theorem tabSorted_filter {α : Type} (f : Nat × α → Bool) (t : Tab α) (h : tabSorted t = true) :
    tabSorted (t.filter f) = true := by
  have above (k : Nat) : (t : Tab α) → Tab.above k t → Tab.above k (t.filter f) := by
    intro t
    induction t with
    | nil => exact id
    | cons e t ih =>
      rintro ⟨h1, h2⟩
      rw [List.filter_cons]
      split
      · exact ⟨h1, ih h2⟩
      · exact ih h2
  induction t with
  | nil => rfl
  | cons e t ih =>
    obtain ⟨k, b⟩ := e
    obtain ⟨h1, h2⟩ := (tabSorted_cons k b t).1 h
    rw [List.filter_cons]
    split
    · exact (tabSorted_cons k b _).2 ⟨above k t h1, ih h2⟩
    · exact ih h2

/-- Removing an entry keeps the keys rising. -/
theorem tabSorted_tabDel {α : Type} (t : Tab α) (n : Nat) (h : tabSorted t = true) : tabSorted (tabDel t n) = true :=
  tabSorted_filter _ t h

/-- An entry that was removed is absent, and every other entry stays. -/
theorem tabGet_tabDel {α : Type} (t : Tab α) (n m : Nat) (h : tabSorted t = true) :
    tabGet (tabDel t n) m = if m = n then none else tabGet t m := by
  have low {a : Nat} : (t : Tab α) → Tab.above a t → tabGet t a = none := by
    rintro (_ | ⟨e, t⟩) ha
    · rfl
    · obtain ⟨k, b⟩ := e
      simp only [tabGet]
      rw [if_neg (by have := ha.1; omega), if_pos ha.1]
  have lower {a b : Nat} (hb : b ≤ a) (t : Tab α) (ha : Tab.above a t) : tabGet t b = none :=
    low t (Tab.above_mono hb t ha)
  have kept {a : Nat} : (t : Tab α) → Tab.above a t → Tab.above a (tabDel t n) := by
    intro t
    induction t with
    | nil => exact id
    | cons e t ih =>
      rintro ⟨h1, h2⟩
      unfold tabDel
      rw [List.filter_cons]
      split
      · exact ⟨h1, ih h2⟩
      · exact ih h2
  induction t with
  | nil => simp [tabDel, tabGet]
  | cons e t ih =>
    obtain ⟨k, b⟩ := e
    obtain ⟨h1, h2⟩ := (tabSorted_cons k b t).1 h
    have e' : tabDel ((k, b) :: t) n = if k = n then tabDel t n else (k, b) :: tabDel t n := by
      unfold tabDel
      rw [List.filter_cons]
      by_cases hk : k = n <;> simp [hk]
    rw [e']
    by_cases hk : k = n
    · subst hk
      rw [if_pos rfl]
      by_cases hm : m = k
      · subst hm
        rw [if_pos rfl]
        exact low _ (kept t h1)
      · rw [if_neg hm, ih h2, if_neg hm]
        simp only [tabGet]
        rw [if_neg (Ne.symm hm)]
        split
        · exact lower (by omega) t h1
        · rfl
    · rw [if_neg hk]
      simp only [tabGet]
      by_cases hm : m = n
      · rw [if_pos hm]
        subst hm
        rw [if_neg hk]
        split
        · rfl
        · rw [ih h2, if_pos rfl]
      · rw [if_neg hm, ih h2, if_neg hm]

/-! ## Cores -/

@[simp] theorem core_setCore_same (s : State) (c : Nat) (k : Core) : core (setCore s c k) c = k := by
  simp [core, setCore]

theorem core_setCore_other (s : State) (c d : Nat) (k : Core) (h : d ≠ c) : core (setCore s c k) d = core s d := by
  simp [core, setCore, tabD_tabSet_other _ _ _ _ _ h]

@[simp] theorem core_modCore_same (s : State) (c : Nat) (f : Core → Core) : core (modCore s c f) c = f (core s c) := by
  simp [modCore]

theorem core_modCore_other (s : State) (c d : Nat) (f : Core → Core) (h : d ≠ c) :
    core (modCore s c f) d = core s d := by
  simp [modCore, core_setCore_other _ _ _ _ h]

/-! ## Roles -/

@[simp] theorem role_setRole_same (k : Core) (r : RoleId) (x : Role) : (k.setRole r x).role r = x := by
  cases r <;> rfl

theorem role_setRole_other (k : Core) (r q : RoleId) (x : Role) (h : q ≠ r) : (k.setRole r x).role q = k.role q := by
  cases r <;> cases q <;> first | rfl | exact absurd rfl h

@[simp] theorem getRole_putRole_same (s : State) (c : Nat) (r : RoleId) (x : Role) :
    getRole (putRole s c r x) c r = x := by
  simp [getRole, putRole]

theorem getRole_putRole_role (s : State) (c : Nat) (r q : RoleId) (x : Role) (h : q ≠ r) :
    getRole (putRole s c r x) c q = getRole s c q := by
  simp [getRole, putRole, role_setRole_other _ _ _ _ h]

theorem getRole_putRole_core (s : State) (c d : Nat) (r q : RoleId) (x : Role) (h : d ≠ c) :
    getRole (putRole s c r x) d q = getRole s d q := by
  simp [getRole, putRole, core_modCore_other _ _ _ _ h]

@[simp] theorem getRole_modRole_same (s : State) (c : Nat) (r : RoleId) (f : Role → Role) :
    getRole (modRole s c r f) c r = f (getRole s c r) := by
  simp [modRole]

theorem getRole_modRole_role (s : State) (c : Nat) (r q : RoleId) (f : Role → Role) (h : q ≠ r) :
    getRole (modRole s c r f) c q = getRole s c q := by
  simp [modRole, getRole_putRole_role _ _ _ _ _ h]

@[simp] theorem core_putRole_same (s : State) (c : Nat) (r : RoleId) (x : Role) :
    core (putRole s c r x) c = (core s c).setRole r x := by
  simp [putRole]

@[simp] theorem core_modRole_same (s : State) (c : Nat) (r : RoleId) (f : Role → Role) :
    core (modRole s c r f) c = (core s c).setRole r (f (getRole s c r)) := by
  simp [modRole]

/-- A change of a core that leaves its roles as they were leaves every role of every core. -/
theorem getRole_modCore (s : State) (c d : Nat) (q : RoleId) (f : Core → Core) (h : ∀ k : Core, (f k).role q = k.role q) :
    getRole (modCore s c f) d q = getRole s d q := by
  unfold getRole
  by_cases e : d = c
  · rw [e, core_modCore_same, h]
  · rw [core_modCore_other s c d f e]

theorem core_putRole_other (s : State) (c d : Nat) (r : RoleId) (x : Role) (h : d ≠ c) :
    core (putRole s c r x) d = core s d := by
  simp [putRole, core_modCore_other _ _ _ _ h]

theorem core_modRole_other (s : State) (c d : Nat) (r : RoleId) (f : Role → Role) (h : d ≠ c) :
    core (modRole s c r f) d = core s d := by
  simp [modRole, core_putRole_other _ _ _ _ _ h]

end Sys2Proof.Machine
end

