-- ==== Sys2Proof/Laws/Issue.lean ====
section
/-! SUPPORT. Sys2Proof/Laws/Issue.lean: how a word issues: what `ready` gives, and how each end of a body ends the word. -/

namespace Sys2Proof.Machine

/-- A push-after that is not due does nothing. -/
theorem settlePush_of_not_due (s : State) (c : Nat) (r : RoleId) (h : (getRole s c r).pushDue = false) :
    settlePush s c r = s := by
  simp [settlePush, h]

/-- Below 4,096 words since its last safe point a role is not OVERDUE (R220). -/
theorem isOverdue_of_ne {s : State} {c : Nat} {r : RoleId} (h : (getRole s c r).safecnt.toNat ≠ 4096) :
    isOverdue s c r = false := by
  simp [isOverdue, h]

/-- A ready word's role is not OVERDUE. -/
theorem ready_overdue {s : State} {i : Instr} {m : Mark} {len : Nat} (h : ready s i m len = true) :
    isOverdue s s.cur.1 s.cur.2 = false := by
  simp only [ready, Bool.and_eq_true, bne_iff_ne, ne_eq] at h
  exact isOverdue_of_ne h.1.1.1.1.1.2

/-- A ready word issues: its body runs when its guard holds, and else it only completes. -/
theorem issue_ready {s : State} {i : Instr} {m : Mark} {len : Nat} (h : ready s i m len = true)
    (g : Nat → RoleId → State → Bool) (b : Body) :
    issue i m len g b s =
      .next (if g s.cur.1 s.cur.2 s then runBody s s.cur.1 s.cur.2 i m len b
        else complete s s.cur.1 s.cur.2 m len .seq) := by
  simp only [ready, Bool.and_eq_true, Bool.not_eq_true', bne_iff_ne, ne_eq, Bool.or_eq_true] at h
  obtain ⟨⟨⟨⟨⟨⟨⟨⟨⟨h1, h2⟩, h3⟩, h4⟩, h5⟩, h6⟩, h7⟩, h8⟩, h9⟩, h10⟩ := h
  have ht : ¬(trapPending (getRole s s.cur.1 s.cur.2) = true ∧ (!inHandler (getRole s s.cur.1 s.cur.2)) = true ∧
      (getRole s s.cur.1 s.cur.2).mid = 0) := by
    rintro ⟨a, b, c⟩
    rcases h4 with (h4 | h4) | h4
    · rw [h4] at a; cases a
    · rw [h4] at b; cases b
    · exact h4 c
  have hi : ¬(i.check.isSome = true ∨ barred s.cur.1 i = true ∨
      (isSystem s.cur.1 = true ∧ (m.pb = true ∨ m.pa = true))) := by
    rintro (a | a | a)
    · rw [Option.isNone_iff_eq_none] at h7; rw [h7] at a; cases a
    · rw [h8] at a; cases a
    · rw [Bool.and_eq_false_iff] at h9
      rcases h9 with h9 | h9
      · rw [a.1] at h9; cases h9
      · rw [Bool.or_eq_false_iff] at h9
        rcases a.2 with b | b
        · rw [h9.1] at b; cases b
        · rw [h9.2] at b; cases b
  have hp : ¬((m.pb && !(getRole s s.cur.1 s.cur.2).popDone) = true ∧ upCount (core s s.cur.1) s.cur.2 = 0) ∧
      ¬((m.pb && !(getRole s s.cur.1 s.cur.2).popDone) = true ∧ (!acqReady s s.cur.1 s.cur.2 .core) = true) := by
    rcases h10 with (h10 | h10) | ⟨h10, h11⟩
    · simp [h10]
    · simp [h10]
    · simp [h10, h11]
  have hq : preemptHolds s s.cur.1 s.cur.2 = false := by
    unfold roleHeld at h2
    simp only [Bool.or_eq_false_iff] at h2
    exact h2.2
  simp only [issue, h1, h2, settlePush_of_not_due s _ _ h3, h3, hq, Bool.not_true, Bool.false_eq_true, if_false]
  rw [if_neg ht]
  simp only [issueAt, isOverdue_of_ne h5, if_false, h6, Bool.not_true, Bool.false_eq_true]
  rw [if_neg hi, if_neg hp.1, if_neg hp.2]
  cases g s.cur.1 s.cur.2 s <;> rfl

/-- A ready word whose guard holds and whose body ends in order completes. -/
theorem issue_done {s t : State} {i : Instr} {m : Mark} {len : Nat} {fl : Flow} (h : ready s i m len = true)
    (g : Nat → RoleId → State → Bool) (b : Body) (hg : g s.cur.1 s.cur.2 s = true)
    (hb : b s.cur.1 s.cur.2 s = .ok (t, fl)) (hf : ∀ v, fl ≠ .trapAfter v) :
    issue i m len g b s = .next (complete t s.cur.1 s.cur.2 m len fl) := by
  rw [issue_ready h, hg, if_pos rfl]
  simp only [runBody, hb, ready_overdue h, Bool.false_eq_true, if_false, endBody]

/-- A ready word whose guard fails only completes. -/
theorem issue_skip {s : State} {i : Instr} {m : Mark} {len : Nat} (h : ready s i m len = true)
    (g : Nat → RoleId → State → Bool) (b : Body) (hg : g s.cur.1 s.cur.2 s = false) :
    issue i m len g b s = .next (complete s s.cur.1 s.cur.2 m len .seq) := by
  rw [issue_ready h, hg]
  rfl

/-- A ready word whose body holds its role stands at that stage. -/
theorem issue_hold {s t : State} {i : Instr} {m : Mark} {len : Nat} (h : ready s i m len = true)
    (g : Nat → RoleId → State → Bool) (b : Body) (hg : g s.cur.1 s.cur.2 s = true)
    (hb : b s.cur.1 s.cur.2 s = .error (.hold t)) : issue i m len g b s = .next (standing s t i m) := by
  rw [issue_ready h, hg, if_pos rfl]
  simp only [runBody, hb, ready_overdue h, Bool.false_eq_true, if_false, endBody, standing]

/-- A ready word whose body raises a precise trap takes it. -/
theorem issue_trap {s : State} {i : Instr} {m : Mark} {len : Nat} {code : Nat} {v : Word} (h : ready s i m len = true)
    (g : Nat → RoleId → State → Bool) (b : Body) (hg : g s.cur.1 s.cur.2 s = true)
    (hb : b s.cur.1 s.cur.2 s = .error (.trap code v)) :
    issue i m len g b s =
      .next (takeTrap s s.cur.1 s.cur.2 ((encode i).headD 0) code (trapValue code v ((encode i).headD 0))) := by
  rw [issue_ready h, hg, if_pos rfl]
  simp only [runBody, hb, ready_overdue h, Bool.false_eq_true, if_false, endBody]

/-- Usable operands pass the check of a body. -/
theorem check_usable {s : State} {a : List Src} {d : Dst} (h : usable s a d = true) :
    checkUse s.cur.1 s.cur.2 s a d = .ok () := by
  unfold usable at h
  split at h
  · rename_i u hu; cases u; exact hu
  · cases h

end Sys2Proof.Machine
end

