-- ==== Sys2Proof/Laws/Memory.lean ====
section
/-! SUPPORT. Sys2Proof/Laws/Memory.lean: the canonical form of memory, which every write keeps, and reads after writes. -/

namespace Sys2Proof.Machine

/-- Every address of a memory is above a bound. -/
def Memory.above (a : Nat) : List Host.Cell → Prop
  | [] => True
  | (k, _) :: t => a < k ∧ Memory.above a t

theorem Memory.above_mono {a b : Nat} (h : b ≤ a) : (m : List Host.Cell) → Memory.above a m → Memory.above b m
  | [], _ => trivial
  | _ :: t, ⟨h1, h2⟩ => ⟨by omega, Memory.above_mono h t h2⟩

/-- The canonical form of a memory with a first cell. -/
theorem Memory.wf_cons (k : Nat) (b : Byte) (t : List Host.Cell) :
    Memory.wf ((k, b) :: t) = true ↔ b ≠ unlisted ∧ Memory.above k t ∧ Memory.wf t = true := by
  induction t generalizing k b with
  | nil => simp [Memory.wf, Memory.above]
  | cons e t ih =>
    obtain ⟨l, c⟩ := e
    have h2 := ih l c
    simp only [Memory.wf, Bool.and_eq_true, bne_iff_ne, ne_eq, decide_eq_true_eq, Memory.above]
    constructor
    · rintro ⟨⟨hb, hk⟩, hw⟩
      exact ⟨hb, ⟨hk, Memory.above_mono (Nat.le_of_lt hk) t (h2.1 hw).2.1⟩, hw⟩
    · rintro ⟨hb, ⟨hk, _⟩, hw⟩
      exact ⟨⟨hb, hk⟩, hw⟩

theorem Memory.read_above {a : Nat} : (m : List Host.Cell) → Memory.above a m → memRead m a = unlisted
  | [], _ => rfl
  | (k, b) :: t, ⟨h1, _⟩ => by
    simp only [memRead]
    rw [if_neg (by omega), if_pos h1]

theorem Memory.above_write {a n : Nat} {b : Byte} (h : a < n) : (m : List Host.Cell) → Memory.above a m →
    Memory.above a (memWrite m n b)
  | [], _ => by
    simp only [memWrite]
    split
    · trivial
    · exact ⟨h, trivial⟩
  | (k, c) :: t, ⟨h1, h2⟩ => by
    simp only [memWrite]
    split
    · split
      · exact ⟨h1, h2⟩
      · exact ⟨h, h1, h2⟩
    · split
      · split
        · exact h2
        · exact ⟨h, h2⟩
      · exact ⟨h1, Memory.above_write h t h2⟩

/-- A write keeps the canonical form. -/
theorem memWrite_wf (m : List Host.Cell) (a : Nat) (b : Byte) (h : Memory.wf m = true) :
    Memory.wf (memWrite m a b) = true := by
  induction m with
  | nil =>
    simp only [memWrite]
    split
    · rfl
    · rename_i hb
      rw [Memory.wf_cons]
      exact ⟨hb, trivial, rfl⟩
  | cons e t ih =>
    obtain ⟨k, c⟩ := e
    obtain ⟨hc, hk, ht⟩ := (Memory.wf_cons k c t).1 h
    simp only [memWrite]
    split
    · rename_i ha
      split
      · exact h
      · rename_i hb
        rw [Memory.wf_cons]
        exact ⟨hb, ⟨ha, Memory.above_mono (Nat.le_of_lt ha) t hk⟩, h⟩
    · split
      · rename_i he
        split
        · exact ht
        · rename_i hb
          rw [Memory.wf_cons]
          exact ⟨hb, he ▸ hk, ht⟩
      · rw [Memory.wf_cons]
        exact ⟨hc, Memory.above_write (by omega) t hk, ih ht⟩

/-- The written byte reads back. -/
theorem memRead_write_same (m : List Host.Cell) (a : Nat) (b : Byte) (h : Memory.wf m = true) :
    memRead (memWrite m a b) a = b := by
  induction m with
  | nil =>
    simp only [memWrite]
    split
    · rename_i hb; exact hb.symm
    · simp [memRead]
  | cons e t ih =>
    obtain ⟨k, c⟩ := e
    obtain ⟨hc, hk, ht⟩ := (Memory.wf_cons k c t).1 h
    simp only [memWrite]
    split
    · rename_i ha
      split
      · rename_i hb
        simp only [memRead]
        rw [if_neg (by omega), if_pos ha, hb]
      · simp [memRead]
    · split
      · rename_i he
        subst he
        split
        · rename_i hb
          rw [Memory.read_above t hk, hb]
        · simp [memRead]
      · rename_i h1 h2
        simp only [memRead]
        rw [if_neg h2, if_neg (by omega)]
        exact ih ht

/-- A write leaves every other byte alone. -/
theorem memRead_write_other (m : List Host.Cell) (a x : Nat) (b : Byte) (h : Memory.wf m = true) (hx : x ≠ a) :
    memRead (memWrite m a b) x = memRead m x := by
  induction m with
  | nil =>
    simp only [memWrite]
    split
    · rfl
    · simp only [memRead]
      rw [if_neg (Ne.symm hx)]
      split <;> rfl
  | cons e t ih =>
    obtain ⟨k, c⟩ := e
    obtain ⟨hc, hk, ht⟩ := (Memory.wf_cons k c t).1 h
    simp only [memWrite]
    split
    · rename_i ha
      split
      · rfl
      · simp only [memRead]
        rw [if_neg (Ne.symm hx)]
        split
        · rw [if_neg (by omega), if_pos (by omega)]
        · rfl
    · split
      · rename_i he
        subst he
        split
        · simp only [memRead]
          rw [if_neg (Ne.symm hx)]
          split
          · exact Memory.read_above t (Memory.above_mono (by omega) t hk)
          · rfl
        · simp only [memRead]
          rw [if_neg (Ne.symm hx), if_neg (Ne.symm hx)]
      · simp only [memRead, ih ht]

/-! ## Runs of bytes -/

theorem writeBytes_wf (m : List Host.Cell) (a : Nat) (bs : List Byte) (h : Memory.wf m = true) :
    Memory.wf (writeBytes m a bs) = true := by
  induction bs generalizing m a with
  | nil => exact h
  | cons b r ih => exact ih _ _ (memWrite_wf m a b h)

theorem writeMasked_wf (mask : BitVec 128) (m : List Host.Cell) (a i : Nat) (bs : List Byte) (h : Memory.wf m = true) :
    Memory.wf (writeMasked mask m a i bs) = true := by
  induction bs generalizing m a i with
  | nil => exact h
  | cons b r ih =>
    refine ih _ _ _ ?_
    split
    · exact memWrite_wf m a b h
    · exact h

/-- A byte string's write leaves every byte outside it alone. -/
theorem memRead_writeBytes_other (m : List Host.Cell) (a x : Nat) (bs : List Byte) (h : Memory.wf m = true)
    (hx : x < a ∨ a + bs.length ≤ x) : memRead (writeBytes m a bs) x = memRead m x := by
  induction bs generalizing m a with
  | nil => rfl
  | cons b r ih =>
    simp only [List.length_cons] at hx
    simp only [writeBytes]
    rw [ih _ _ (memWrite_wf m a b h) (by omega), memRead_write_other m a x b h (by omega)]

/-- A byte string reads back byte by byte. -/
theorem memRead_writeBytes (m : List Host.Cell) (a i : Nat) (bs : List Byte) (h : Memory.wf m = true)
    (hi : i < bs.length) : memRead (writeBytes m a bs) (a + i) = bs[i] := by
  induction bs generalizing m a i with
  | nil => exact absurd hi (Nat.not_lt_zero i)
  | cons b r ih =>
    simp only [writeBytes]
    cases i with
    | zero =>
      show memRead (writeBytes (memWrite m a b) (a + 1) r) a = b
      rw [memRead_writeBytes_other _ _ _ _ (memWrite_wf m a b h) (by omega), memRead_write_same m a b h]
    | succ i =>
      have hi2 : i < r.length := by simpa using hi
      have e : a + (i + 1) = a + 1 + i := by omega
      rw [e, ih _ _ _ (memWrite_wf m a b h) hi2]
      rfl

theorem readBytes_length (m : List Host.Cell) (a n : Nat) : (readBytes m a n).length = n := by
  induction n generalizing a with
  | zero => rfl
  | succ n ih => simp [readBytes, ih]

/-- A byte string reads back whole. -/
theorem readBytes_writeBytes (m : List Host.Cell) (a : Nat) (bs : List Byte) (h : Memory.wf m = true) :
    readBytes (writeBytes m a bs) a bs.length = bs := by
  have key : ∀ (n i : Nat), i + n = bs.length → readBytes (writeBytes m a bs) (a + i) n = bs.drop i := by
    intro n
    induction n with
    | zero =>
      intro i hi
      simp only [readBytes]
      rw [List.drop_eq_nil_of_le (by omega)]
    | succ n ih =>
      intro i hi
      have hl : i < bs.length := by omega
      simp only [readBytes]
      rw [memRead_writeBytes m a i bs h hl, show a + i + 1 = a + (i + 1) from rfl, ih (i + 1) (by omega),
        List.drop_eq_getElem_cons hl]
  have := key bs.length 0 (by omega)
  simpa using this

/-- Dropping cells keeps the canonical form. -/
theorem memFilter_wf (f : Host.Cell → Bool) (m : List Host.Cell) (h : Memory.wf m = true) :
    Memory.wf (m.filter f) = true := by
  have above (k : Nat) : (t : List Host.Cell) → Memory.above k t → Memory.above k (t.filter f) := by
    intro t
    induction t with
    | nil => exact id
    | cons e t ih =>
      rintro ⟨h1, h2⟩
      rw [List.filter_cons]
      split
      · exact ⟨h1, ih h2⟩
      · exact ih h2
  induction m with
  | nil => rfl
  | cons e t ih =>
    obtain ⟨k, b⟩ := e
    obtain ⟨h1, h2, h3⟩ := (Memory.wf_cons k b t).1 h
    rw [List.filter_cons]
    split
    · exact (Memory.wf_cons k b _).2 ⟨h1, above k t h2, ih h3⟩
    · exact ih h3

end Sys2Proof.Machine
end

