-- ==== Sys2Proof/Laws/Ops.lean ====
section
/-! SUPPORT. Sys2Proof/Laws/Ops.lean: what each shared operation of a word can do: the state differs from before in one core
alone, and what that core's registers then hold. -/

namespace Sys2Proof.Machine

/-! ## Changes of one core alone -/

/-- t differs from s in core c alone: every field but the table of cores is the same, and so is every other core. -/
def CoreOnly (c : Nat) (s t : State) : Prop := { s with cores := t.cores } = t ∧ ∀ d, d ≠ c → core t d = core s d

theorem CoreOnly.refl (c : Nat) (s : State) : CoreOnly c s s := ⟨rfl, fun _ _ => rfl⟩

theorem CoreOnly.trans {c : Nat} {s t u : State} (h : CoreOnly c s t) (k : CoreOnly c t u) : CoreOnly c s u := by
  obtain ⟨h1, h2⟩ := h
  obtain ⟨k1, k2⟩ := k
  refine ⟨?_, fun d hd => (k2 d hd).trans (h2 d hd)⟩
  rw [← k1, ← h1]

theorem CoreOnly.mem {c : Nat} {s t : State} (h : CoreOnly c s t) : t.mem = s.mem := by rw [← h.1]

theorem CoreOnly.regs {c : Nat} {s t : State} (h : CoreOnly c s t) : t.regs = s.regs := by rw [← h.1]

theorem CoreOnly.ks {c : Nat} {s t : State} (h : CoreOnly c s t) : t.ks = s.ks := by rw [← h.1]

theorem CoreOnly.collies {c : Nat} {s t : State} (h : CoreOnly c s t) : t.collies = s.collies := by rw [← h.1]

theorem CoreOnly.deck {c : Nat} {s t : State} (h : CoreOnly c s t) : t.deck = s.deck := by rw [← h.1]

theorem CoreOnly.peerOut {c : Nat} {s t : State} (h : CoreOnly c s t) : t.peerOut = s.peerOut := by rw [← h.1]

theorem CoreOnly.cur {c : Nat} {s t : State} (h : CoreOnly c s t) : t.cur = s.cur := by rw [← h.1]

theorem CoreOnly.core {c d : Nat} {s t : State} (h : CoreOnly c s t) (hd : d ≠ c) : core t d = core s d := h.2 d hd

theorem modCore_only (s : State) (c : Nat) (f : Core → Core) : CoreOnly c s (modCore s c f) :=
  ⟨rfl, fun d hd => core_modCore_other s c d f hd⟩

theorem setCore_only (s : State) (c : Nat) (k : Core) : CoreOnly c s (setCore s c k) :=
  ⟨rfl, fun d hd => core_setCore_other s c d k hd⟩

theorem putRole_only (s : State) (c : Nat) (r : RoleId) (x : Role) : CoreOnly c s (putRole s c r x) :=
  modCore_only s c _

theorem modRole_only (s : State) (c : Nat) (r : RoleId) (f : Role → Role) : CoreOnly c s (modRole s c r f) :=
  putRole_only s c r _

theorem countEvent_only (s : State) (c : Nat) (r : RoleId) (ev n : Nat) : CoreOnly c s (countEvent s c r ev n) :=
  modCore_only s c _

/-! ## Operands -/

/-- A use of a register's slot changes its core alone. -/
theorem touchSlot_only (c : Nat) (r : RoleId) (s : State) (vec : Bool) (n : Nat) : CoreOnly c s (touchSlot c r s vec n) := by
  unfold touchSlot
  split
  · exact .refl c s
  · rename_i l n re _
    dsimp only
    generalize hu : modCore s c (fun k => { k with slots := l }) = u
    have h1 : CoreOnly c s u := hu ▸ modCore_only s c _
    have h2 : CoreOnly c s (if n = 0 then u else countEvent u c r 0x0B n) := by
      split
      · exact h1
      · exact h1.trans (countEvent_only u c r _ _)
    split
    · exact h2.trans (countEvent_only _ c r _ _)
    · exact h2

/-- Counting events leaves every role as it was. -/
theorem countEvent_role (s : State) (c d : Nat) (r q : RoleId) (ev n : Nat) :
    getRole (countEvent s c r ev n) d q = getRole s d q :=
  getRole_modCore s c d q _ fun _ => by cases q <;> rfl

/-- A use of a register's slot leaves every role's registers as they were. -/
theorem touchSlot_role (c d : Nat) (r q : RoleId) (s : State) (vec : Bool) (n : Nat) :
    getRole (touchSlot c r s vec n) d q = getRole s d q := by
  unfold touchSlot
  split
  · rfl
  · rename_i l n re _
    have h (s : State) (l : List RSlot) : getRole (modCore s c fun k => { k with slots := l }) d q = getRole s d q :=
      getRole_modCore s c d q _ fun _ => by cases q <;> rfl
    dsimp only
    split <;> split <;> simp [countEvent_role, h]

theorem readG_only (c : Nat) (r : RoleId) (s : State) (x : G6) : CoreOnly c s (readG c r s x).1 := by
  unfold readG
  dsimp only
  split
  · exact .refl c s
  · split
    · exact touchSlot_only c r s _ _
    · split
      · exact modCore_only s c _
      · exact .refl c s

/-- The read of a general register leaves every role's registers as they were. -/
theorem readG_reg (c d : Nat) (r q : RoleId) (s : State) (x : G6) (h : x.toNat < 48) :
    getRole (readG c r s x).1 d q = getRole s d q := by
  unfold readG
  dsimp only
  split
  · rfl
  · exact touchSlot_role c d r q s _ _

theorem writeG_only (c : Nat) (r : RoleId) (s : State) (x : G6) (v : Reg) : CoreOnly c s (writeG c r s x v) := by
  unfold writeG
  dsimp only
  split
  · exact .refl c s
  · split
    · exact (touchSlot_only c r s _ _).trans (modRole_only _ c r _)
    · exact modCore_only s c _

/-- g0 discards what is written to it. -/
theorem writeG_zero (c : Nat) (r : RoleId) (s : State) (v : Reg) : writeG c r s 0 v = s := rfl

/-- A general register holds what was written to it. -/
theorem writeG_same (c : Nat) (r : RoleId) (s : State) (x : G6) (v : Reg) (h0 : x.toNat ≠ 0) (h : x.toNat < 48) :
    tabGet (getRole (writeG c r s x v) c r).g x.toNat = some v := by
  simp [writeG, h0, h, tabGet_tabSet_same]

/-- A write of one general register leaves every other as it was. -/
theorem writeG_other (c : Nat) (r : RoleId) (s : State) (x : G6) (v : Reg) (n : Nat) (h : n ≠ x.toNat) :
    tabGet (getRole (writeG c r s x v) c r).g n = tabGet (getRole s c r).g n := by
  unfold writeG
  dsimp only
  split
  · rfl
  · split
    · simp [tabGet_tabSet_other _ _ _ _ h, touchSlot_role]
    · cases r <;> simp [getRole, Core.role]

theorem readV_only (c : Nat) (r : RoleId) (s : State) (x : V5) : CoreOnly c s (readV c r s x).1 := by
  unfold readV
  dsimp only
  split
  · exact touchSlot_only c r s _ _
  · split
    · exact modCore_only s c _
    · exact .refl c s

theorem writeV_only (c : Nat) (r : RoleId) (s : State) (x : V5) (mask : BitVec 64) (v : VReg) :
    CoreOnly c s (writeV c r s x mask v) := by
  unfold writeV
  dsimp only
  split
  · exact (touchSlot_only c r s _ _).trans (modRole_only _ c r _)
  · exact modCore_only s c _

theorem writeP_only (c : Nat) (r : RoleId) (s : State) (p : P3) (w : Word) : CoreOnly c s (writeP c r s p w) := by
  unfold writeP
  split
  · exact .refl c s
  · exact modRole_only s c r _

/-- p0 reads all ones. -/
theorem readP_zero (c : Nat) (r : RoleId) (s : State) : readP c r s 0 = BitVec.allOnes 64 := rfl

theorem popTokens_only (s : State) (c : Nat) (r : RoleId) (n : Nat) : CoreOnly c s (popTokens s c r n) :=
  modCore_only s c _

theorem pushTokens_only (s : State) (c : Nat) (r : RoleId) (n : Nat) : CoreOnly c s (pushTokens s c r n) :=
  modCore_only s c _

/-! ## The end of a word -/

theorem setStage_only (c : Nat) (r : RoleId) (s : State) (n : Nat) : CoreOnly c s (setStage c r s n) :=
  modRole_only s c r _

theorem waits_only (s : State) (c : Nat) (r : RoleId) (w : Wait) : CoreOnly c s (waits s c r w) := modRole_only s c r _

theorem settlePush_only (s : State) (c : Nat) (r : RoleId) : CoreOnly c s (settlePush s c r) := by
  unfold settlePush
  dsimp only
  split
  · exact (putRole_only s c r _).trans (pushTokens_only _ c r 1)
  · exact .refl c s

theorem debugStop_only (s : State) (c : Nat) (r : RoleId) (why : Nat) : CoreOnly c s (debugStop s c r why) :=
  setCore_only s c _

theorem lateHalt_only (s : State) (c : Nat) (r : RoleId) : CoreOnly c s (lateHalt s c r) := by
  unfold lateHalt
  split
  · exact debugStop_only s c r 1
  · exact .refl c s

theorem endStep_only (s : State) (c : Nat) (r : RoleId) : CoreOnly c s (endStep s c r) := by
  unfold endStep
  dsimp only
  split
  · exact debugStop_only s c r 2
  · split
    · exact .refl c s
    · exact lateHalt_only s c r

/-- A word that completes changes its core alone. -/
theorem complete_only (s : State) (c : Nat) (r : RoleId) (m : Mark) (len : Nat) (fl : Flow) :
    CoreOnly c s (complete s c r m len fl) := by
  unfold complete
  dsimp only
  refine CoreOnly.trans ?_ (endStep_only _ c r)
  refine CoreOnly.trans ?_ (settlePush_only _ c r)
  refine CoreOnly.trans ?_ (countEvent_only _ c r 2 1)
  refine CoreOnly.trans ?_ (putRole_only _ c r _)
  split
  · exact popTokens_only s c r 1
  · exact .refl c s

/-! ## Traps -/

/-- With a handler, and outside one, a trap changes its core alone (R440). -/
theorem trapEntry_only (s : State) (c : Nat) (r : RoleId) (word : Word) (raised : VA) (code : Nat) (val : Word) (pc : VA)
    (async : Bool) (h1 : inHandler (getRole s c r) = false) (h2 : bits (getRole s c r).tvec 56 3 ≠ 0) :
    CoreOnly c s (trapEntry s c r word raised code val pc async) := by
  unfold trapEntry
  rw [if_neg (by simp [h1, h2])]
  exact (countEvent_only s c r 13 1).trans (putRole_only _ c r _)

/-- With a handler, and outside one, a trap saves the return address, the code and the value, and goes to the handler
(R440). -/
theorem trapEntry_role (s : State) (c : Nat) (r : RoleId) (word : Word) (raised : VA) (code : Nat) (val : Word) (pc : VA)
    (async : Bool) (h1 : inHandler (getRole s c r) = false) (h2 : bits (getRole s c r).tvec 56 3 ≠ 0) :
    getRole (trapEntry s c r word raised code val pc async) c r =
      { getRole s c r with
        tpc := pc
        tcause := BitVec.ofNat 9 (code + if async then 256 else 0)
        tval := val
        tstat := enterStat (getRole s c r).tstat (systemMode s c r) (bit (getRole s c r).tvec 0)
        pc := BitVec.ofNat 57 (bits (getRole s c r).tvec 56 3 * 8)
        atSafe := false
        returning := false
        why := none } := by
  unfold trapEntry
  rw [if_neg (by simp [h1, h2])]
  simp

end Sys2Proof.Machine
end

