-- ==== Sys2Proof/Laws/Slice.lean ====
section
/-! SUPPORT. Sys2Proof/Laws/Slice.lean: every operation of a home slice, of the metadata cache, of the error and fault rings
and of the pools keeps the invariant of runs, memory's canonical form in it. -/

namespace Sys2Proof.Machine

/-- A fold of operations that each keep the invariant keeps it. -/
theorem foldl_runInv {β : Type} (f : State → β → State) (hf : ∀ s b, RunInv s → RunInv (f s b)) (l : List β) (s : State)
    (h : RunInv s) : RunInv (l.foldl f s) := by
  induction l generalizing s with
  | nil => exact h
  | cons b l ih => exact ih _ (hf s b h)

/-! ## Memory and the Deck -/

/-- Memory in canonical form in the place of memory keeps the invariant. -/
theorem memSet_runInv (s : State) (m : List Host.Cell) (h : RunInv s) (hm : Memory.wf m = true) :
    RunInv { s with mem := m } :=
  ⟨hm, h.2⟩

theorem putHbm_runInv (s : State) (n : Nat) (l : Line) (h : RunInv s) : RunInv (putHbm s n l) := by
  unfold putHbm
  exact memSet_runInv s _ h (writeBytes_wf _ _ _ h.1)

theorem poolWrite_runInv (s : State) (c b : Nat) (bs : List Byte) (h : RunInv s) : RunInv (poolWrite s c b bs) := by
  unfold poolWrite
  exact memSet_runInv s _ h (writeBytes_wf _ _ _ h.1)

theorem poolMasked_runInv (s : State) (key : Nat) (mask : BitVec 128) (d : Line) (h : RunInv s) :
    RunInv (poolMasked s key mask d) := by
  unfold poolMasked
  exact memSet_runInv s _ h (writeMasked_wf _ _ _ _ _ h.1)

theorem barPut_runInv (s : State) (key : Nat) (b : Word × Word) (h : RunInv s) : RunInv (barPut s key b) := by
  unfold barPut
  exact memSet_runInv s _ h (writeBytes_wf _ _ _ (writeBytes_wf _ _ _ h.1))

/-- Putting an entry into the Deck keeps the invariant. -/
theorem deckSet_runInv (s : State) (n : Nat) (d : DeckLine) (h : RunInv s) :
    RunInv { s with deck := tabSet s.deck n d } :=
  ⟨h.1, tabSorted_tabSet _ _ _ h.2.1, h.2.2⟩

/-- Taking an entry out of the Deck keeps the invariant. -/
theorem deckDel_runInv (s : State) (n : Nat) (h : RunInv s) : RunInv { s with deck := tabDel s.deck n } :=
  ⟨h.1, tabSorted_tabDel _ _ h.2.1, h.2.2⟩

theorem setPoison_runInv (s : State) (n : Nat) (bad : BitVec 2) (h : RunInv s) : RunInv (setPoison s n bad) := h

theorem setBad_runInv (s : State) (n : Nat) (bad : BitVec 2) (h : RunInv s) : RunInv (setBad s n bad) := by
  unfold setBad
  split
  · exact deckSet_runInv s _ _ h
  · exact h

theorem deckDropLine_runInv (s : State) (n : Nat) (h : RunInv s) : RunInv (deckDropLine s n) := deckDel_runInv s n h

theorem tagCheck_runInv (s : State) (n : Nat) (h : RunInv s) : RunInv (tagCheck s n) := by
  unfold tagCheck
  split
  · exact h
  · dsimp only
    split
    · exact deckDropLine_runInv s n h
    · exact h

theorem deckEvictLine_runInv (s : State) (n : Nat) (h : RunInv s) : RunInv (deckEvictLine s n) := by
  have h1 := tagCheck_runInv s n h
  unfold deckEvictLine
  dsimp only
  split
  · exact h1
  · split
    · exact setPoison_runInv _ _ _ (putHbm_runInv _ _ _ (deckDropLine_runInv _ n h1))
    · exact deckDropLine_runInv _ n h1

theorem deckDrop_runInv (s : State) (n : Nat) (h : RunInv s) : RunInv (deckDrop s n) :=
  foldl_runInv _ deckDropLine_runInv _ _ h

theorem deckEvict_runInv (s : State) (n : Nat) (h : RunInv s) : RunInv (deckEvict s n) :=
  foldl_runInv _ deckEvictLine_runInv _ _ h

theorem deckRoom_runInv (sl n fuel : Nat) (s : State) (h : RunInv s) : RunInv (deckRoom sl n fuel s) := by
  induction fuel generalizing s with
  | zero => exact h
  | succ fuel ih =>
    unfold deckRoom
    dsimp only
    split
    · exact h
    · exact ih _ (deckEvict_runInv _ _ h)

theorem deckInsert_runInv (s : State) (n : Nat) (d : DeckLine) (h : RunInv s) : RunInv (deckInsert s n d) := by
  unfold deckInsert
  split
  · exact deckSet_runInv s _ _ h
  · exact deckSet_runInv _ _ _ (deckRoom_runInv _ _ _ _ h)

theorem deckAlloc_runInv (s : State) (n : Nat) (tag : BitVec 8) (ver cmp : Bool) (h : RunInv s) :
    RunInv (deckAlloc s n tag ver cmp) := by
  unfold deckAlloc
  split
  · exact foldl_runInv _ (fun s _ hs => deckSet_runInv s _ _ hs) _ _ (deckRoom_runInv _ _ _ _ h)
  · exact deckInsert_runInv _ _ _ h

theorem deckMerge_runInv (s : State) (n : Nat) (ver : Bool) (tag : BitVec 8) (mask : BitVec 128) (l : Line) (bad : BitVec 2)
    (h : RunInv s) : RunInv (deckMerge s n ver tag mask l bad) := by
  unfold deckMerge
  refine foldl_runInv _ (fun s m hs => ?_) _ _ h
  dsimp only
  split
  · exact deckSet_runInv s _ _ hs
  · exact hs

theorem setTag_runInv (s : State) (n : Nat) (tag : BitVec 8) (ver : Bool) (h : RunInv s) : RunInv (setTag s n tag ver) := by
  unfold setTag
  split
  · exact deckSet_runInv s _ _ h
  · exact h

theorem touch_runInv (s : State) (sl a : Nat) (h : RunInv s) : RunInv (touch s sl a).1 := by
  unfold touch
  dsimp only
  split <;> exact h

theorem allocates_runInv (s : State) (p : Policy) (n key : Nat) (h : RunInv s) : RunInv (allocates s p n key).1 := by
  unfold allocates
  split
  · exact h
  · split
    · exact h
    · exact h
    · exact touch_runInv _ _ _ h

theorem rawPut_runInv (s : State) (n : Nat) (mask : BitVec 128) (l : Line) (h : RunInv s) : RunInv (rawPut s n mask l) := by
  unfold rawPut
  dsimp only
  split
  · exact deckSet_runInv s _ _ h
  · exact ⟨writeMasked_wf _ _ _ _ _ h.1, h.2⟩

theorem rawWrite_runInv (s : State) (dpa : Nat) (bs : List Byte) (h : RunInv s) : RunInv (rawWrite s dpa bs) :=
  foldl_runInv _ (fun _ _ hs => rawPut_runInv _ _ _ _ hs) _ _ h

/-! ## Metadata, records and registers -/

theorem metaSet_runInv (s : State) (a : Nat) (e : Word × Bool) (h : RunInv s) :
    RunInv { s with mdCache := tabSet s.mdCache a e } :=
  ⟨h.1, h.2.1, tabSorted_tabSet _ _ _ h.2.2.1, h.2.2.2⟩

theorem metaBack_runInv (s : State) (e : Nat × Word × Bool) (h : RunInv s) : RunInv (metaBack s e) := by
  unfold metaBack
  split
  · exact rawWrite_runInv _ _ _ h
  · exact h

theorem metaFlush_runInv (s : State) (h : RunInv s) : RunInv (metaFlush s) :=
  foldl_runInv _ metaBack_runInv _ _ ⟨h.1, h.2.1, rfl, h.2.2.2⟩

theorem metaPut_runInv (s : State) (key : Nat) (w : Word) (dirty : Bool) (h : RunInv s) : RunInv (metaPut s key w dirty) := by
  unfold metaPut
  dsimp only
  apply metaSet_runInv
  split
  · exact h
  · split
    · exact h
    · exact metaBack_runInv _ _ ⟨h.1, h.2.1, tabSorted_tabDel _ _ h.2.2.1, h.2.2.2⟩

theorem setMeta_runInv (s : State) (dpa : Nat) (w : Word) (h : RunInv s) : RunInv (setMeta s dpa w) := by
  unfold setMeta
  split
  · exact h
  · exact metaPut_runInv _ _ _ _ h

theorem fetchMeta_runInv (s : State) (dpa : Nat) (h : RunInv s) : RunInv (fetchMeta s dpa) := by
  unfold fetchMeta
  split
  · exact h
  · split
    · exact h
    · exact metaPut_runInv _ _ _ _ h

theorem putReg_runInv (s : State) (n hi lo v : Nat) (h : RunInv s) : RunInv (putReg s n hi lo v) := h

theorem countReg_runInv (s : State) (n hi lo k : Nat) (h : RunInv s) : RunInv (countReg s n hi lo k) := h

theorem writeReg_runInv (s : State) (n : Nat) (x : Word) (h : RunInv s) : RunInv (writeReg s n x) := by
  unfold writeReg
  split <;> exact h

theorem raiseFlags_runInv (s : State) (f : BitVec 8) (h : RunInv s) : RunInv (raiseFlags s f) := by
  unfold raiseFlags
  split <;> exact h

theorem wakeSystem_runInv (s : State) (d : Nat) (h : RunInv s) : RunInv (wakeSystem s d) := h

theorem fqPut_runInv (s : State) (d : Nat) (ws : List Word) (h : RunInv s) : RunInv (fqPut s d ws) :=
  wakeSystem_runInv _ _ (putReg_runInv _ _ _ _ _ (rawWrite_runInv _ _ _ h))

theorem fqDrain_runInv (fuel : Nat) (s : State) (d : Nat) (h : RunInv s) : RunInv (fqDrain fuel s d) := by
  induction fuel generalizing s with
  | zero => exact h
  | succ fuel ih =>
    unfold fqDrain
    split
    · exact h
    · split
      · exact ih _ (fqPut_runInv _ _ _ h)
      · exact h

theorem fqPush_runInv (s : State) (d : Nat) (ws : List Word) (h : RunInv s) : RunInv (fqPush s d ws) := by
  unfold fqPush
  dsimp only
  split
  · exact fqPut_runInv _ _ _ h
  · split
    · exact h
    · exact countReg_runInv _ _ _ _ _ h

theorem ehLog_runInv (s : State) (n kind dpa pc bank row nsym : Nat) (h : RunInv s) :
    RunInv (ehLog s n kind dpa pc bank row nsym) := by
  unfold ehLog
  dsimp only
  generalize hu : (if kind % 2 = 0 ∧ (metaVer (metaOf s dpa) || (decide (dpa < 2 ^ 40) &&
    metaVer (metaOf s (dpa ^^^ 2 ^ 39)))) = true then raiseFlags s 4 else s) = u
  have h' : RunInv u := by
    subst hu
    split
    · exact raiseFlags_runInv _ _ h
    · exact h
  clear hu
  split
  · have h2 := putReg_runInv _ (rEhptr n) 41 32 ((bits (reg s (rEhptr n)) 41 32 + 1) % 1024)
      (rawWrite_runInv u (bits (reg s (rEhbase n)) 43 15 * 2 ^ 15 + 32 * bits (reg s (rEhptr n)) 41 32) (wordsBytes
        [ofFields [(56, kind), (55, if 2 ^ 39 ≤ dpa ∧ dpa < 2 ^ 40 then 1 else 0), (49, pc), (43, bank), (25, row)],
          BitVec.ofNat 64 (dpa / 64 * 64), Config.clockAt (1000 + n) u.tick, BitVec.ofNat 64 (nsymOf kind nsym)]) h')
    split
    · exact countReg_runInv _ _ _ _ _ (putReg_runInv _ _ _ _ _ h2)
    · exact h2
  · exact countReg_runInv _ _ _ _ _ h'

/-! ## Lines of VER blocks and of snapshots -/

theorem copyForward_runInv (s : State) (blk c n : Nat) (tag : BitVec 8) (ver : Bool) (h : RunInv s) :
    RunInv (copyForward s blk c n tag ver) :=
  foldl_runInv _ (fun _ _ hs => setTag_runInv _ _ _ _ (setBad_runInv _ _ _ (rawPut_runInv _ _ _ _ hs))) _ _ h

theorem placeLine_runInv (s : State) (pol : Policy) (cmp full ver : Bool) (tag : BitVec 8) (blk n : Nat) (mask : BitVec 128)
    (l : Line) (h : RunInv s) : RunInv (placeLine s pol cmp full ver tag blk n mask l) := by
  unfold placeLine
  have h1 := tagCheck_runInv s n h
  dsimp only
  split
  · exact deckMerge_runInv _ _ _ _ _ _ _ h1
  · have h2 := allocates_runInv (tagCheck s n) pol n (if cmp then blk / 2048 else n) h1
    generalize allocates (tagCheck s n) pol n (if cmp then blk / 2048 else n) = r at h2 ⊢
    split
    · exact deckMerge_runInv _ _ _ _ _ _ _ (deckAlloc_runInv _ _ _ _ _ h2)
    · exact setBad_runInv _ _ _ (rawPut_runInv _ _ _ _ h2)

theorem recount_runInv (s : State) (blk k : Nat) (h : RunInv s) : RunInv (recount s blk k) := by
  unfold recount
  dsimp only
  split
  · exact setMeta_runInv _ _ _ h
  · exact h

/-- The write of a line keeps the invariant, in place or as VerWrite (R175). -/
theorem performWrite_runInv (s : State) (pol : Policy) (full : Bool) (frame : Nat) (mask : BitVec 128) (l : Line)
    (h : RunInv s) : RunInv (performWrite s pol full frame mask l) := by
  unfold performWrite
  dsimp only
  split
  · split
    · exact recount_runInv _ _ _ (placeLine_runInv _ _ _ _ _ _ _ _ _ _ h)
    · split
      · exact recount_runInv _ _ _ (placeLine_runInv _ _ _ _ _ _ _ _ _ _ h)
      · apply recount_runInv
        apply placeLine_runInv
        apply setMeta_runInv
        split
        · exact h
        · exact copyForward_runInv _ _ _ _ _ _ h
  · exact recount_runInv _ _ _ (placeLine_runInv _ _ _ _ _ _ _ _ _ _ h)

/-- A restore of uncorrectable codewords keeps the invariant (R158). -/
theorem restoreBad_runInv (s : State) (n : Nat) (bad : BitVec 2) (h : RunInv s) : RunInv (restoreBad s n bad) := by
  have note (s : State) (k : Nat) (hs : RunInv s) : RunInv (if bit bad k then
      ehLog s (2 * homeDie (128 * n)) 6 (128 * n + 64 * k) (homeSlice (128 * n) % 64) 0 0 0xFF else s) := by
    split
    · exact ehLog_runInv _ _ _ _ _ _ _ _ hs
    · exact hs
  unfold restoreBad
  split
  · exact h
  · exact note _ 1 (note _ 0 (setBad_runInv _ _ _ h))

/-- Applying one mark to a line keeps the invariant (R156). -/
theorem applyMark_runInv (s : State) (n : Nat) (m : SnMark) (h : RunInv s) : RunInv (applyMark s n m) := by
  unfold applyMark
  split
  · exact h
  · rename_i x _
    dsimp only
    generalize hu : ({ s with shadows := _ } : State) = u
    have h' : RunInv u := by subst hu; exact h
    split
    · exact h'
    · split
      · exact restoreBad_runInv _ _ _ (performWrite_runInv u .never false n (BitVec.allOnes 128) x.image h')
      · split
        · exact h'
        · split
          · exact h'
          · exact h

theorem resolvePending_runInv (s : State) (n : Nat) (h : RunInv s) : RunInv (resolvePending s n) :=
  show RunInv { s.marks.foldl (fun s m => applyMark s n m) s with shadows := _ } from
    foldl_runInv _ (fun s m hs => applyMark_runInv s n m hs) s.marks s h

theorem takeShadow_runInv (s : State) (n c l : Nat) (h : RunInv s) : RunInv (takeShadow s n c l) := h

/-- A write at the home slice that is performed keeps the invariant. -/
theorem sliceWrite_runInv (s t : State) (src : WriteSrc) (pol : Policy) (full : Bool) (frame : Nat) (mask : BitVec 128)
    (l : Line) (h : RunInv s) (hd : sliceWrite s src pol full frame mask l = .done t) : RunInv t := by
  have h1 := resolvePending_runInv _ frame (fetchMeta_runInv s (128 * frame) h)
  unfold sliceWrite at hd
  dsimp only at hd
  generalize resolvePending (fetchMeta s (128 * frame)) frame = u at h1 hd
  have perform {w : WriteRes} (h2 : w = .done t) (hw : w = (match needsShadow u frame with
      | none => .done (performWrite u pol full frame mask l)
      | some (c, lv) =>
        if shadowCount u (homeSlice (128 * frame)) ≥ shadowCap u (homeSlice (128 * frame)) then
          .full (putReg u (rShstat (homeSlice (128 * frame) / 64)) 63 63 1) (shadowTval (homeSlice (128 * frame)) c lv 0)
        else .done (performWrite (takeShadow u frame c lv) pol full frame mask l))) : RunInv t := by
    rw [hw] at h2
    split at h2
    · cases h2
      exact performWrite_runInv _ _ _ _ _ _ h1
    · split at h2
      · cases h2
      · cases h2
        exact performWrite_runInv _ _ _ _ _ _ (takeShadow_runInv _ _ _ _ h1)
  cases src
  all_goals
    dsimp only at hd
    split at hd
    · cases hd
    · first
        | exact perform hd rfl
        | split at hd
          · cases hd
          · exact perform hd rfl

/-- A read that meets an error keeps the invariant (R73). -/
theorem demandError_runInv (s : State) (cv : Bool) (frame : Nat) (e : MemErr) (h : RunInv s) :
    RunInv (demandError s cv frame e) := by
  have h1 := resolvePending_runInv s frame h
  unfold demandError
  dsimp only
  generalize resolvePending s frame = u at h1 ⊢
  generalize (if e.second = true then 64 else 0) = off
  split
  · exact h1
  · split
    · split
      · exact ehLog_runInv _ _ _ _ _ _ _ _ h1
      · exact setBad_runInv _ _ _ (ehLog_runInv _ _ _ _ _ _ _ _ h1)
    · split
      · split
        · exact ehLog_runInv _ _ _ _ _ _ _ _ h1
        · split
          · exact setBad_runInv _ _ _ (ehLog_runInv _ _ _ _ _ _ _ _ h1)
          · split <;> exact ehLog_runInv _ _ _ _ _ _ _ _ (deckDrop_runInv _ _ h1)
      · split
        · exact ehLog_runInv _ _ _ _ _ _ _ _ h1
        · exact setPoison_runInv _ _ _ (ehLog_runInv _ _ _ _ _ _ _ _ h1)

theorem meetError_runInv (s : State) (cv : Bool) (frame : Nat) (err : Option MemErr) (h : RunInv s) :
    RunInv (meetError s cv frame err) := by
  unfold meetError
  split
  · exact demandError_runInv _ _ _ _ h
  · exact h

/-- A read at the home slice keeps the invariant. -/
theorem sliceRead_runInv (s : State) (pol : Policy) (cv : Bool) (frame off n : Nat) (h : RunInv s) :
    RunInv (sliceRead s pol cv frame off n).1 := by
  have h1 := resolvePending_runInv _ frame (fetchMeta_runInv s (128 * frame) h)
  unfold sliceRead
  dsimp only
  generalize resolvePending (fetchMeta s (128 * frame)) frame = u at h1 ⊢
  have h2 := tagCheck_runInv u (viewLine u cv frame) h1
  generalize tagCheck u (viewLine u cv frame) = v at h2 ⊢
  split
  · exact h2
  · generalize (if metaCmp (metaOf u (128 * frame)) = true then 128 * frame / 2048 else viewLine u cv frame) = key
    split
    · exact deckAlloc_runInv _ _ _ _ _ (allocates_runInv _ _ _ _ h2)
    · exact allocates_runInv _ _ _ _ h2

end Sys2Proof.Machine
end

