-- ==== Sys2Proof/Tests/Slice0.lean ====
section
/-! SUPPORT. Sys2Proof/Tests/Slice0.lean: ill-formed terms that WellFormed refuses, words of the manual's examples that
decode to what they stand for, small runs of one word, and, for every statement with hypotheses, states that meet them. -/

open Sys2Proof Sys2Proof.Machine Sys2Proof.Claims

set_option maxRecDepth 100000

namespace Sys2Proof.Tests

/-- A mark of an A word with no token marks. -/
def mA : Mark := ⟨.A, false, false⟩

/-- No guard: p0. -/
def ng : Guard := ⟨false, 0⟩

/-- Core 0's role C acts, on a worker core that runs no context, with the given general registers bound. -/
def worker (g : Tab Reg) : State :=
  modRole { State.reset with cur := (0, .C) } 0 .C fun x => { x with g := g }

/-- Registers g1 to g3 bound to two numbers and a tainted third. -/
def three : Tab Reg := [(1, ⟨7, false⟩), (2, ⟨0xFFFFFFFFFFFFFFFE, false⟩), (3, ⟨8, true⟩)]

/-- A claim about what an option holds, when it holds nothing. -/
theorem ofNone {α : Type} {x : Option α} {p : α → Prop} (h : x = none) : ∀ a, x = some a → p a := by
  intro a e
  rw [h] at e
  cases e

/-- A claim about a list's members, when it has none. -/
theorem ofNil {α : Type} {l : List α} {p : α → Prop} (h : l = []) : ∀ x, x ∈ l → p x := by
  intro x e
  rw [h] at e
  cases e

/-- What a computation that succeeds answers. -/
theorem okOf {ε α : Type} {x : Except ε α} (h : x.toBool = true) : ∃ a, x = .ok a := by
  cases x with
  | error e => exact absurd h (by simp [Except.toBool])
  | ok a => exact ⟨a, rfl⟩

/-- The acting worker with a change of its core. -/
def withCore (s : State) (f : Core → Core) : State := modCore s s.cur.1 f

/-- The acting worker with a change of its role. -/
def withRole (s : State) (f : Role → Role) : State := modRole s s.cur.1 s.cur.2 f

/-- The acting role's word has reached a stage. -/
def atStage (s : State) (n : Nat) : State := withRole s fun x => { x with mid := n }

/-- The acting role stands at its word. -/
def standing (s : State) (b : Block) : State := withRole s fun x => { x with block := some b }

/-- A worker whose word has begun its release. -/
def begun (g : Tab Reg) : State := atStage (worker g) 1

/-- The worker with, under handle h, a ring of four slots of 8 bytes at 0x40000, one of them filled. -/
def withRing (h : Nat) (g : Tab Reg) : State := withCore (worker g) fun k =>
  { k with hdesc := [(2 * h, ofFields [(41, 0), (29, 3), (0, 0x40000)]), (2 * h + 1, ofFields [(32, 1), (16, 2), (0, 1)])] }

/-- Registers for a barrier at the start of scratch. -/
def atScratch : Tab Reg := [(1, ⟨BitVec.ofNat 64 (NW + 0x40000), false⟩), (2, ⟨3, false⟩)]

/-- A worker whose two incoming tokens and one outgoing token stand in its FIFOs. -/
def withTokens : State := withCore (worker three) fun k => { k with tokLC := 2, tokCS := 1 }

/-- Descriptor words of a ring of four slots of 16 bytes at 0x40000. -/
def descRegs : Tab Reg := [(1, ⟨ofFields [(41, 1), (29, 3), (0, 0x40000)], false⟩), (2, ⟨ofFields [(32, 1), (16, 2), (0, 1)], false⟩),
  (3, ⟨0, false⟩)]

/-- Die 0's system core acts, with the given general registers bound. -/
def system (g : Tab Reg) : State :=
  modRole { State.reset with cur := (960, .C) } 960 .C fun x => { x with g := g, fin := false, tstat := 0x4, tvec := 0x2000 }

/-- The worker has a handler at 0x2000, which it enters in system mode. -/
def trapping : State := withRole (worker three) fun x => { x with tvec := 0x2001, tstat := 0 }

/-- The worker stands in its handler, which it entered in user mode. -/
def handling : State := withRole (worker three) fun x => { x with tvec := 0x2000, tstat := 0x5, tpc := 0x1008 }

/-- The system core with an empty configuration difference of 64 bytes at address 0. -/
def withImage : State := { system three with mem := [(4, 0x40)] }

/-- The worker with three vector registers, each with 3 in every lane, and a base register in scratch. -/
def vectors : State := withRole (worker (atScratch ++ [(3, ⟨0, false⟩)])) fun x =>
  { x with v := [(1, ofLanes fun _ => 3), (2, ofLanes fun k => BitVec.ofNat 32 (4 * k)), (3, ofLanes fun _ => 0x3F800000)],
           p := [(2, 0x5)] }

/-- A guard that leaves two lanes active. -/
def two : Guard := ⟨false, 2⟩

/-- The vectors' worker with the step-state page at address 0, its two blocks registered. -/
def streams : State :=
  let s := (List.range 8).foldl (fun s n => setReg s (rMdbase n) (BitVec.ofNat 64 (2 ^ 29 * (n + 1) + 1))) vectors
  let s := { setReg s rSspbase 1 with deck := [(0, ⟨0, false, 0, false, 0, false⟩), (8, ⟨0, false, 0, false, 0, false⟩)] }
  [0, 2048].foldl (fun s a => { s with mem := memWrite s.mem ((metaAddr s a).getD 0) 1 }) s

/-- The memory operand [g1]. -/
def base0 : EA := ⟨1, 0, 0, 0⟩

/-- The memory operand [g1 + v2]. -/
def vbase0 : VEA := ⟨1, 2, 0, 0⟩

/-- A worker whose g1 names the first byte of its die's carve-out, which holds 8 MiB. -/
def carved : State :=
  let g : Tab Reg := [(1, ⟨BitVec.ofNat 64 (NW + 0x40000000), false⟩), (2, ⟨0xABCD, false⟩)]
  setReg (withRole vectors fun x => { x with g := g, v := [(1, 0), (2, 0)] }) (rCarve 0) 1

/-- The carve-out's first byte in a snapshot's range. -/
def guarded : State := { carved with snap := [(1, ⟨0, [⟨0x1000, 0x1000, 2 ^ 40, false⟩]⟩)] }

/-- An atomic of the carved worker that its home slice is to perform. -/
def atomOf (op : AtomOp) : Atom :=
  { id := 1, op := op, dest := .g 4, tgt := carveTarget 0 0, leaf := none, tag := none, backoff := 8, reply := none,
    site := ⟨0, 0, 0⟩ }

/-- The carved worker stands in an atomic. -/
def atomic (a : Atom) : State := standing carved (.atomic a)

/-- The acting role goes on with a vector access from a lane. -/
def fromLane (s : State) (n : BitVec 6) : State := withRole s fun x => { x with vstart := n }

/-- A vamo of the carved worker with one lane to perform. -/
def lanes1 : VAtom :=
  { id := 1, op := .add, dest := .v 4, todo := [(3, BitVec.ofNat 57 (NW + 0x40000000), 9)], done := [], fl := 0, full := none,
    tag := none, site := ⟨0, 0, 0⟩ }

/-- A continuation of the context of XID 0 that any core may launch. -/
def launchable : State := { carved with ctab := [(5, (0xC000000000000000, 0))] }

/-- The acting core runs under an XID. -/
def underXid (x : BitVec 16) (s : State) : State := withCore s fun k => { k with xid := x }

/-- The acting role has a handler at 0x2000. -/
def withHandler (s : State) : State := withRole s fun x => { x with tvec := 0x2000 }

/-- A debugger takes the core's brk words. -/
def forDebugger (s : State) : State := withCore s fun k => { k with dbg := { k.dbg with brken := true } }

/-- The worker has run 4,096 words since its safe point. -/
def overdueWorker : State := withRole (worker three) fun x => { x with safecnt := 4096 }

/-- The worker stands at the far end of the slip window. -/
def farWorker : State := withRole (worker three) fun x => { x with walk := 1024 }

/-- The system core has halted, and a wake event has come. -/
def woken : State := withCore (system three) fun k => { k with halted := true, wake := true }

/-- Semaphore 0 of the worker's core holds 7. -/
def oneSem : State := withCore (worker three) fun k => { k with sems := [(0, 7)] }

/-- An atomic of the carved worker whose reply has come, of the word i. -/
def replied (i : Instr) (op : AtomOp) (r : AtomReply) : Atom :=
  { atomOf op with reply := some r, site := ⟨0, (encode i).headD 0, 0⟩ }

/-- Another requester is recorded at the home slice of the carve-out's first line. -/
def crowded (a : Atom) : State :=
  let s := standing launchable (.atomic a)
  setSlice s (homeSlice (2 ^ 40)) { slice s (homeSlice (2 ^ 40)) with ring := [7] }

/-- The words of the worker's atomics. -/
def amoWord : Instr := .amo mA .add true 4 1 2
def vamoWord : Instr := .vamo mA .add 4 1 1 0 2 two

/-- The vamo of vamoWord, done. -/
def lanesDone : VAtom := { lanes1 with todo := [], done := [(3, 5)], site := ⟨0, (encode vamoWord).headD 0, 0⟩ }

/-- The line at the start of the carve-out is a plain one. -/
theorem carved_plain (s : State) (h : s = carved ∨ (∃ b, s = standing carved b) ∨ ∃ b, s = standing launchable b) : plainLine s (2 ^ 33) := by
  obtain rfl | ⟨f, rfl⟩ | ⟨f, rfl⟩ := h <;>
  exact ⟨rfl, rfl, (by intro a h; cases h), rfl, rfl, rfl, (by intro x h; cases h), (by intro d h; cases h)⟩

theorem reset_plain : plainLine State.reset 5 :=
  ⟨rfl, rfl, (by intro a h; cases h), rfl, rfl, rfl, (by intro x h; cases h), (by intro d h; cases h)⟩

/-- A part of a load of 8 bytes from the carve-out's first line. -/
def part8 : LoadPart := { tgt := carveTarget 0 0, va := 0, n := 8, off := 0, fill := false, tag := none, got := none }

/-- A load of part p to a destination. -/
def loadTo (d : Dest) (esz : Nat) (lanes : Option (BitVec 64)) (p : LoadPart) : Load :=
  { id := 1, dest := d, esz := esz, sx := false, taint := false, lanes := lanes, acq := none, parts := [p], site := ⟨0, 0, 0⟩ }

/-- The carved worker with a load in flight. -/
def loading (l : Load) : State := withRole carved fun x => { x with loads := [l] }

/-- A write of the carved worker's C role in flight. -/
def write8 (p : Place) : Write :=
  { id := 1, roles := 2, w := ⟨carveTarget 0 0, 0xFF, 7⟩, place := p, after := 0, rel := .sys, thru := false, precise := false, lane := 0,
    performed := false, refused := none, tag := none, site := ⟨0, 0, 0⟩ }

/-- The carved worker with a write in flight. -/
def writing (w : Write) : State := withCore carved fun k => { k with writes := [w] }

theorem loading_plain (l : Load) : plainLine (loading l) (2 ^ 33) :=
  ⟨rfl, rfl, (by intro a h; cases h), rfl, rfl, rfl, (by intro x h; cases h), (by intro d h; cases h)⟩

theorem writing_plain (w : Write) : plainLine (writing w) (2 ^ 33) :=
  ⟨rfl, rfl, (by intro a h; cases h), rfl, rfl, rfl, (by intro x h; cases h), (by intro d h; cases h)⟩

/-- The vectors' worker with two 2 MiB pages for addresses 0 on: a root pointer, a table at 0x200000, and one at 0x400000
with the given leaves. -/
def pagedWith (l0 l1 : Nat) : State :=
  let s := { vectors with
    mem := writeBytes (writeBytes [] 0x200000 (wordBytes (BitVec.ofNat 64 (0x400 * 2 ^ 20 + 5)))) 0x400000
      (wordBytes (BitVec.ofNat 64 l0) ++ wordBytes (BitVec.ofNat 64 l1)) }
  withCore s fun k => { k with root := BitVec.ofNat 64 (0x200 * 2 ^ 20 + 5) }

/-- The pages' frame is at 0x600000. -/
def paged : State := pagedWith (0x600 * 2 ^ 20 + 0xF7) 0

/-- The second page's frame does not follow the first's. -/
def parted : State := pagedWith (0x600 * 2 ^ 20 + 0xF7) (0xA00 * 2 ^ 20 + 0xF7)

/-- The page is a compressed one, its first block registered so. -/
def packedPage : State :=
  let s := setReg (pagedWith (0x600 * 2 ^ 20 + 0x8F7) 0) (rMdbase (ctrlOf 0x600000)) 0x20000001
  { s with mem := memWrite s.mem ((metaAddr s 0x600000).getD 0) 2 }

/-- The leaf of that page. -/
def leaf2 : Found := ⟨BitVec.ofNat 64 (0x600 * 2 ^ 20 + 0xF7), 0x400000, 2 ^ 21, 0x601234⟩

/-- The paged worker with a length of 4 KiB in g2 and a token in g3, in a context with the given snapshot levels. -/
def snapping (l : List SnLevel) : State :=
  let s := withRole paged fun x => { x with g := [(2, ⟨0x1000, false⟩), (3, ⟨4, false⟩), (4, ⟨7, false⟩)] }
  if l = [] then s else { s with snap := [(1, ⟨0, l⟩)] }

/-- A snapshot level of the page's first 8 KiB. -/
def level0 : SnLevel := ⟨0, 0x2000, 0x600000, false⟩

/-- A snapshot word of core 0's role C is under way, its release begun. -/
def flight (a : SnAct) : SnFlight := ⟨0, .C, 0, 0, a, false⟩
def flying (a : SnAct) (s : State) : State := { atStage s 1 with snFlight := some (flight a) }

/-- A shadow of the page's first line, as it stood when it held 5. -/
def shadow0 : Shadow := { line := 0xC000, ctx := 1, lvl := 1, image := 5, tag := none, stamp := 0, bad := 0 }

/-- The snapshot's worker with room for shadows on every die. -/
def roomy (l : List SnLevel) : State := (List.range 4).foldl (fun s d => setReg s (rCarve d) 0x100) (snapping l)

/-- A level of context 1 is closed, with one shadow of it left. -/
def closing (rej : Bool) : State := { snapping [] with shadows := [shadow0], marks := [⟨1, 1, 1, rej⟩] }

/-- The worker whose Keystone is as given. -/
def keyed (k : Keystone) (g : Tab Reg) : State := { worker g with ks := k }

/-- Keystone is the root, its step open, one vote due. -/
def openKs : Keystone := { Keystone.reset with cfg := BitVec.ofNat 64 (2 ^ 63 + 2), state := .open_, geno := 7, genc := 6 }

/-- Its decision of generation 7 is done. -/
def decidedKs : Keystone := { openKs with lastdec := BitVec.ofNat 64 (7 * 2 ^ 16 + 4) }

/-- Keystone is a leaf under port 3, with a child at port 5. -/
def leafKs (st : KsState) : Keystone :=
  { Keystone.reset with cfg := BitVec.ofNat 64 (3 * 2 ^ 56 + 2 ^ 52 + 5 * 2 ^ 36 + 100 * 2 ^ 16 + 1), state := st, geno := 7, genc := 6 }

/-- A task of one core, at the first position of die 0, with the given word 0, in a state of its life. -/
def task0 (w0 : Nat) (st : TaskSt) : Task :=
  { id := 1, words := [BitVec.ofNat 64 w0, 0, 0, 0x3000, 0x4000, 0x5000, 0, 0, 0, 0, 0, 0, 1, 2, 3, 4], xid := 0, origin := .host,
    core := 0, role := 3, cw := 0, recVa := 0, slice := 0, launch := none, gi := 0, pos := 0, expl := 0, edges := [],
    parent := none, st := st, level := 0, readyNo := 0, place := some (0, 0, 0), seg := 0, trips := 0, acted := 0, todo := [],
    decided := false, probes := 0, saved := none }

/-- Die 0's Collie has the given tasks in its pool. -/
def pooled (l : List Task) (s : State) : State := { s with collies := [(0, { Collie.reset with pool := l })] }

/-- Core 0 runs a task. -/
def running (t : Task) (s : State) : State := modCore (pooled [t] s) 0 fun k => { k with task := some t.id }

/-- A core of a vote-linked context. -/
def voter : State := running (task0 0x40 .running) (keyed openKs three)

/-- A part with the given Keystone. -/
def ksState (k : Keystone) : State := { State.reset with ks := k }

/-- A register of the part set before anything runs. -/
def setting (n : Nat) (v : Word) (s : State) : State := setReg s n v

/-- Die 0's carve-out is being resized, from 1 unit to 3. -/
def resizing : State :=
  { setting (rCarve 0) 0x8000000000000003 State.reset with carveOld := [(0, (1, 0))], mem := [(2 ^ 40 + 2 ^ 23, 9)] }

/-- Metadata of controller 0 stands at 2^29. -/
def blocks : State := setting (rMdbase 0) 0x20000001 State.reset

/-- A continuation entry for a context of XID 0. -/
def ctabWaiting : State := { State.reset with ctabBusy := some (5, 0xC000000000000000, 0) }

/-- Reduction group 1 is enabled, with one slot a round, its table at 0x4000; a round stands open. -/
def grouped (w : Word) : State := setting (rRgrp 1) w State.reset

/-- A context runs on core 0, as its task at origin 5. -/
def originated : State := running (task0 0 .running) (worker three)

/-- A part whose memory holds the given bytes. -/
def holdingMem (m : List Host.Cell) (s : State) : State := { s with mem := m }

/-- A part with one unit of configuration. -/
def unitOf (u : UnitPlane) (s : State) : State := { s with units := [u] }

/-- A round of group 1 stands open. -/
def inRound (w : Word) : State := { grouped w with rounds := [⟨1, 5, 0⟩] }

/-- The words of a span record that adds up one chunk in a group of two, over port 0. -/
def spanWords : List Word :=
  [ofFields [(60, 3), (44, 1), (0, 0)], 0, 0x20000, 0x30000, 0x8080, 0, 0, 0, ofFields [(32, 1)], 0x100, 0, 0, 0, 0, 0, 0]

/-- A line of 128 bytes that holds the given words. -/
def lineOf (ws : List Word) : DeckLine := ⟨BitVec.ofNat 1024 (leNat (wordsBytes ws)), false, 0, false, 0, false⟩

/-- The paged worker has a span record at 0x8000, its member table behind it; its pages are XID 0's. -/
def spanning : State :=
  { setReg (withRole paged fun x => { x with g := [(1, ⟨0x8000, false⟩)] }) 0x101 0x300000 with
    mem := writeBytes paged.mem 0x300000 (wordBytes (BitVec.ofNat 64 (0x200 * 2 ^ 20 + 5)))
    deck := [(0xC100, lineOf spanWords), (0xC101, lineOf [0x10000])] }

/-- Core 0 runs a task; its role C holds an asynchronous trap for its handler at 0x2000. -/
def trapHeld : State := running (task0 0 .running) (withRole (worker three) fun x => { x with tvec := 0x2001, tstat := 0x1208 })

/-- Core 0 runs a task whose next four words are the C role's. -/
def othersWords : State :=
  { running (task0 0 .running) (withCore paged fun k => k) with deck := [(0xC000, lineOf [0, 0, 0, 0])] }

/-- Core 0 runs a task: role L waits for a token, role C for a queue's slots, and role S has ended. -/
def stuck : State := modRole (modRole (modRole (running (task0 0 .running) (worker three)) 0 .L fun x =>
  { x with why := some (.tokPop 1) }) 0 .C fun x => { x with why := some (.tokPop 1) }) 0 .S fun x => { x with fin := true }

/-- Die 0's fault ring of two slots at 0x1000, one record waiting for it. -/
def faultRing (n : Nat) : State :=
  { setReg State.reset (rFqbase 0) (ofFields [(63, 1), (12, 1), (0, n)]) with fqBuf := [(0, [[1, 2, 3]])] }

/-- Core 0 runs a task whose release is settled. -/
def signalling : State := running (task0 0 .running) (worker three)

/-- No wait and no signal. -/
def noWs : WaitSig := ⟨false, 0, 0, false, 0, 0⟩

/-- The word of a command in prepare. -/
def prepOf (i : Instr) : MCmd := ⟨(encodeCommand i).headD 0, .C, true, 0, none⟩

/-- Core 0 with three rings of 16 KiB slots: h1 has one slot filled, h2 none, h3 two; the command i is in prepare, and format
entry 1 names FP16. -/
def preparing (i : Instr) : State := withCore (worker three) fun k =>
  { k with
    hdesc := [(2, ofFields [(41, 2047), (29, 3), (0, 0x40000)]), (3, ofFields [(32, 1), (16, 1)]),
      (4, ofFields [(41, 2047), (29, 3), (0, 0x60000)]), (5, 0),
      (6, ofFields [(41, 2047), (29, 3), (0, 0x80000)]), (7, ofFields [(32, 2), (16, 2)]),
      (28, ofFields [(41, 0), (29, 3), (0, 0x30000)]), (29, ofFields [(32, 1), (16, 1)])]
    matrix := { k.matrix with prep := some (prepOf i), fmt := [(1, ofFields [(4, 3), (0, 3)])], taken := 1 } }

/-- The commands of the witnesses. -/
def mmaW : Instr := .mma noWs false 1 3 3 2 false true true
def mdrW : Instr := .mdr noWs 2 1 .rne false 2 true false
def mldW : Instr := .mld noWs 5 true true 1 true

/-- The command ring's head, before a command has left it. -/
def ringHead (w : Word) : State := { withCore (preparing mmaW) fun k =>
  { k with matrix := { k.matrix with prep := none } } with mem := writeBytes [] (poolBase 0 + 0x30000) (wordBytes w) }

/-- A drain is done, and waits to complete, with signal to semaphore 4. -/
def finished : State := withCore (preparing mmaW) fun k =>
  { k with matrix := { k.matrix with prep := none, done := [⟨(encodeCommand (.mdr ⟨false, 0, 0, true, 4, 0⟩ 2 1 .rne false 2 true false)).headD 0, .C, 0, 1, none⟩] } }

/-- A command whose wait byte is not met. -/
def unmet : State := withCore (preparing mmaW) fun k =>
  { k with matrix := { k.matrix with prep := some { prepOf (.mnop ⟨true, 3, 0, false, 0, 0⟩) with waited := false } } }

/-- The drain that finished is to complete. -/
def mdrDone : MDone := ⟨(encodeCommand (.mdr ⟨false, 0, 0, true, 4, 0⟩ 2 1 .rne false 2 true false)).headD 0, .C, 0, 1, none⟩

/-- A command that waits for semaphore 3. -/
def mnopW : Instr := .mnop ⟨true, 3, 0, false, 0, 0⟩
def mnopP : MCmd := { prepOf mnopW with waited := false }

/-- No streaming, no barrier. -/
def noOpts : CopyOpts := ⟨false, false, 0, 0⟩

/-- A job of the command i that names no handle. -/
def jobOf (i : Instr) : CJob :=
  { id := 1, sq := 0, words := encodeCommand i, role := .C, shape := [], src := none, dst := none, row := 0, prog := 0, left := [],
    fetched := [], refused := none, failed := none, readDone := false, accessed := false, freed := false, pubd := false, stopped := false, flags := 0 }

/-- The worker's copy engine has the given jobs, with the rings of `preparing`. -/
def copying (l : List CJob) : State := withCore (preparing mmaW) fun k => { k with copy := { k.copy with jobs := l } }

/-- The commands of the witnesses. -/
def fillW : Instr := .fill noWs (.addr (BitVec.ofNat 57 (NW + 0x40008))) noOpts 24 0x1122334455667788
def cpyW : Instr := .cpy noWs 0 (.addr (BitVec.ofNat 57 (NW + 0x40001))) (.addr (BitVec.ofNat 57 (NW + 0x40005))) noOpts 9 0
def bartxW : Instr := .bartx noWs 0 0x4000 16
def gathW (e : BitVec 4) : Instr := .gath noWs 5 (.addr (BitVec.ofNat 57 (NW + 0x40000))) noOpts 0 e 0x10000
def badW : Instr := .cpy noWs 0 (.addr 0) (.addr (BitVec.ofNat 57 (NW + 0x40000))) noOpts 8 0

/-- A command is in admission. -/
def admitting (i : Instr) : State := withCore (copying []) fun k =>
  { k with copy := { k.copy with adm := some ⟨encodeCommand i, .C, true, 0⟩, taken := 1 } }
def slotsW : Instr := .cpy noWs 0 (.handle 3 true) (.handle 2 false) noOpts 16 0

/-- The copy ring's head, with eight jobs in flight. -/
def copyRing : State := { withCore (copying (List.replicate 8 (jobOf (.cnop noWs)))) fun k =>
  { k with hdesc := tabSet (tabSet k.hdesc 30 (ofFields [(41, 0), (29, 3), (0, 0x30000)])) 31 (ofFields [(32, 1), (16, 1)]) } with
  mem := writeBytes [] (poolBase 0 + 0x30000) (encodeCommand (.cnop noWs) |>.flatMap wordBytes) }

/-- A job of two rows. -/
def twoRows : CJob := { jobOf cpyW with shape := [0x100000002, 16, 16, 0, 0] }

/-- A job whose accesses are all made. -/
def madeJob : CJob := { jobOf fillW with accessed := true, flags := 3 }

/-- A job whose write was refused for lack of a shadow. -/
def refusedJob : CJob := { jobOf fillW with refused := some 0x13, left := [⟨⟨carveTarget 0 0, 0xFF, 7⟩, none, 0, false⟩] }

/-- A contribution of job 1 to the carve-out's first line. -/
def contrib (g : BitVec 8) : Contribution :=
  { op := .add, dbl := false, group := g, srcid := 0x102, line := 2 ^ 33, mask := 0xF, data := 5, src := .job 0 1 }
def contribOf (g : BitVec 8) (st : ContribSt) (t : Target) : Contrib := ⟨0, contrib g, 0, st, t, 0⟩

/-- The carved worker with a contribution in flight, and group 1 enabled with slots 0x101 and 0x102. -/
def contributing (y : Contrib) : State :=
  { setReg carved (rRgrp 1) 0x8040000000000000 with contribs := [y], slotTabs := [(1, [0x101, 0x102])] }
def jobContributing (y : Contrib) : State := { copying [jobOf fillW] with contribs := [y] }

theorem carved_plain' (s : State) (h : s = carved) : plainLine s (2 ^ 33) := carved_plain s (.inl h)

/-- A part that has booted, or that takes the host's requests. -/
def hosted (s : State) : State := setReg s rBootstat 0x400000000000

/-- The words of a record of one core. -/
def recordOf (w0 : Nat) : List Word := [BitVec.ofNat 64 w0, 0, 0, 0x3000, 0, 0, 0, 0, 0, 0, 0, 0, 1, 2, 3, 4]

/-- A submission of the given word 0 by the host, or by role L of core 0, which waits in its spawn. -/
def subOf (w0 : Nat) (from_ : Option (Nat × RoleId)) : Submission :=
  ⟨recordOf w0, 0, .host, 0, 3, 0, 0, false, from_⟩

/-- Die 0's Collie with a change. -/
def withCollie (f : Collie → Collie) (s : State) : State := setCollie s 0 (f (collie s 0))

def submitted (u : Submission) : State := withCollie (fun x => { x with subs := [u] }) (worker three)
def spawned : State := withRole (submitted (subOf 0 (some (0, .C)))) fun x => { x with block := some (.spawn 0) }

/-- A launch that slice 3 has filled in its queue. -/
def launch0 (w0 : Nat) : Launch := ⟨5, 0, 1, 0, recordOf w0, 0, 0, 0, 0, 0⟩
def launching (w0 : Nat) (s : State) : State := setSlice s 3 { slice s 3 with queue := [⟨7, (0, 0), some (launch0 w0)⟩] }
def holding : State := setSlice State.reset 3 { slice State.reset 3 with ring := [7, 9], lastAdm := 7 }

/-- Die 0's pool lets no task in. -/
def crowdedPool : State := setting (rClcfg 0) 0 State.reset

/-- The Kennel holds a task. -/
def kenneled (s : State) : State := withCollie (fun x => { x with kennel := [task0 0 .ready] }) s

/-- Graph instance 4 of XID 0, three tasks of it accepted. -/
def inst4 : GraphInst := ⟨0, 4, 3, false, [(5, 1)]⟩
def countT (n : Nat) : Task := { task0 0 .waiting with gi := 4, pos := 2, expl := n }
def counting (n : Nat) : State := withCollie (fun x => { x with insts := [inst4] })
  (pooled [countT n] State.reset)

/-- A node that is ready, its predicate word at 0x8000 and its empty list at 0x8080 of the paged address space. -/
def node0 : Task := { task0 2 .ready with words := [2, 0, 0, 0, 0, 0, 0x8080, 0x8000] }
def deciding : State := { pooled [node0] spanning with deck := [(0xC100, lineOf [1]), (0xC101, lineOf [0])] }

/-- Levels rise on die 0. -/
def rising (n : Nat) : State := setting (rClcfg 0) 0x10100 (pooled [{ task0 0 .ready with level := n }] State.reset)

/-- A LOOP task of two segments in its first. -/
def loopT : Task := { task0 1 .running with trips := 1 }

/-- The roles of a task's core 0 have all ended. -/
def ended (t : Task) : State := modCore (running t State.reset) 0 fun k =>
  { k with roleL := { k.roleL with fin := true }, roleC := { k.roleC with fin := true }, roleS := { k.roleS with fin := true } }

/-- A task is held, its probes answered. -/
def heldT : Task := { task0 0 .held with probes := 4 }

/-- A saved task is held at its own place. -/
def savedT : Task := { task0 0 .held with saved := some (0x200000, [Core.reset]) }

/-- Pre-emption of task 1 is in progress, its roles at rest. -/
def preemptedT : State := withCollie (fun x => { x with pre := some ⟨1, 0x200000⟩ }) (ended (task0 0 .running))

/-- Port p in a state: 0 DOWN, 1 TRAINING, 2 UP. -/
def linked (p st : Nat) (s : State) : State := setReg s (rPortstat p) (ofFields [(62, st), (32, 5)])

/-- A line of the Deck holds 1 in every word. -/
def lined : State := { State.reset with deck := [(5, lineOf (List.replicate 16 1))] }

/-- Requests of a peer. -/
def readReq (a : BitVec 44) : PeerReq := ⟨.read a 16, 0, 7⟩
def writeReq : PeerReq := ⟨.write (BitVec.ofNat 44 0x280) 0xFF 9, 0, 7⟩
def amoReq : PeerReq := ⟨.amo (BitVec.ofNat 44 0x280) .add true 9, 0, 7⟩

/-- A request of the device that a peer is to answer over port 2. -/
def asked (op : PeerOp) (who : PeerFor) (p st : Nat) (s : State) : State :=
  linked 2 st { s with peerOut := [⟨4, p, 9, op, 0, who⟩] }
def askedOut (op : PeerOp) (who : PeerFor) (p : Nat) : PeerOut := ⟨4, p, 9, op, 0, who⟩

/-- A load and a write of core 0 that wait for a peer. -/
def farTarget : Target := { carveTarget 0 0 with peer := some 9 }
def farPart : LoadPart := { part8 with tgt := farTarget }
def farLoad : Load := loadTo (.g 4) 8 none farPart
def farWrite : Write := { write8 .slice with w := ⟨farTarget, 0xFF, 7⟩ }

/-- A record posted at port 0, walked and closed n times. -/
def posted (n : Nat) : Posted :=
  { k := 0, words := spanWords, core := 960, task := none, xid := 0, root := 5, sem := some 3, rank := 0, member := [0, 1], got := [],
    walked := n, closed := n, out := [] }
def posting (x : Posted) (s : State) : State := setPort s 0 { port s 0 with posted := [x] }

/-- A part of n bytes for that record, or for another. -/
def partOf (tag : BitVec 16) (n : Nat) : CollPart := ⟨tag, 0, [0], 0, List.replicate n 1⟩
def parked : State := setPort State.reset 0 { port State.reset 0 with parked := [partOf 1 256] }

/-- A part of the record that was sent over port 2, in the given state. -/
def sentPart : SentPart := ⟨6, 0, 0, 2, 1, partOf 0 256⟩
def sending (st : Nat) : State := linked 2 st { posting { posted 0 with out := [6] } State.reset with sent := [sentPart] }

/-- A page-table write of the device waits for port 2. -/
def multicasting : State := { State.reset with ptmcOut := [⟨0, 3, 0, 5, [2, 4]⟩] }

/-- The host's window is the paged address space, whose first line holds 1 in every word. -/
def windowed : State := { hosted paged with
  hostRoot := BitVec.ofNat 64 (0x200 * 2 ^ 20 + 5)
  deck := [(0xC000, lineOf (List.replicate 16 1))] }
def readPartner : State := setBad windowed 0xC000 1

/-- A debugger has halted role C of core 0 and selected an item of it. -/
def halted (kind i : Nat) : State := hosted (withCore vectors fun k =>
  { k with dbg := { k.dbg with halt := 2, sel := BitVec.ofNat 18 (2 ^ 12 * kind + i) } })
def unhalted : State := hosted (withCore vectors fun k => { k with dbg := { k.dbg with sel := 1 } })
def breaking : State := modCore (running (task0 0 .running) paged) 0 fun k =>
  { k with dbg := { k.dbg with bp0 := 0xE000000000000000 } }
def breakingAt : State := { breaking with deck := [(0xC000, lineOf [0])] }

/-- The worker whose queue n holds the given entries. -/
def queued (n : Nat) (l : List QSlot) : State := withCore (worker three) fun k => { k with queues := [(n, l)] }

/-- The C role's words at address 0 of the paged address space, in a part that has booted. -/
def stepping (ws : List Word) (c : Choice) : State :=
  { hosted (running (task0 0 .running) paged) with deck := [(0xC000, lineOf ws)], sched := [c], cur := (960, .C) }

/-- The C role has run 4,096 words since its last safe point, and stands at a nop. -/
def overdueNop : State := modRole (stepping [0x0010000000000000] (.role 0 .C)) 0 .C fun x => { x with safecnt := 4096 }

/-- Storing g2 at the scratch address in g1. -/
def storing : State := worker atScratch
def eventState : State := { State.reset with sched := [.event .warmReset] }
def matrixTurn : State := { preparing mmaW with sched := [.matrix 0 .prepare false] }
def jobTurn : State := { copying [jobOf fillW] with sched := [.job 0 1] }
/-- Other marks, and the guard ?!p5. -/
def mC : Mark := ⟨.C, false, false⟩
def mL : Mark := ⟨.L, false, false⟩
def mS : Mark := ⟨.S, false, false⟩
def gn : Guard := ⟨true, 5⟩

/-! ## Words

Each word is put together by hand from the format, the opcode and the fields that the spec gives the instruction (R225 to
R239 and the instruction's own rule), with a different value in every field. -/

/-- A word decodes to an instruction. -/
def isWord (d : D) (i : Instr) : Bool :=
  match d with
  | .ok j => decide (j = i)
  | .error _ => false

/-- Every word of a list decodes to the instruction beside it. -/
def decodes (l : List (Word × Instr)) : Bool := l.all fun e => isWord (decodeWords e.1 none) e.2


theorem test_decode_three_operands : decodes [
    (0x002DC1F80000000D, .add mC 55 1 62 gn),
    (0x002DC1F80001000D, .sub mC 55 1 62 gn),
    (0x003DC1F80000000D, .mul mC 55 1 62 gn),
    (0x003DC1F80001000D, .mulh mC 55 1 62 gn),
    (0x003DC1F80002000D, .mulhu mC 55 1 62 gn),
    (0x004DC1F80000000D, .div mC 55 1 62 gn),
    (0x004DC1F80001000D, .divu mC 55 1 62 gn),
    (0x004DC1F80002000D, .rem mC 55 1 62 gn),
    (0x004DC1F80003000D, .remu mC 55 1 62 gn),
    (0x005DC1F80000000D, .and mC 55 1 62 gn),
    (0x005DC1F80001000D, .or mC 55 1 62 gn),
    (0x005DC1F80002000D, .xor mC 55 1 62 gn),
    (0x005DC1F80003000D, .andn mC 55 1 62 gn),
    (0x006DC1F80000000D, .shl mC 55 1 62 gn),
    (0x006DC1F80001000D, .shr mC 55 1 62 gn),
    (0x006DC1F80002000D, .sar mC 55 1 62 gn),
    (0x006DC1F80003000D, .rotr mC 55 1 62 gn),
    (0x007DC1F80000000D, .min mC 55 1 62 gn),
    (0x007DC1F80001000D, .max mC 55 1 62 gn),
    (0x007DC1F80002000D, .minu mC 55 1 62 gn),
    (0x007DC1F80003000D, .maxu mC 55 1 62 gn)] = true := by decide

theorem test_decode_other_scalar_words : decodes [
    (0xC01000000000000D, .nop mA gn),
    (0x4080720000000000, .clz mL 1 50 ng),
    (0x4080720000010000, .ctz mL 1 50 ng),
    (0x4080720000020000, .popc mL 1 50 ng),
    (0x40904200000001F0, .sext mL 1 2 31 ng),
    (0x40904200000103F0, .zext mL 1 2 63 ng),
    (0x40A1850000000C80, .bfx mL 6 5 8 3 ng),
    (0x40B1851000000C80, .bfi mL 6 5 4 8 3 ng),
    (0x00D1461C20000000, .sel mC 5 6 7 2 ng),
    (0x40E280080000013D, .li mL 10 0x80000013 gn),
    (0x40F28B0800000130, .lih mL 10 11 0x80000013 ng),
    (0x010C850000000000, .mov mC 50 5 ng),
    (0x40C2071B00800100, .lea mL 8 ⟨7, 6, 3, 0x80010⟩ ng),
    (0x013207080000001D, .addi mC 8 7 0x80000001 gn),
    (0x014207080000001D, .andi mC 8 7 0x80000001 gn),
    (0x015207080000001D, .ori mC 8 7 0x80000001 gn),
    (0x016207080000001D, .xori mC 8 7 0x80000001 gn),
    (0x01720700000003F0, .shli mC 8 7 63 ng),
    (0x01820700000003F0, .shri mC 8 7 63 ng),
    (0x01920700000003F0, .sari mC 8 7 63 ng)] = true := by decide

theorem test_decode_predicates : decodes [
    (0x0111C5C000000000, .cmp mC .eq 7 5 48 ng),
    (0x0111C5C000010000, .cmp mC .ne 7 5 48 ng),
    (0x0111C5C000020000, .cmp mC .lt 7 5 48 ng),
    (0x0111C5C000030000, .cmp mC .ge 7 5 48 ng),
    (0x0111C5C000040000, .cmp mC .ltu 7 5 48 ng),
    (0x0111C5C000050000, .cmp mC .geu 7 5 48 ng),
    (0x0111C5C000060000, .cmp mC .gt 7 5 48 ng),
    (0x0111C5C000070000, .cmp mC .le 7 5 48 ng),
    (0x0111C5C000080000, .cmp mC .gtu 7 5 48 ng),
    (0x0111C5C000090000, .cmp mC .leu 7 5 48 ng),
    (0x012C051000050000, .cset mC .geu 48 5 4 ng),
    (0x01A0C10800000004, .pand mC 3 1 2 ⟨false, 4⟩),
    (0x01A0C10800010004, .por mC 3 1 2 ⟨false, 4⟩),
    (0x01A0C10800020004, .pxor mC 3 1 2 ⟨false, 4⟩),
    (0x01A0C10000030000, .pnot mC 3 1 ng),
    (0x01A0C10000040000, .pmov mC 3 1 ng),
    (0x01A0F200000C0000, .pmovFromGeneral mC 3 50 ng),
    (0x01AC810000140000, .pmovToGeneral mC 50 1 ng)] = true := by decide

theorem test_decode_control : decodes [
    (0x42000000FFFFFFF9, .bra mL 0xFFFFFFF9),
    (0x421BC00000000000, .br mL 47),
    (0x4220709000000005, .brc mL .leu 1 48 5),
    (0x023C401000000005, .brq mC true 1 5),
    (0x023DC00000000005, .brq mC false 7 5),
    (0x424BC00000000006, .call mL 47 6),
    (0x425BC00000000000, .ret mL 47),
    (0x426BF00000000000, .jmp mL 47 48),
    (0x0270000C00000007, .loop mC 3 7),
    (0x0282400800000003, .lrec mC 2 9 3),
    (0xC290000000000000, .fin mA),
    (0x42B2400000000100, .wait mL 9 0x100)] = true := by decide

theorem test_decode_queues_handles_semaphores : decodes [
    (0x4300002800060000, .qcfg mL 5 .L .S),
    (0x4300004800080000, .qcfg mL 9 .S .C),
    (0xB310000000100000, .tokPush ⟨.S, true, true⟩ 16),
    (0x8310000100010000, .tokPop mS 1),
    (0x8311C00200000000, .tokQ mS 7),
    (0x4321467800000000, .cbinit mL 15 5 6),
    (0x0331461880010000, .cbwait mC 3 6 5 0x8001),
    (0x0341461880010000, .cbres mC 3 6 5 0x8001),
    (0x0351401880010000, .cbpush mC 3 5 0x8001),
    (0x0361401880010000, .cbpop mC 3 5 0x8001),
    (0x037146F880010000, .semwDec mC 31 6 5 0x8001),
    (0x037146F980010000, .semwGe mC 31 6 5 0x8001),
    (0x037146FA80010000, .semwEq mC 31 6 5 0x8001),
    (0x038146F880010000, .semsAdd mC 31 6 5 0x8001),
    (0x038146F980010000, .semsSub mC 31 6 5 0x8001),
    (0x039146F880010000, .semset mC 31 6 5 0x8001),
    (0x03A0860080010000, .bari mC 2 6 0x8001),
    (0x03C0860080010000, .barx mC 2 6 0x8001),
    (0x03D0860080010000, .barw mC 2 6 0x8001),
    (0x03B0860000000000, .bara mC 6 2)] = true := by decide

theorem test_decode_memory : decodes [
    (0x0401831200FFFF0D, .ld mC .b false 6 ⟨3, 4, 2, 0xFFFF0⟩ gn),
    (0x0401831240FFFF0D, .ld mC .h false 6 ⟨3, 4, 2, 0xFFFF0⟩ gn),
    (0x0401831280FFFF0D, .ld mC .w false 6 ⟨3, 4, 2, 0xFFFF0⟩ gn),
    (0x04018312C0FFFF0D, .ld mC .d false 6 ⟨3, 4, 2, 0xFFFF0⟩ gn),
    (0x4401831241FFFF00, .ld mL .h true 6 ⟨3, 4, 2, 0xFFFF0⟩ ng),
    (0x84118312C0FFFF00, .st mS .d 6 ⟨3, 4, 2, 0xFFFF0⟩ ng),
    (0x0421831289FFFF00, .ldc mC .w true .core 6 ⟨3, 4, 2, 0xFFFF0⟩ ng),
    (0x0421831291FFFF00, .ldc mC .w true .clu 6 ⟨3, 4, 2, 0xFFFF0⟩ ng),
    (0x0421831299FFFF00, .ldc mC .w true .dev 6 ⟨3, 4, 2, 0xFFFF0⟩ ng),
    (0x04218312A1FFFF00, .ldc mC .w true .sys 6 ⟨3, 4, 2, 0xFFFF0⟩ ng),
    (0x04318312E0FFFF00, .lda mC .d false .sys 6 ⟨3, 4, 2, 0xFFFF0⟩ ng),
    (0x0441831210FFFF00, .stl mC .b .clu 6 ⟨3, 4, 2, 0xFFFF0⟩ ng),
    (0x0457431240FFFF00, .vld mC 1 29 ⟨3, 4, 2, 0xFFFF0⟩ ng),
    (0x04678312C0FFFF00, .vst mC 3 30 ⟨3, 4, 2, 0xFFFF0⟩ ng),
    (0x0471431241FFFF0D, .vldx mC .h true 5 ⟨3, 4, 2, 0xFFFF0⟩ gn),
    (0x0487C31280FFFF00, .vstx mC .w 31 ⟨3, 4, 2, 0xFFFF0⟩ ng),
    (0x4490031281FFFF00, .pref mL true 2 ⟨3, 4, 2, 0xFFFF0⟩ ng),
    (0x44A1545400010000, .probe mL .r 5 20 21 ng),
    (0x44A1545400020000, .probe mL .w 5 20 21 ng),
    (0x44A1545400030000, .probe mL .rw 5 20 21 ng),
    (0x44B1545400000000, .unpin mL 5 20 21 ng),
    (0x84C0000000020000, .phase mS .clu),
    (0x04D0000000040000, .acq mC .sys),
    (0x44E0000000030000, .rel mL .dev),
    (0x04F0000000030003, .drain mC false 3),
    (0x84F0000000040002, .drain mS true 2)] = true := by decide

theorem test_decode_atomics_snapshots_steps : decodes [
    (0x4601482400100000, .amo mL .add true 5 8 9),
    (0x4601482400110000, .amo mL .and true 5 8 9),
    (0x4601482400120000, .amo mL .or true 5 8 9),
    (0x4601482400130000, .amo mL .xor true 5 8 9),
    (0x4601482400140000, .amo mL .min true 5 8 9),
    (0x4601482400150000, .amo mL .max true 5 8 9),
    (0x4601482400160000, .amo mL .minu true 5 8 9),
    (0x4601482400170000, .amo mL .maxu true 5 8 9),
    (0x4601482400180000, .amo mL .swap true 5 8 9),
    (0x4601482400090000, .amo mL .fadd false 5 8 9),
    (0x46014824000A0000, .amo mL .fadd2 false 5 8 9),
    (0x0611881050000000, .cas mC 6 8 4 5),
    (0x46224800A000FFF0, .casc mL 9 8 0 10 0xFFF),
    (0x06374809E00A003D, .vamo mC .fadd2 29 8 2 3 30 gn),
    (0x4645D45560000000, .snopen mL 23 20 21 22),
    (0x4650170000000000, .snacc mL 23),
    (0x4660180000000000, .snrej mL 24),
    (0x0671460000000000, .snq mC 5 6),
    (0x4680090000000000, .vote mL 9),
    (0x4691800000000000, .vwait mL 6),
    (0x06A0000000000080, .vflag mC false true),
    (0x06A0000000000002, .vflag mC true false),
    (0x46B1C6000000003F, .rand mL 7 6 63),
    (0x86C1400000000003, .gen mS 5 3)] = true := by decide

theorem test_decode_commands_and_system : decodes [
    (0x0701010830060000, .pushM mC 3 1 2 3 4),
    (0x4700010800030000, .pushC mL 1 1 2 0 0),
    (0x4710420C00000000, .spawn mL 1 2 3),
    (0x4710420C00010000, .spawnW mL 1 2 3),
    (0x4720020000000000, .tsig mL 2),
    (0x0731940000270000, .coll mC 6 20 (some 7)),
    (0x0731940000000000, .coll mC 6 20 none),
    (0x0781800001230000, .mfsr mC 6 0x123),
    (0x0790060001230000, .mtsr mC 0x123 6),
    (0x07A0000000008001, .trap .C 0x8001),
    (0xC7B0000000000000, .eret mA),
    (0x87C0000000008001, .brk .S 0x8001),
    (0xC7D0000000000000, .xinvAll mA),
    (0xC7D0050000010000, .xinvX mA 5),
    (0xC7D0051800020000, .xinvVa mA 5 6),
    (0xC7D0001800030000, .xinvG mA 6),
    (0xC7E0051800000000, .ptmc mA 5 6),
    (0xC7E0000000010000, .ptmcSync mA),
    (0xC7F1540000000000, .cfgd mA 5 20),
    (0x47F0000000010000, .isync mL),
    (0xC7F0000000020000, .halt mA)] = true := by decide

theorem test_decode_vector_arithmetic : decodes [
    (0x080E87C02018000D, .vadd mC .f16 .rtz true 29 1 30 gn),
    (0x081E87C02028000D, .vsub mC .f16 .rdn true 29 1 30 gn),
    (0x082E87C02038000D, .vmul mC .f16 .rup true 29 1 30 gn),
    (0x083E87DF10400000, .vfma mC .bf16 .sr false 29 1 30 31 ng),
    (0x084E87DF10400000, .vfms mC .bf16 .sr false 29 1 30 31 ng),
    (0x085E87DF10400000, .vfnma mC .bf16 .sr false 29 1 30 31 ng),
    (0x086E8400A0080000, .vneg mC .i8 true 29 1 ng),
    (0x087E8400A0080000, .vabs mC .i8 true 29 1 ng),
    (0x088E87C0C0000000, .vmin mC .i32 29 1 30 ng),
    (0x089E87C0C0000000, .vmax mC .i32 29 1 30 ng),
    (0x08AE840000380000, .vrcp mC .f32 .rup true 29 1 ng),
    (0x08BE840000380000, .vrsq mC .f32 .rup true 29 1 ng),
    (0x08CE840000380000, .vsqrt mC .f32 .rup true 29 1 ng),
    (0x08DE87C000100000, .vdiv mC .f32 .rtz false 29 1 30 ng),
    (0x08EE840020080000, .vexp2 mC .f16 true 29 1 ng),
    (0x08FE840010000000, .vlog2 mC .bf16 29 1 ng),
    (0x090E840010000000, .vtanh mC .bf16 29 1 ng),
    (0x0A3E87DFA0000000, .vclamp mC .i8 29 1 30 31 ng),
    (0x0910886020000110, .vcmp mC .ne true .f16 1 2 3 ng),
    (0x09108860C0000080, .vcmp mC .gtu false .i32 1 2 3 ng),
    (0x092E87C700000000, .vsel mC 29 1 30 7 ng)] = true := by decide

theorem test_decode_vector_movement : decodes [
    (0x093E87C00000000D, .vand mC 29 1 30 gn),
    (0x094E87C00000000D, .vor mC 29 1 30 gn),
    (0x095E87C00000000D, .vxor mC 29 1 30 gn),
    (0x096E87C00000000D, .vshl mC 29 1 30 gn),
    (0x097E87C00000000D, .vshr mC 29 1 30 gn),
    (0x098E87C00000000D, .vsar mC 29 1 30 gn),
    (0x09FE840000000000, .vmov mC 29 1 ng),
    (0x0A80BE00000003F0, .vshlImmediate mC 2 31 63 ng),
    (0x0A90BE00000003F0, .vshrImmediate mC 2 31 63 ng),
    (0x0AA0BE00000003F0, .vsarImmediate mC 2 31 63 ng),
    (0x0993880010400010, .vcvt mC true .bf16 .f32 .sr false 7 2 ng),
    (0x09929000C0100000, .vcvt mC false .i32 .f32 .rtz false 5 4 ng),
    (0x09C0880061000010, .vscl mC .mxe5m2 .bf16 1 2 1 ng),
    (0x09A2846090200070, .vpack mC .k4 .f32 .rdn false 5 1 3 7 ng),
    (0x09BE846015280010, .vunpk mC .bf16 .mxe4m3 .rdn true 29 1 3 1 ng),
    (0x09D2980001100020, .vred mC .max .f32 .bf16 .rtz false 5 6 ng),
    (0x09D29800CC080000, .vred mC .add .i32 .i32 .rne true 5 6 ng),
    (0x09EE87DFCA000000, .vdot mC .i32 .i8 29 1 30 31 ng),
    (0x4AB0C03880000000, .vbc mL .bf16 3 7 ng),
    (0x0AB0CE0500100FF0, .vbcElement mC .i8 3 7 255 ng),
    (0x8ACC8806001003F0, .vext mS true .i32 50 4 63 ng),
    (0x0AD0C191000007F0, .vins mC .f16 3 50 127 ng),
    (0x0AE0862000080010, .vslideDn mC 2 3 4 0x8001 ng),
    (0x0AE0862000100010, .vslideUp mC 2 3 4 1 ng),
    (0x0AF24020000FFFF0, .viota mC 9 4 0xFFFF ng),
    (0x0AF2402000100013, .viotaPc mC 9 4 1 ⟨false, 3⟩),
    (0x0A0E87DF00000000, .vperm mC 29 1 30 31 ng),
    (0x0A1418E010000010, .vzip mC true .bf16 8 6 7 ng),
    (0x0A2418E030000000, .vuzp mC false .e4m3 8 6 7 ng),
    (0x4B01C030000003F0, .vrand mL 7 6 63 ng)] = true := by decide

theorem test_decode_safe : isWord (decodeWords 0x02A0000000000600 (some 0x0FE0000000000003)) (.safe mC 0x30 3) = true := by decide

theorem test_decode_matrix_commands : ([
    (0xFE8D000000000000, .mnop ⟨true, 31, 2, true, 3, 1⟩),
    (0xFE8D07E7B5000000, .mma ⟨true, 31, 2, true, 3, 1⟩ true 15 3 13 5 false true false),
    (0x0000044096800000, .mma noWs false 2 0 4 5 true false true),
    (0xFE8D0B4000000000, .mzr ⟨true, 31, 2, true, 3, 1⟩ 6 true false),
    (0xFE8D0F3B00000000, .mld ⟨true, 31, 2, true, 3, 1⟩ 6 false true 13 true),
    (0xFE8D1363EA000000, .mdr ⟨true, 31, 2, true, 3, 1⟩ 6 12 .rup true 13 false true),
    (0xFE8D148000000000, .mcfgRedundant ⟨true, 31, 2, true, 3, 1⟩ true),
    (0xFE8D15D800000000, .mcfgLoadFormat ⟨true, 31, 2, true, 3, 1⟩ 13 true)] : List (Word × Instr)).all
    (fun e => isWord (decodeMatrix e.1) e.2) = true := by decide

theorem test_decode_copy_commands : ([
    ([0xFE8D000000000000], .cnop ⟨true, 31, 2, true, 3, 1⟩),
    ([0xFE8D06001DF0001C, 0xFF00000000000123, 0xFF80000000000001, 0xFFFFFFFF001FFFF8], .cpy ⟨true, 31, 2, true, 3, 1⟩ 2 (.addr 0x100000000000123) (.addr 0x180000000000001) ⟨true, true, 47, 0x10001⟩ 0xFFFFFF 0x3FFFF),
    ([0x000004F4A0000000, 0xFF00000000000000, 0xFF00000000000000, 0xFF00001000000000], .cpy noWs 0 (.handle 13 true) (.handle 2 false) noOpts 16 0),
    ([0x000008435DF00018, 0xFF00000000000800, 0xFF00000000000000, 0xFF00080000000000], .cpyd noWs 0x100000000000800 (.handle 13 false) ⟨true, true, 47, 0x10001⟩ 0x800),
    ([0x00000C435DF00018, 0xFF00000000000800, 0xFF00000000000000, 0xFFFFFFBFFFFE0000], .gath noWs 0x100000000000800 (.handle 13 false) ⟨true, true, 47, 0x10001⟩ 0xFFFF 11 0x7FFFF),
    ([0x000010B43DF00014, 0xFF00000000000000, 0xFF00000000000800, 0xFF000130000A0000], .scat noWs (.handle 13 true) 0x100000000000800 ⟨true, true, 47, 0x10001⟩ 1 3 5),
    ([0x000014435DF00010, 0xFF00000089ABCDEF, 0xFF00000000000000, 0xFF00080001234567], .fill noWs (.handle 13 false) ⟨true, true, 47, 0x10001⟩ 0x800 0x0123456789ABCDEF),
    ([0x000018B41DF00014, 0xFF00000000000000, 0xFF00000000000800, 0xFF000800A7FC0008], .redc noWs (.handle 13 false) 0x100000000000800 ⟨true, true, 47, 0x10001⟩ 0x800 10 false 255 0x8001),
    ([0xFE8D1C0005F00010, 0xFF00800000000001], .bartx ⟨true, 31, 2, true, 3, 1⟩ 47 0x10001 0x800000000001)] : List (List Word × Instr)).all
    (fun e => isWord (decodeCopy e.1) e.2) = true := by decide

/-! ## Ill-formed terms -/

theorem test_ill_scalar :
    (Instr.nop mC ⟨true, 0⟩).check = some .guard ∧
    (Instr.add mC 56 1 2 ng).check = some .peekDest ∧ (Instr.add mC 1 1 2 ⟨true, 0⟩).check = some .guard ∧
    (Instr.popc mC 63 1 ng).check = some .peekDest ∧ (Instr.sext mC 56 1 0 ng).check = some .peekDest ∧
    (Instr.bfx mC 1 2 63 1 ng).check = some .range ∧ (Instr.bfi mC 1 2 3 1 63 ng).check = some .range ∧
    (Instr.bfi mC 1 2 3 0 63 ng).check = none ∧ (Instr.cset mC .eq 56 1 2 ng).check = some .peekDest ∧
    (Instr.pmovToGeneral mC 56 1 ng).check = some .peekDest ∧ (Instr.call mC 48 0).check = some .operand ∧
    (Instr.jmp mC 48 1).check = some .operand ∧ (Instr.qcfg mC 10 .L .C).check = some .range ∧
    (Instr.tokPush mC 0).check = some .range ∧ (Instr.tokPop mC 17).check = some .range ∧
    (Instr.tokQ mC 56).check = some .peekDest ∧ (Instr.semset mC 0 56 1 0).check = some .peekDest ∧
    (Instr.bara mC 56 1).check = some .peekDest ∧ (Instr.pushM mC 0 1 2 0 0).check = some .zeroField ∧
    (Instr.pushC mC 1 1 2 3 0).check = some .zeroField ∧ (Instr.pushC mC 2 1 2 3 4).check = some .zeroField ∧
    (Instr.coll mC 56 1 none).check = some .peekDest ∧ (Instr.mfsr mC 56 0).check = some .peekDest := by decide

theorem test_ill_memory :
    (Instr.ld mC .d true 1 base0 ng).check = some .operand ∧ (Instr.ld mC .d false 56 base0 ng).check = some .peekDest ∧
    (Instr.lda mC .d true .dev 1 base0 ng).check = some .operand ∧ (Instr.vld mC 0 30 base0 ng).check = some .peekDest ∧
    (Instr.vldx mC .d false 1 vbase0 ng).check = some .operand ∧ (Instr.vldx mC .w true 1 vbase0 ng).check = some .operand ∧
    (Instr.vstx mC .d 1 vbase0 ng).check = some .operand ∧ (Instr.amo mC .fadd true 1 2 3).check = some .operand ∧
    (Instr.cas mC 56 1 2 3).check = some .peekDest ∧ (Instr.vamo mC .add 30 1 2 0 3 ng).check = some .peekDest ∧
    (Instr.snopen mC 56 1 2 3).check = some .peekDest := by decide

theorem test_ill_vector :
    (Instr.vadd mC .mxf4 .rne false 1 2 3 ng).check = some .dtype ∧ (Instr.vadd mC .i32 .rtz false 1 2 3 ng).check = some .zeroField ∧
    (Instr.vadd mC .r11 .rne false 1 2 3 ng).check = none ∧ (Instr.vfma mC .i8 .rne false 1 2 3 4 ng).check = some .dtype ∧
    (Instr.vneg mC .f32 true 1 2 ng).check = some .zeroField ∧ (Instr.vcmp mC .ltu false .f16 1 2 3 ng).check = some .cond ∧
    (Instr.vcmp mC .lt true .i32 1 2 3 ng).check = some .operand ∧ (Instr.vsel mC 31 1 2 3 ng).check = some .peekDest ∧
    (Instr.vcvt mC false .f32 .f32 .rne false 1 2 ng).check = some .dtype ∧
    (Instr.vcvt mC true .f32 .i32 .rne false 1 2 ng).check = some .zeroField ∧
    (Instr.vcvt mC false .i32 .f32 .rne true 1 2 ng).check = some .zeroField ∧
    (Instr.vcvt mC false .f16 .f32 .rne false 28 2 ng).check = some .mergeQueue ∧
    (Instr.vscl mC .e4m3 .f32 1 2 0 ng).check = some .dtype ∧ (Instr.vscl mC .mxe4m3 .f32 1 2 4 ng).check = some .range ∧
    (Instr.vpack mC .s4 .i32 .rne false 1 2 3 0 ng).check = some .dtype ∧
    (Instr.vpack mC .e4m3 .f32 .rne false 1 2 3 0 ng).check = some .zeroField ∧
    (Instr.vunpk mC .f32 .i8 .rne false 1 2 3 0 ng).check = some .zeroField ∧
    (Instr.vred mC .add .f32 .f32 .sr false 1 2 ng).check = some .rm ∧
    (Instr.vred mC .min .i32 .i32 .rne true 1 2 ng).check = some .zeroField ∧
    (Instr.vred mC .add .bf16 .f32 .rne false 1 2 ng).check = some .dtype ∧
    (Instr.vdot mC .f32 .mxe4m3 1 2 3 4 ng).check = some .dtype ∧ (Instr.vdot mC .f32 .i8 1 2 3 4 ng).check = some .dtype ∧
    (Instr.vext mC true .f32 1 2 0 ng).check = some .operand ∧ (Instr.vext mC false .i32 1 2 64 ng).check = some .range ∧
    (Instr.vins mC .i8 28 1 0 ng).check = some .mergeQueue ∧ (Instr.vbcElement mC .i8 1 2 256 ng).check = some .range ∧
    (Instr.vzip mC false .mxf4 1 2 3 ng).check = some .dtype := by decide

theorem test_ill_commands :
    (Instr.mnop ⟨true, 0, 3, false, 0, 0⟩).check = some .zeroField ∧ (Instr.mnop ⟨false, 1, 0, false, 0, 0⟩).check = some .zeroField ∧
    (Instr.mnop ⟨false, 0, 0, false, 0, 1⟩).check = some .zeroField ∧
    (Instr.mma noWs false 0 1 2 0 true false false).check = some .zeroField ∧
    (Instr.cpy noWs 3 (.addr 0) (.addr 0) noOpts 1 0).check = some .command ∧
    (Instr.cpy noWs 0 (.addr 0) (.addr 0) noOpts 1 1).check = some .zeroField ∧
    (Instr.fill noWs (.handle 0 true) noOpts 8 0).check = some .zeroField ∧
    (Instr.redc noWs (.addr 0) 0 ⟨false, false, 1, 0⟩ 4 0 false 0 0).check = some .zeroField := by decide

/-- Words that are no instruction (R238 to R240): opcode 0, a reserved opcode, a lone extension word, an unassigned selector,
a nonzero zero field, the guard ?!p0, and a reserved condition. -/
theorem test_words_refused :
    ([0x0000000000000000, 0x0500000000000000, 0x0FE0000000000003, 0x0020000000020000, 0x0020000000000010, 0x0010000000000008,
      0x01100000000A0000] : List Word).all (fun w => (decodeWords w none).toBool == false) = true := by decide

/-! ## Steps -/

/-- The value that the acting role's general register n holds after an instruction. -/
def gAfter (i : Instr) (s : State) (n : Nat) : Option Word :=
  match exec i s with
  | .next t => (tabGet (getRole t s.cur.1 s.cur.2).g n).map (·.val)
  | _ => none

/-- R255, R256: products, division's corners, shift counts. -/
theorem test_scalar_corners :
    gAfter (.mulh mA 4 2 2 ng) (worker three) 4 = some 0 ∧
    gAfter (.mulhu mA 4 2 2 ng) (worker three) 4 = some 0xFFFFFFFFFFFFFFFC ∧
    gAfter (.div mA 4 1 0 ng) (worker three) 4 = some 0xFFFFFFFFFFFFFFFF ∧
    gAfter (.rem mA 4 2 1 ng) (worker three) 4 = some 0xFFFFFFFFFFFFFFFE ∧
    gAfter (.remu mA 4 1 0 ng) (worker three) 4 = some 7 ∧
    gAfter (.sar mA 4 2 1 ng) (worker three) 4 = some 0xFFFFFFFFFFFFFFFF ∧
    gAfter (.rotr mA 4 1 1 ng) (worker three) 4 = some 0x0E00000000000000 ∧
    gAfter (.andn mA 4 2 1 ng) (worker three) 4 = some 0xFFFFFFFFFFFFFFF8 ∧
    gAfter (.min mA 4 1 2 ng) (worker three) 4 = some 0xFFFFFFFFFFFFFFFE ∧
    gAfter (.minu mA 4 1 2 ng) (worker three) 4 = some 7 := by decide

/-- R257, R258, R261, R262. -/
theorem test_scalar_forms :
    gAfter (.clz mA 4 1 ng) (worker three) 4 = some 61 ∧ gAfter (.ctz mA 4 3 ng) (worker three) 4 = some 3 ∧
    gAfter (.bfx mA 4 1 1 1 ng) (worker three) 4 = some 3 ∧ gAfter (.sext mA 4 1 2 ng) (worker three) 4 = some 0xFFFFFFFFFFFFFFFF ∧
    gAfter (.bfi mA 4 1 2 8 3 ng) (worker three) 4 = some 0xFFFFFFFFFFFFF7FE ∧
    gAfter (.li mA 4 0x80000000 ng) (worker three) 4 = some 0xFFFFFFFF80000000 ∧
    gAfter (.lih mA 4 1 0x80000000 ng) (worker three) 4 = some 0x8000000000000007 ∧
    gAfter (.addi mA 4 1 0xFFFFFFFF ng) (worker three) 4 = some 6 ∧
    gAfter (.cset mA .ltu 4 2 1 ng) (worker three) 4 = some 0 ∧ gAfter (.cset mA .lt 4 2 1 ng) (worker three) 4 = some 1 ∧
    gAfter (.lea mA 4 ⟨1, 3, 3, 0xFFFFF⟩ ng) (worker three) 4 = some 70 := by decide



/-! States that one witness each uses. -/

def probing := { worker three with probes := [⟨0, 7, .role 0 .C, none⟩] }
def pinnedLine := { worker three with pins := [⟨0, none, 7, 8, 0⟩] }
def busyAtom := { atomOf (.casc 0 9 5 1 2) with reply := some .busy }
def poisonedLoad := { loading (loadTo (.g 4) 8 none part8) with poison := [2 ^ 34] }
def peerPart := { part8 with tgt := { carveTarget 0 0 with peer := some 3 } }
def gotPart := { part8 with got := some [1, 2, 3, 4, 5, 6, 7, 8] }
def peerWrite := { write8 .slice with w := ⟨{ carveTarget 0 0 with peer := some 3 }, 1, 7⟩ }
def doneWrite := { write8 .slice with performed := true }
def preciseWrite := { write8 .slice with performed := true, precise := true }
def refusedWrite := { write8 .slice with performed := true, precise := true, refused := some 64 }
def missing := { Slice.reset with misses := 2 ^ 20, fbits := [4] }
def lonelyKs := { Keystone.reset with cfg := 0x8000000000000000 }
def twoVotes := { openKs with votes := 2 }
def childVote := { leafKs .open_ with votes := 1, childVotes := [(0, 2)] }
def timedOut := { leafKs .open_ with timer := true }
def lastAck := { leafKs .held with dackw := 1, next := 8 }
def owing := { leafKs .held with owed := true, next := 8 }
def rootHeld := { openKs with state := .held, owed := true, next := 8 }
def repairDue := { openKs with abw := [(2, 6)] }
def repairDone := { openKs with abw := [(2, 6)], repaired := [(2, [7, 6, 5, 4, 3, 2, 1, 0])] }
def levelTwo := { task0 0 .ready with level := 2 }
def levelThree := { task0 0 .ready with level := 3 }
def postedOut := { posted 0 with out := [6] }
def endedWriting := modCore (ended (task0 0 .running)) 0 fun k => { k with writes := [write8 .slice] }
def heldLine := setReg (linked 11 2 lined) (rMdreg (ctrlOf 0x280)) 0x2000000000000000
def fullReq : PeerReq := ⟨.write (BitVec.ofNat 44 (2 ^ 40)) 0xFF 9, 0, 7⟩
def blockReq : PeerReq := ⟨.block (BitVec.ofNat 44 0x800) 7, 0, 7⟩
def overdueTurn := stepping [] (.event (.overdue 0 .C))
def prepWord (i : Instr) : Word := (encodeCommand i).headD 0
def blockLined := { State.reset with deck := (List.range 16).map fun i => (16 + i, lineOf []) }

theorem witness_twoSourceWordsResult :
    ∃ x, alu3Of (worker three) (Instr.sub mA (1 : G6) (2 : G6) (3 : G6) ng) = some x ∧ ready (worker three) (Instr.sub
    mA (1 : G6) (2 : G6) (3 : G6) ng) x.m 1 = true ∧ guardHolds (worker three) x.g = true ∧ usable (worker three)
    [Src.g x.ra, Src.g x.rb] (Dst.g x.rd) = true := by
  exact ⟨_, rfl, rfl, rfl, rfl⟩

theorem witness_oneSourceWordsResult :
    ∃ x, alu2Of (Instr.popc mA (0 : G6) (3 : G6) ng) = some x ∧ ready (worker three) (Instr.popc mA (0 : G6) (3 : G6)
    ng) x.m 1 = true ∧ guardHolds (worker three) x.g = true ∧ usable (worker three) [Src.g x.ra] (Dst.g x.rd) = true := by
  exact ⟨_, rfl, rfl, rfl, rfl⟩

theorem witness_predicateWordsResult :
    (ready (worker three) (Instr.cmp mA Cond.lt (1 : P3) (2 : G6) (3 : G6) ng) mA 1 = true ∧ guardHolds (worker three)
    ng = true ∧ usable (worker three) [Src.g (2 : G6), Src.g (3 : G6)] Dst.none = true) ∧
    (∃ x, predOf (Instr.pand mA (1 : P3) (2 : P3) (3 : P3) ng) = some x ∧ ready (worker three) (Instr.pand mA (1 : P3)
    (2 : P3) (3 : P3) ng) x.m 1 = true ∧ guardHolds (worker three) x.g = true) ∧
    (ready (worker three) (Instr.pmovFromGeneral mA (1 : P3) (2 : G6) ng) mA 1 = true ∧ guardHolds (worker three) ng =
    true ∧ usable (worker three) [Src.g (2 : G6)] Dst.none = true) ∧
    (ready (worker three) (Instr.pmovToGeneral mA (2 : G6) (0 : P3) ng) mA 1 = true ∧ guardHolds (worker three) ng =
    true ∧ usable (worker three) [] (Dst.g (2 : G6)) = true) ∧
    (ready (worker three) (Instr.li mA (2 : G6) 2147483648#32 ng) mA 1 = true ∧ guardHolds (worker three) ng = true ∧
    usable (worker three) [] (Dst.g (2 : G6)) = true) :=
  ⟨by decide,
    by exact ⟨_, rfl, rfl, rfl⟩,
    by decide,
    by decide,
    by decide⟩

theorem witness_bitCounts :
    ((0 : Word) = (0 : Word)) ∧
    ((9223372036854775808 : Word) ≠ (0 : Word)) ∧
    ((1 : Word) ≠ (0 : Word)) :=
  ⟨by decide,
    by decide,
    by decide⟩

theorem witness_branchesGoWhereTheySay :
    (ready (worker three) (Instr.bra mA 4294967295#32) mA 1 = true) ∧
    ((Instr.br mA (3 : G6) = Instr.br mA (3 : G6) ∨ Instr.br mA (3 : G6) = Instr.ret mA (3 : G6)) ∧ ready (worker
    three) (Instr.br mA (3 : G6)) mA 1 = true ∧ usable (worker three) [Src.g (3 : G6)] Dst.none = true ∧ BitVec.toNat
    (src (worker three) (worker three) (3 : G6)).snd.val % 8 = 0) ∧
    ((Instr.ret mA (3 : G6) = Instr.br mA (3 : G6) ∨ Instr.ret mA (3 : G6) = Instr.ret mA (3 : G6)) ∧ ready (worker
    three) (Instr.ret mA (3 : G6)) mA 1 = true ∧ usable (worker three) [Src.g (3 : G6)] Dst.none = true ∧ BitVec.toNat
    (src (worker three) (worker three) (3 : G6)).snd.val % 8 = 0) ∧
    (ready (worker three) (Instr.brc mA Cond.ge (2 : G6) (1 : G6) 5#32) mA 1 = true ∧ usable (worker three) [Src.g (2
    : G6), Src.g (1 : G6)] Dst.none = true) ∧
    (ready (worker three) (Instr.brq mA true 0#3 5#32) mA 1 = true) ∧
    (ready (worker three) (Instr.call mA (0 : G6) 5#32) mA 1 = true ∧ usable (worker three) [] (Dst.g (0 : G6)) =
    true) :=
  ⟨by decide,
    by decide,
    by decide,
    by decide,
    by decide,
    by decide⟩

theorem witness_branchesGoWhereTheySay_2 :
    ready (worker three) (Instr.jmp mA (3 : G6) (3 : G6)) mA 1 = true ∧ usable (worker three) [Src.g (3 : G6)] (Dst.g
    (3 : G6)) = true ∧ BitVec.toNat (src (worker three) (worker three) (3 : G6)).snd.val % 8 = 0 := by
  decide

theorem witness_loopCounters :
    (ready (worker three) (Instr.loop mA 3#2 5#32) mA 1 = true) ∧
    (ready (worker three) (Instr.lrec mA 3#2 (1 : G6) 4294967295#32) mA 1 = true ∧ usable (worker three) [Src.g (1 :
    G6)] Dst.none = true) :=
  ⟨by decide,
    by decide⟩

theorem witness_rolesEndMarkAndWait :
    (ready (worker three) (Instr.fin (Mark.mk RoleTag.A false true)) (Mark.mk (Mark.mk RoleTag.A false true).tag
    (Mark.mk RoleTag.A false true).pb false) 1 = true ∧ isSystem (worker three).cur.fst = false ∧ trapPending (getRole
    (worker three) (worker three).cur.fst (worker three).cur.snd) = false ∧ (getRole (worker three) (worker
    three).cur.fst (worker three).cur.snd).loads = [] ∧ ((Mark.mk RoleTag.A false true).pa = true → pushReady (worker
    three) (worker three).cur.fst (worker three).cur.snd = true ∧ downCount (Machine.core (worker three) (worker
    three).cur.fst) (worker three).cur.snd < 16)) ∧
    (ready (worker three) (Instr.safe mA 2#47 0#28) mA 2 = true ∧ unbindsAwaited (getRole (worker three) (worker
    three).cur.fst (worker three).cur.snd) 2#47 0#28 = false) ∧
    (ready (worker three) (Instr.wait mA (1 : G6) 0#32) mA 1 = true ∧ usable (worker three) [Src.g (1 : G6)] Dst.none
    = true) ∧
    (ready (worker three) (Instr.wait mA (2 : G6) 0#32) mA 1 = true ∧ usable (worker three) [Src.g (2 : G6)] Dst.none
    = true) ∧
    (roleExists (standing (worker three) (Block.waiting 7#17)) 0 RoleId.C = true ∧ (getRole (standing (worker three)
    (Block.waiting 7#17)) 0 RoleId.C).block = some (Block.waiting 7#17)) ∧
    (ready (worker three) (Instr.nop mA ng) mA 1 = true) :=
  ⟨by decide,
    by decide,
    by decide,
    by decide,
    by decide,
    by decide⟩

theorem witness_queueAndTokenWords :
    (ready (worker three) (Instr.qcfg mA 9#4 RoleId.L RoleId.S) mA 1 = true ∧ qLen (Machine.core (worker three)
    (worker three).cur.fst) (BitVec.toNat 9#4) = 0) ∧
    (ready withTokens (Instr.tokPush mA 15#5) mA 1 = true ∧ isSystem withTokens.cur.fst = false ∧ pushReady withTokens
    withTokens.cur.fst withTokens.cur.snd = true ∧ downCount (Machine.core withTokens withTokens.cur.fst)
    withTokens.cur.snd + BitVec.toNat 15#5 ≤ 16) ∧
    (ready withTokens (Instr.tokPop (Mark.mk RoleTag.A true false) 1#5) (Mark.mk RoleTag.A true false) 1 = true ∧
    isSystem withTokens.cur.fst = false ∧ ownPop withTokens withTokens.cur.fst withTokens.cur.snd (Mark.mk RoleTag.A
    true false) + BitVec.toNat 1#5 ≤ upCount (Machine.core withTokens withTokens.cur.fst) withTokens.cur.snd ∧
    acqReady withTokens withTokens.cur.fst withTokens.cur.snd Scope.core = true) ∧
    (ready withTokens (Instr.tokQ (Mark.mk RoleTag.A true false) (3 : G6)) (Mark.mk RoleTag.A true false) 1 = true ∧
    isSystem withTokens.cur.fst = false ∧ usable withTokens [] (Dst.g (3 : G6)) = true) :=
  ⟨by decide,
    by decide,
    by decide,
    by decide⟩

theorem witness_handleWords :
    (ready (worker descRegs) (Instr.cbinit mA 3#4 (1 : G6) (2 : G6)) mA 1 = true ∧ usable (worker descRegs) [Src.g (1
    : G6), Src.g (2 : G6)] Dst.none = true ∧ cbReason (worker descRegs) (worker descRegs).cur.fst (BitVec.toNat 3#4)
    (src (worker descRegs) (worker descRegs) (1 : G6)).snd.val (src (worker descRegs) (src (worker descRegs) (worker
    descRegs) (1 : G6)).fst (2 : G6)).snd.val = none) ∧
    (ready (withRing 3 descRegs) (Instr.cbwait mA 3#4 (1 : G6) (3 : G6) 1#16) mA 1 = true ∧ usable (withRing 3
    descRegs) [Src.g (3 : G6)] (Dst.g (1 : G6)) = true ∧ descInScratch (Machine.core (withRing 3 descRegs) (withRing 3
    descRegs).cur.fst) (handle (withRing 3 descRegs) 3#4) = true ∧ (BitVec.toNat (src (withRing 3 descRegs) (withRing
    3 descRegs) (3 : G6)).snd.val + BitVec.toNat 1#16) % 2 ^ 64 ≤ (handle (withRing 3 descRegs) 3#4).slots ∧
    (BitVec.toNat (src (withRing 3 descRegs) (withRing 3 descRegs) (3 : G6)).snd.val + BitVec.toNat 1#16) % 2 ^ 64 ≤
    (handle (withRing 3 descRegs) 3#4).filled) ∧
    (ready (withRing 3 descRegs) (Instr.cbres mA 3#4 (1 : G6) (3 : G6) 3#16) mA 1 = true ∧ usable (withRing 3
    descRegs) [Src.g (3 : G6)] (Dst.g (1 : G6)) = true ∧ descInScratch (Machine.core (withRing 3 descRegs) (withRing 3
    descRegs).cur.fst) (handle (withRing 3 descRegs) 3#4) = true ∧ (BitVec.toNat (src (withRing 3 descRegs) (withRing
    3 descRegs) (3 : G6)).snd.val + BitVec.toNat 3#16) % 2 ^ 64 ≤ (handle (withRing 3 descRegs) 3#4).slots ∧
    (BitVec.toNat (src (withRing 3 descRegs) (withRing 3 descRegs) (3 : G6)).snd.val + BitVec.toNat 3#16) % 2 ^ 64 ≤
    (handle (withRing 3 descRegs) 3#4).slots - (handle (withRing 3 descRegs) 3#4).filled) ∧
    (ready (withRing 3 descRegs) (Instr.cbpush mA 3#4 (3 : G6) 3#16) mA 1 = true ∧ usable (withRing 3 descRegs) [Src.g
    (3 : G6)] Dst.none = true ∧ descInScratch (Machine.core (withRing 3 descRegs) (withRing 3 descRegs).cur.fst)
    (handle (withRing 3 descRegs) 3#4) = true ∧ (BitVec.toNat (src (withRing 3 descRegs) (withRing 3 descRegs) (3 :
    G6)).snd.val + BitVec.toNat 3#16) % 2 ^ 64 ≤ (handle (withRing 3 descRegs) 3#4).slots - (handle (withRing 3
    descRegs) 3#4).filled) ∧
    (ready (withRing 3 descRegs) (Instr.cbpop mA 3#4 (3 : G6) 1#16) mA 1 = true ∧ usable (withRing 3 descRegs) [Src.g
    (3 : G6)] Dst.none = true ∧ descInScratch (Machine.core (withRing 3 descRegs) (withRing 3 descRegs).cur.fst)
    (handle (withRing 3 descRegs) 3#4) = true ∧ (BitVec.toNat (src (withRing 3 descRegs) (withRing 3 descRegs) (3 :
    G6)).snd.val + BitVec.toNat 1#16) % 2 ^ 64 ≤ (handle (withRing 3 descRegs) 3#4).filled) :=
  ⟨by decide,
    by decide,
    by decide,
    by decide,
    by decide⟩

theorem witness_semaphoreWords :
    (∃ x, semOf (Instr.semwDec mA 0#5 (3 : G6) (1 : G6) 0#16) = some x ∧ ready oneSem (Instr.semwDec mA 0#5 (3 : G6)
    (1 : G6) 0#16) x.m 1 = true ∧ usable oneSem [Src.g x.ra] (Dst.g x.rd) = true ∧ (x.rel = true → coreQuiet oneSem
    oneSem.cur.fst oneSem.cur.snd = true) ∧ (x.rel = false → semTurn oneSem oneSem.cur.fst x.i (roleNum
    oneSem.cur.snd) = true ∧ acqReady oneSem oneSem.cur.fst oneSem.cur.snd Scope.core = true) ∧ x.go (sem
    (Machine.core oneSem oneSem.cur.fst) x.i) ((BitVec.toNat (src oneSem oneSem x.ra).snd.val + x.imm.toNat) % 2 ^ 32)
    = true) ∧
    (∃ x, semOf (Instr.semsAdd mA 31#5 (3 : G6) (2 : G6) 5#16) = some x ∧ ready (worker three) (Instr.semsAdd mA 31#5
    (3 : G6) (2 : G6) 5#16) x.m 1 = true ∧ usable (worker three) [Src.g x.ra] (Dst.g x.rd) = true ∧ (x.rel = true →
    coreQuiet (worker three) (worker three).cur.fst (worker three).cur.snd = true) ∧ (x.rel = false → semTurn (worker
    three) (worker three).cur.fst x.i (roleNum (worker three).cur.snd) = true ∧ acqReady (worker three) (worker
    three).cur.fst (worker three).cur.snd Scope.core = true) ∧ x.go (sem (Machine.core (worker three) (worker
    three).cur.fst) x.i) ((BitVec.toNat (src (worker three) (worker three) x.ra).snd.val + x.imm.toNat) % 2 ^ 32) =
    true) ∧
    (∃ x, semOf (Instr.semwEq mA 31#5 (3 : G6) (0 : G6) 0#16) = some x ∧ ready (worker three) (Instr.semwEq mA 31#5 (3
    : G6) (0 : G6) 0#16) x.m 1 = true ∧ usable (worker three) [Src.g x.ra] (Dst.g x.rd) = true ∧ (x.rel = true →
    coreQuiet (worker three) (worker three).cur.fst (worker three).cur.snd = true) ∧ (x.rel = false → semTurn (worker
    three) (worker three).cur.fst x.i (roleNum (worker three).cur.snd) = true ∧ acqReady (worker three) (worker
    three).cur.fst (worker three).cur.snd Scope.core = true) ∧ x.go (sem (Machine.core (worker three) (worker
    three).cur.fst) x.i) ((BitVec.toNat (src (worker three) (worker three) x.ra).snd.val + x.imm.toNat) % 2 ^ 32) =
    true) :=
  ⟨by exact ⟨_, rfl, rfl, rfl, by decide, by decide, rfl⟩,
    by exact ⟨_, rfl, rfl, rfl, by decide, by decide, rfl⟩,
    by exact ⟨_, rfl, rfl, rfl, by decide, by decide, rfl⟩⟩

theorem witness_barrierWords :
    (ready (worker atScratch) (Instr.bari mA (1 : G6) (2 : G6) 0#16) mA 1 = true ∧ usable (worker atScratch) [Src.g (1
    : G6), Src.g (2 : G6)] Dst.none = true ∧ barLoc (worker atScratch) (worker atScratch).cur.fst (BitVec.toNat (src
    (worker atScratch) (worker atScratch) (1 : G6)).snd.val % 2 ^ 57) = Except.ok (poolBase 0 + 262144) ∧ Memory.wf
    (worker atScratch).mem = true) ∧
    (ready (worker atScratch) (Instr.bara mA (2 : G6) (1 : G6)) mA 1 = true ∧ usable (worker atScratch) [Src.g (1 :
    G6)] (Dst.g (2 : G6)) = true ∧ coreQuiet (worker atScratch) (worker atScratch).cur.fst (worker atScratch).cur.snd
    = true ∧ barLoc (worker atScratch) (worker atScratch).cur.fst (BitVec.toNat (src (worker atScratch) (worker
    atScratch) (1 : G6)).snd.val % 2 ^ 57) = Except.ok (poolBase 0 + 262144) ∧ (bits (barGet (worker atScratch)
    (poolBase 0 + 262144)).fst 63 48 = 0 ∨ bits (barGet (worker atScratch) (poolBase 0 + 262144)).fst 47 32 ≠ bits
    (barGet (worker atScratch) (poolBase 0 + 262144)).fst 63 48)) ∧
    (ready (worker atScratch) (Instr.barx mA (1 : G6) (2 : G6) 65535#16) mA 1 = true ∧ usable (worker atScratch)
    [Src.g (1 : G6), Src.g (2 : G6)] Dst.none = true ∧ barLoc (worker atScratch) (worker atScratch).cur.fst
    (BitVec.toNat (src (worker atScratch) (worker atScratch) (1 : G6)).snd.val % 2 ^ 57) = Except.ok (poolBase 0 +
    262144)) ∧
    (ready (worker atScratch) (Instr.barw mA (1 : G6) (2 : G6) 0#16) mA 1 = true ∧ usable (worker atScratch) [Src.g (1
    : G6), Src.g (2 : G6)] Dst.none = true ∧ barLoc (worker atScratch) (worker atScratch).cur.fst (BitVec.toNat (src
    (worker atScratch) (worker atScratch) (1 : G6)).snd.val % 2 ^ 57) = Except.ok (poolBase 0 + 262144) ∧ bit (barGet
    (worker atScratch) (poolBase 0 + 262144)).fst 0 ≠ decide ((BitVec.toNat (src (worker atScratch) (src (worker
    atScratch) (worker atScratch) (1 : G6)).fst (2 : G6)).snd.val + BitVec.toNat 0#16) % 2 = 1) ∧ acqReady (worker
    atScratch) (worker atScratch).cur.fst (worker atScratch).cur.snd (barScope (worker atScratch).cur.fst (poolBase 0
    + 262144)) = true) :=
  ⟨by exact ⟨by decide, by decide, rfl, by decide⟩,
    by exact ⟨by decide, by decide, by decide, rfl, by decide⟩,
    by exact ⟨by decide, by decide, rfl⟩,
    by exact ⟨by decide, by decide, rfl, by decide, by decide⟩⟩

theorem witness_pushedCommands :
    (ready (withRing 15 three) (if true = true then Instr.pushC mA 2#2 (1 : G6) (2 : G6) (3 : G6) (0 : G6) else
    Instr.pushM mA 2#2 (1 : G6) (2 : G6) (3 : G6) (0 : G6)) mA 1 = true ∧ usable (withRing 15 three) (List.map Src.g
    (List.take (BitVec.toNat 2#2 + 1) [(1 : G6), (2 : G6), (3 : G6), (0 : G6)])) Dst.none = true ∧ descInScratch
    (Machine.core (withRing 15 three) (withRing 15 three).cur.fst) (handle (withRing 15 three) (if true = true then
    15#4 else 14#4)) = true ∧ (handle (withRing 15 three) (if true = true then 15#4 else 14#4)).filled + (BitVec.toNat
    2#2 + 1) ≤ (handle (withRing 15 three) (if true = true then 15#4 else 14#4)).slots ∧ roleDrained (withRing 15
    three) (withRing 15 three).cur.fst (withRing 15 three).cur.snd = true ∧ Memory.wf (withRing 15 three).mem = true) ∧
    (ready (withRing 14 three) (if false = true then Instr.pushC mA 0#2 (1 : G6) (0 : G6) (0 : G6) (0 : G6) else
    Instr.pushM mA 0#2 (1 : G6) (0 : G6) (0 : G6) (0 : G6)) mA 1 = true ∧ usable (withRing 14 three) (List.map Src.g
    (List.take (BitVec.toNat 0#2 + 1) [(1 : G6), (0 : G6), (0 : G6), (0 : G6)])) Dst.none = true ∧ descInScratch
    (Machine.core (withRing 14 three) (withRing 14 three).cur.fst) (handle (withRing 14 three) (if false = true then
    15#4 else 14#4)) = true ∧ (handle (withRing 14 three) (if false = true then 15#4 else 14#4)).filled +
    (BitVec.toNat 0#2 + 1) ≤ (handle (withRing 14 three) (if false = true then 15#4 else 14#4)).slots ∧ roleDrained
    (withRing 14 three) (withRing 14 three).cur.fst (withRing 14 three).cur.snd = true ∧ Memory.wf (withRing 14
    three).mem = true) :=
  ⟨by decide,
    by decide⟩

theorem witness_specialRegisterReads :
    (ready (worker three) (Instr.mfsr mA (1 : G6) 1#12) mA 1 = true ∧ usable (worker three) [] (Dst.g (1 : G6)) = true
    ∧ mayRead (worker three) 1#12 = true) ∧
    (ready (system three) (Instr.mfsr mA (1 : G6) 280#12) mA 1 = true ∧ usable (system three) [] (Dst.g (1 : G6)) =
    true ∧ mayRead (system three) 280#12 = true) ∧
    (∃ w, roleRegister (worker three) 71 = some w) ∧
    (ready (worker three) (Instr.mfsr mA (1 : G6) 32#12) mA 1 = true ∧ mayRead (worker three) 32#12 = false) :=
  ⟨by decide,
    by decide,
    by exact ⟨_, rfl⟩,
    by decide⟩

theorem witness_specialRegisterWrites :
    (ready (worker three) (Instr.mtsr mA 0#12 (2 : G6)) mA 1 = true ∧ usable (worker three) [Src.g (2 : G6)] Dst.none
    = true ∧ mayWrite (worker three) 0#12 = true ∧ resetsPart (BitVec.toNat 0#12) (src (worker three) (worker three)
    (2 : G6)).snd.val = false) ∧
    (ready (system three) (Instr.mtsr mA 32#12 (2 : G6)) mA 1 = true ∧ usable (system three) [Src.g (2 : G6)] Dst.none
    = true ∧ mayWrite (system three) 32#12 = true ∧ resetsPart (BitVec.toNat 32#12) (src (system three) (system three)
    (2 : G6)).snd.val = false) ∧
    (ready (worker three) (Instr.mtsr mA 32#12 (2 : G6)) mA 1 = true ∧ mayWrite (worker three) 32#12 = false) :=
  ⟨by decide,
    by decide,
    by decide⟩

theorem witness_trapAndBreakEnterTheHandler :
    (ready trapping (Instr.trap RoleTag.C 65535#16) (Mark.mk RoleTag.C false false) 1 = true ∧ mayTrap trapping =
    true) ∧
    (ready trapping (Instr.brk RoleTag.A 0#16) (Mark.mk RoleTag.A false false) 1 = true ∧ mayTrap trapping = true ∧
    (Machine.core trapping trapping.cur.fst).dbg.brken = false) ∧
    (ready (forDebugger trapping) (Instr.brk RoleTag.A 0#16) (Mark.mk RoleTag.A false false) 1 = true ∧ (Machine.core
    (forDebugger trapping) (forDebugger trapping).cur.fst).dbg.brken = true) ∧
    (ready trapping (Instr.trap RoleTag.C 65535#16) (Mark.mk RoleTag.C false false) 1 = true ∧ mayTrap trapping =
    true) ∧
    (ready trapping (Instr.brk RoleTag.A 0#16) (Mark.mk RoleTag.A false false) 1 = true ∧ mayTrap trapping = true ∧
    (Machine.core trapping trapping.cur.fst).dbg.brken = false) :=
  ⟨by decide,
    by decide,
    by decide,
    by decide,
    by decide⟩

theorem witness_eretLeavesTheHandler :
    (ready handling (Instr.eret mA) mA 1 = true ∧ inHandler (getRole handling handling.cur.fst handling.cur.snd) =
    true ∧ (bit (getRole handling handling.cur.fst handling.cur.snd).tstat 1 = true → systemMode handling
    handling.cur.fst handling.cur.snd = true)) ∧
    (ready (worker three) (Instr.eret mA) mA 1 = true ∧ inHandler (getRole (worker three) (worker three).cur.fst
    (worker three).cur.snd) = false) :=
  ⟨by decide,
    by decide⟩

theorem witness_systemCoreWordsIllegalOnWorkers :
    (Instr.halt mA = Instr.xinvAll mA ∨ Instr.halt mA = Instr.xinvX mA (1 : G6) ∨ Instr.halt mA = Instr.xinvVa mA (1 :
    G6) (2 : G6) ∨ Instr.halt mA = Instr.xinvG mA (2 : G6) ∨ Instr.halt mA = Instr.ptmc mA (1 : G6) (2 : G6) ∨
    Instr.halt mA = Instr.ptmcSync mA ∨ Instr.halt mA = Instr.cfgd mA (1 : G6) (2 : G6) ∨ Instr.halt mA = Instr.halt
    mA) ∧ roleExists trapping trapping.cur.fst trapping.cur.snd = true ∧ isSystem trapping.cur.fst = false ∧ roleHeld
    trapping trapping.cur.fst trapping.cur.snd = false ∧ (getRole trapping trapping.cur.fst trapping.cur.snd).pushDue
    = false ∧ trapPending (getRole trapping trapping.cur.fst trapping.cur.snd) = false ∧ (getRole trapping
    trapping.cur.fst trapping.cur.snd).safecnt.toNat ≠ 4096 ∧ mayPass trapping trapping.cur.fst trapping.cur.snd 1 =
    true := by
  decide

theorem witness_translationInvalidation :
    (ready (system three) (Instr.xinvAll mA) mA 1 = true) ∧
    (ready (system three) (Instr.xinvX mA (1 : G6)) mA 1 = true ∧ usable (system three) [Src.g (1 : G6)] Dst.none =
    true) ∧
    (ready (system three) (Instr.xinvVa mA (1 : G6) (2 : G6)) mA 1 = true ∧ usable (system three) [Src.g (1 : G6),
    Src.g (2 : G6)] Dst.none = true) ∧
    (ready (system three) (Instr.xinvG mA (1 : G6)) mA 1 = true ∧ usable (system three) [Src.g (1 : G6)] Dst.none =
    true) :=
  ⟨by decide,
    by decide,
    by decide,
    by decide⟩

theorem witness_systemCoreWords :
    (ready (system three) (Instr.ptmc mA (3 : G6) (1 : G6)) mA 1 = true ∧ usable (system three) [Src.g (3 : G6), Src.g
    (1 : G6)] Dst.none = true ∧ BitVec.toNat (src (system three) (system three) (3 : G6)).snd.val < 2 ^ 44 ∧ hasMem
    (src (system three) (src (system three) (system three) (3 : G6)).fst (1 : G6)).fst (BitVec.toNat (src (system
    three) (system three) (3 : G6)).snd.val) = true ∧ BitVec.toNat (src (system three) (system three) (3 :
    G6)).snd.val % 8 = 0 ∧ entryHeld (src (system three) (src (system three) (system three) (3 : G6)).fst (1 :
    G6)).fst (BitVec.toNat (src (system three) (system three) (3 : G6)).snd.val) = false) ∧
    (ready (system three) (Instr.ptmcSync mA) mA 1 = true ∧ ptmcOpen (system three) (system three).cur.fst = false) ∧
    (ready (worker three) (Instr.isync mA) mA 1 = true ∧ stage (worker three).cur.fst (worker three).cur.snd (worker
    three) = 0 ∧ relReady (worker three) (worker three).cur.fst (worker three).cur.snd Scope.dev = true) ∧
    (ready (begun three) (Instr.isync mA) mA 1 = true ∧ stage (begun three).cur.fst (begun three).cur.snd (begun
    three) ≠ 0 ∧ relSettled (begun three) (begun three).cur.fst (begun three).cur.snd = true) ∧
    (ready (system three) (Instr.halt mA) mA 1 = true) ∧
    (0 < 4 ∧ (Machine.core woken (960 + 0)).halted = true ∧ (Machine.core woken (960 + 0)).wake = true) :=
  ⟨by decide,
    by decide,
    by decide,
    by decide,
    by decide,
    by decide⟩

theorem witness_configurationDifferences :
    (∃ t hd, ready (system three) (Instr.cfgd mA (1 : G6) (0 : G6)) mA 1 = true ∧ usable (system three) [Src.g (0 :
    G6)] (Dst.g (1 : G6)) = true ∧ BitVec.toNat (src (system three) (system three) (0 : G6)).snd.val % 2 ^ 57 % 4096 =
    0 ∧ switchBusy (system three) = false ∧ imageBytes (system three).cur.fst (system three).cur.snd (BitVec.toNat
    (src (system three) (system three) (0 : G6)).snd.val % 2 ^ 57) 64 (system three) = Except.ok (t, some hd) ∧
    (diffLen hd % 8 ≠ 0 ∨ diffLen hd < 64)) ∧
    (∃ t u hd img, ready withImage (Instr.cfgd mA (1 : G6) (0 : G6)) mA 1 = true ∧ usable withImage [Src.g (0 : G6)]
    (Dst.g (1 : G6)) = true ∧ BitVec.toNat (src withImage withImage (0 : G6)).snd.val % 2 ^ 57 % 4096 = 0 ∧ switchBusy
    withImage = false ∧ imageBytes withImage.cur.fst withImage.cur.snd (BitVec.toNat (src withImage withImage (0 :
    G6)).snd.val % 2 ^ 57) 64 withImage = Except.ok (t, some hd) ∧ diffLen hd % 8 = 0 ∧ 64 ≤ diffLen hd ∧ imageBytes
    withImage.cur.fst withImage.cur.snd (BitVec.toNat (src withImage withImage (0 : G6)).snd.val % 2 ^ 57) (diffLen hd
    + sigLen) t = Except.ok (u, some img)) :=
  ⟨by exact ⟨_, _, by decide, by decide, by decide, by decide, rfl, by decide⟩,
    by exact ⟨_, _, _, _, by decide, by decide, by decide, by decide, rfl, rfl, by decide, rfl⟩⟩

theorem witness_overdueInsteadOfTheWord :
    (atItsWord overdueWorker mA ∧ (getRole overdueWorker overdueWorker.cur.fst overdueWorker.cur.snd).safecnt.toNat =
    4096 ∧ ∀ (w : Wait), checkUse overdueWorker.cur.fst overdueWorker.cur.snd overdueWorker [Src.g (2 : G6), Src.g (3
    : G6)] (Dst.g (1 : G6)) ≠ Except.error (Stop.wait w)) ∧
    (atItsWord (withRole overdueWorker fun x => Role.mk x.pc x.fin x.walk x.safecnt x.g x.v x.p x.lc x.flags x.vgen
    x.tvec x.tpc x.tcause x.tval x.vstart x.tstat [loadTo (Dest.g 2) 8 none part8] x.block x.mid x.relBound x.relDev
    x.relSys x.pushDue x.popDone x.atSafe x.bpPass x.returning x.why) mA ∧ (Instr.add mA (1 : G6) (2 : G6) (3 : G6)
    ng).check = none ∧ (isSystem (withRole overdueWorker fun x => Role.mk x.pc x.fin x.walk x.safecnt x.g x.v x.p x.lc
    x.flags x.vgen x.tvec x.tpc x.tcause x.tval x.vstart x.tstat [loadTo (Dest.g 2) 8 none part8] x.block x.mid
    x.relBound x.relDev x.relSys x.pushDue x.popDone x.atSafe x.bpPass x.returning x.why).cur.fst && (mA.pb || mA.pa))
    = false ∧ guardHolds (withRole overdueWorker fun x => Role.mk x.pc x.fin x.walk x.safecnt x.g x.v x.p x.lc x.flags
    x.vgen x.tvec x.tpc x.tcause x.tval x.vstart x.tstat [loadTo (Dest.g 2) 8 none part8] x.block x.mid x.relBound
    x.relDev x.relSys x.pushDue x.popDone x.atSafe x.bpPass x.returning x.why) ng = true ∧ checkUse (withRole
    overdueWorker fun x => Role.mk x.pc x.fin x.walk x.safecnt x.g x.v x.p x.lc x.flags x.vgen x.tvec x.tpc x.tcause
    x.tval x.vstart x.tstat [loadTo (Dest.g 2) 8 none part8] x.block x.mid x.relBound x.relDev x.relSys x.pushDue
    x.popDone x.atSafe x.bpPass x.returning x.why).cur.fst (withRole overdueWorker fun x => Role.mk x.pc x.fin x.walk
    x.safecnt x.g x.v x.p x.lc x.flags x.vgen x.tvec x.tpc x.tcause x.tval x.vstart x.tstat [loadTo (Dest.g 2) 8 none
    part8] x.block x.mid x.relBound x.relDev x.relSys x.pushDue x.popDone x.atSafe x.bpPass x.returning x.why).cur.snd
    (withRole overdueWorker fun x => Role.mk x.pc x.fin x.walk x.safecnt x.g x.v x.p x.lc x.flags x.vgen x.tvec x.tpc
    x.tcause x.tval x.vstart x.tstat [loadTo (Dest.g 2) 8 none part8] x.block x.mid x.relBound x.relDev x.relSys
    x.pushDue x.popDone x.atSafe x.bpPass x.returning x.why) [Src.g (2 : G6), Src.g (3 : G6)] (Dst.g (1 : G6)) =
    Except.error (Stop.wait Wait.other)) :=
  ⟨by exact ⟨⟨by decide, by decide, by decide, by decide, by decide, fun h => absurd h (by decide)⟩, by decide, fun w h => nomatch h⟩,
    by exact ⟨⟨by decide, by decide, by decide, by decide, by decide, fun h => absurd h (by decide)⟩, by decide, by decide, by decide, rfl⟩⟩

theorem witness_slipWindowHolds :
    roleExists farWorker farWorker.cur.fst farWorker.cur.snd = true ∧ roleHeld farWorker farWorker.cur.fst
    farWorker.cur.snd = false ∧ (getRole farWorker farWorker.cur.fst farWorker.cur.snd).pushDue = false ∧ trapPending
    (getRole farWorker farWorker.cur.fst farWorker.cur.snd) = false ∧ mayPass farWorker farWorker.cur.fst
    farWorker.cur.snd 1 = false := by
  decide

theorem witness_vectorArithmetic :
    ∃ x t draw, vecOf (Instr.vfma mA DType.f32 RM.rne false (4 : V5) (1 : V5) (2 : V5) (3 : V5) two) = some x ∧ ready
    vectors (Instr.vfma mA DType.f32 RM.rne false (4 : V5) (1 : V5) (2 : V5) (3 : V5) two) x.m 1 = true ∧ lanesHold
    vectors x.g = true ∧ Check.reserved x.dt = false ∧ usable vectors (List.map Src.v x.va) (Dst.v x.vd) = true ∧
    drawOf vectors.cur.fst vectors.cur.snd vectors x.rm = Except.ok (t, draw) := by
  exact ⟨_, _, _, rfl, rfl, rfl, rfl, rfl, rfl⟩

theorem witness_vectorComparison :
    ready vectors (Instr.vcmp mA Cond.lt false DType.f32 (1 : P3) (2 : V5) (3 : V5) two) mA 1 = true ∧ lanesHold
    vectors two = true ∧ Check.reserved DType.f32 = false ∧ usable vectors [Src.v (2 : V5), Src.v (3 : V5)] Dst.none =
    true := by
  decide

theorem witness_vectorLaneLogic :
    ∃ x, laneOf vectors (Instr.vsarImmediate mA (4 : V5) (1 : V5) 31#6 two) = some x ∧ ready vectors
    (Instr.vsarImmediate mA (4 : V5) (1 : V5) 31#6 two) x.m 1 = true ∧ lanesHold vectors x.g = true ∧ usable vectors
    (List.map Src.v x.va) (Dst.v x.vd) = true := by
  exact ⟨_, rfl, rfl, rfl, rfl⟩

theorem witness_vectorConversions :
    (∃ t draw, ready vectors (Instr.vcvt mA false DType.bf16 DType.f32 RM.rne false (4 : V5) (3 : V5) two) mA 1 = true
    ∧ lanesHold vectors two = true ∧ Check.reserved DType.bf16 = false ∧ Check.reserved DType.f32 = false ∧ usable
    vectors [Src.v (3 : V5)] (Dst.v (4 : V5)) = true ∧ (elemBits DType.bf16 = 32 ∨ elemBits DType.bf16 = 16) ∧ drawOf
    vectors.cur.fst vectors.cur.snd vectors RM.rne = Except.ok (t, draw)) ∧
    (ready vectors (Instr.vscl mA DType.mxf4 DType.f32 (4 : V5) (3 : V5) 0#3 two) mA 1 = true ∧ lanesHold vectors two
    = true ∧ Check.reserved DType.mxf4 = false ∧ Check.reserved DType.f32 = false ∧ usable vectors [Src.v (3 : V5)]
    (Dst.v (4 : V5)) = true) ∧
    (∃ t draw, ready vectors (Instr.vpack mA DType.mxf4 DType.f32 RM.rne false (4 : V5) (3 : V5) (1 : V5) 0#3 two) mA
    1 = true ∧ lanesHold vectors two = true ∧ Check.reserved DType.mxf4 = false ∧ Check.reserved DType.f32 = false ∧
    usable vectors (List.map Src.v (if isScaled DType.mxf4 = true then [(3 : V5), (1 : V5)] else [(3 : V5)])) (Dst.v
    (4 : V5)) = true ∧ drawOf vectors.cur.fst vectors.cur.snd vectors RM.rne = Except.ok (t, draw)) ∧
    (∃ t draw, ready vectors (Instr.vunpk mA DType.f32 DType.mxf4 RM.rne false (4 : V5) (3 : V5) (1 : V5) 0#3 two) mA
    1 = true ∧ lanesHold vectors two = true ∧ Check.reserved DType.f32 = false ∧ Check.reserved DType.mxf4 = false ∧
    usable vectors (List.map Src.v (if isScaled DType.mxf4 = true then [(3 : V5), (1 : V5)] else [(3 : V5)])) (Dst.v
    (4 : V5)) = true ∧ drawOf vectors.cur.fst vectors.cur.snd vectors RM.rne = Except.ok (t, draw)) :=
  ⟨by exact ⟨_, _, by decide, by decide, by decide, by decide, by decide, by decide, rfl⟩,
    by decide,
    by exact ⟨_, _, by decide, by decide, by decide, by decide, by decide, rfl⟩,
    by exact ⟨_, _, by decide, by decide, by decide, by decide, by decide, rfl⟩⟩

theorem witness_vectorReductions :
    (ready vectors (Instr.vred mA RedOp.add DType.f32 DType.f32 RM.rne false (4 : V5) (3 : V5) two) mA 1 = true ∧
    lanesHold vectors two = true ∧ Check.reserved DType.f32 = false ∧ Check.reserved DType.f32 = false ∧ usable
    vectors [Src.v (3 : V5)] (Dst.v (4 : V5)) = true) ∧
    ([1, 2].length = 2 ^ 1 ∧ [3, 4].length = 2 ^ 1) ∧
    (ready vectors (Instr.vdot mA DType.i32 DType.i8 (4 : V5) (1 : V5) (2 : V5) (3 : V5) two) mA 1 = true ∧ lanesHold
    vectors two = true ∧ Check.reserved DType.i32 = false ∧ Check.reserved DType.i8 = false ∧ usable vectors [Src.v (1
    : V5), Src.v (2 : V5), Src.v (3 : V5)] (Dst.v (4 : V5)) = true) :=
  ⟨by decide,
    by decide,
    by decide⟩

theorem witness_vectorMovement :
    (∃ x, moveOf (Instr.vslideUp mA (4 : V5) (1 : V5) (2 : G6) 3#16 two) = some x ∧ ready vectors (Instr.vslideUp mA
    (4 : V5) (1 : V5) (2 : G6) 3#16 two) x.m 1 = true ∧ lanesHold vectors x.g = true ∧ Check.reserved x.dt = false ∧
    usable vectors (List.map Src.v x.va ++ List.map Src.g x.ga.toList) (Dst.v x.vd) = true) ∧
    (ready vectors (Instr.vext mA true DType.i8 (5 : G6) (1 : V5) 255#16 ng) mA 1 = true ∧ guardHolds vectors ng =
    true ∧ Check.reserved DType.i8 = false ∧ usable vectors [Src.v (1 : V5)] (Dst.g (5 : G6)) = true) ∧
    (ready vectors (Instr.vins mA DType.i32 (4 : V5) (1 : G6) 1#16 two) mA 1 = true ∧ lanesHold vectors two = true ∧
    Check.reserved DType.i32 = false ∧ usable vectors [Src.g (1 : G6)] (Dst.v (4 : V5)) = true ∧ bit (lanesOf vectors
    vectors two) (elemBits DType.i32 * BitVec.toNat 1#16 / 32) = false) ∧
    (ready vectors (Instr.vins mA DType.i32 (4 : V5) (1 : G6) 2#16 two) mA 1 = true ∧ lanesHold vectors two = true ∧
    Check.reserved DType.i32 = false ∧ usable vectors [Src.g (1 : G6)] (Dst.v (4 : V5)) = true ∧ bit (lanesOf vectors
    vectors two) (elemBits DType.i32 * BitVec.toNat 2#16 / 32) = true) :=
  ⟨by exact ⟨_, rfl, rfl, rfl, rfl, rfl⟩,
    by decide,
    by decide,
    by decide⟩

theorem witness_randomDraws :
    (∃ t ctr key, ready streams (Instr.rand mA (5 : G6) (1 : G6) 3#6) mA 1 = true ∧ usable streams [Src.g (1 : G6)]
    (Dst.g (5 : G6)) = true ∧ streamRead streams.cur.fst streams.cur.snd streams (BitVec.toNat 3#6) = Except.ok (t,
    ctr, key)) ∧
    (∃ t ctr key, ready streams (Instr.vrand mA (5 : V5) (1 : G6) 3#6 two) mA 1 = true ∧ lanesHold streams two = true
    ∧ usable streams [Src.g (1 : G6)] (Dst.v (5 : V5)) = true ∧ streamRead streams.cur.fst streams.cur.snd streams
    (BitVec.toNat 3#6) = Except.ok (t, ctr, key)) ∧
    (ready (withHandler vectors) (Instr.rand mA (5 : G6) (1 : G6) 3#6) mA 1 = true ∧ usable (withHandler vectors)
    [Src.g (1 : G6)] (Dst.g (5 : G6)) = true ∧ sspOn (withHandler vectors) = false) :=
  ⟨by exact ⟨_, _, _, by decide, by decide, rfl⟩,
    by exact ⟨_, _, _, by decide, by decide, by decide, rfl⟩,
    by decide⟩

theorem witness_scalarLoads :
    (∃ x t key, loadOf (Instr.ld mA Size.d false (4 : G6) base0 ng) = some x ∧ ready vectors (Instr.ld mA Size.d false
    (4 : G6) base0 ng) x.m 1 = true ∧ guardHolds vectors x.g = true ∧ usable vectors [Src.g x.ea.rb, Src.g x.ea.ri]
    (Dst.g x.rd) = true ∧ coreLoc (eaOf vectors vectors x.ea).fst vectors.cur.fst Want.read (!systemMode vectors
    vectors.cur.fst vectors.cur.snd) false false (eaOf vectors vectors x.ea).snd x.n = Except.ok (t, Loc.pool key) ∧
    loadable vectors x (eaOf vectors vectors x.ea).snd (Loc.pool key)) ∧
    (∃ x t key, loadOf (Instr.lda mA Size.b true Scope.core (4 : G6) base0 ng) = some x ∧ ready vectors (Instr.lda mA
    Size.b true Scope.core (4 : G6) base0 ng) x.m 1 = true ∧ guardHolds vectors x.g = true ∧ usable vectors [Src.g
    x.ea.rb, Src.g x.ea.ri] (Dst.g x.rd) = true ∧ coreLoc (eaOf vectors vectors x.ea).fst vectors.cur.fst Want.read
    (!systemMode vectors vectors.cur.fst vectors.cur.snd) false false (eaOf vectors vectors x.ea).snd x.n = Except.ok
    (t, Loc.pool key) ∧ loadable vectors x (eaOf vectors vectors x.ea).snd (Loc.pool key)) ∧
    (∃ x t tgt leaf, loadOf (Instr.ldc mA Size.w true Scope.dev (4 : G6) base0 ng) = some x ∧ ready carved (Instr.ldc
    mA Size.w true Scope.dev (4 : G6) base0 ng) x.m 1 = true ∧ guardHolds carved x.g = true ∧ usable carved [Src.g
    x.ea.rb, Src.g x.ea.ri] (Dst.g x.rd) = true ∧ coreLoc (eaOf carved carved x.ea).fst carved.cur.fst Want.read
    (!systemMode carved carved.cur.fst carved.cur.snd) false false (eaOf carved carved x.ea).snd x.n = Except.ok (t,
    Loc.dev tgt leaf) ∧ loadable carved x (eaOf carved carved x.ea).snd (Loc.dev tgt leaf)) :=
  ⟨by exact ⟨_, _, _, rfl, by decide, by decide, by decide, rfl, ⟨by decide, by decide, by decide⟩⟩,
    by exact ⟨_, _, _, rfl, by decide, by decide, by decide, rfl, ⟨by decide, by decide, by decide⟩⟩,
    by exact ⟨_, _, _, _, rfl, by decide, by decide, by decide, rfl, ⟨by decide, by decide, by decide⟩⟩⟩

theorem witness_scalarStores :
    (∃ t key, ready vectors (Instr.st mA Size.d (2 : G6) base0 ng) mA 1 = true ∧ guardHolds vectors ng = true ∧ usable
    vectors [Src.g (2 : G6), Src.g base0.rb, Src.g base0.ri] Dst.none = true ∧ coreLoc vectors vectors.cur.fst
    Want.write (!systemMode vectors vectors.cur.fst vectors.cur.snd) false true (storeArgs vectors (2 : G6)
    base0).snd.fst (sizeBytes Size.d) = Except.ok (t, Loc.pool key) ∧ (storeArgs vectors (2 : G6) base0).snd.fst %
    sizeBytes Size.d = 0 ∧ locBusy vectors vectors.cur.fst vectors.cur.snd (Loc.pool key) = false ∧ relSettled vectors
    vectors.cur.fst vectors.cur.snd = true ∧ stage vectors.cur.fst vectors.cur.snd vectors = 0) ∧
    (∃ t tgt leaf, ready carved (Instr.st mA Size.h (2 : G6) base0 ng) mA 1 = true ∧ guardHolds carved ng = true ∧
    usable carved [Src.g (2 : G6), Src.g base0.rb, Src.g base0.ri] Dst.none = true ∧ coreLoc carved carved.cur.fst
    Want.write (!systemMode carved carved.cur.fst carved.cur.snd) false true (storeArgs carved (2 : G6) base0).snd.fst
    (sizeBytes Size.h) = Except.ok (t, Loc.dev tgt leaf) ∧ (storeArgs carved (2 : G6) base0).snd.fst % sizeBytes
    Size.h = 0 ∧ locBusy t carved.cur.fst carved.cur.snd (Loc.dev tgt leaf) = false ∧ relSettled carved carved.cur.fst
    carved.cur.snd = true ∧ stage carved.cur.fst carved.cur.snd carved = 0 ∧ inOpenRange t tgt = false) ∧
    (∃ t t' loc, ready carved (Instr.stl mA Size.d Scope.dev (2 : G6) base0 ng) mA 1 = true ∧ guardHolds carved ng =
    true ∧ usable carved [Src.g (2 : G6), Src.g base0.rb, Src.g base0.ri] Dst.none = true ∧ coreLoc carved
    carved.cur.fst Want.write (!systemMode carved carved.cur.fst carved.cur.snd) false true (storeArgs carved (2 : G6)
    base0).snd.fst (sizeBytes Size.d) = Except.ok (t, loc) ∧ coreLoc (storeArgs carved (2 : G6) base0).fst
    carved.cur.fst Want.write (!systemMode carved carved.cur.fst carved.cur.snd) false true (storeArgs carved (2 : G6)
    base0).snd.fst (sizeBytes Size.d) = Except.ok (t', loc) ∧ (storeArgs carved (2 : G6) base0).snd.fst % sizeBytes
    Size.d = 0 ∧ locBusy carved carved.cur.fst carved.cur.snd loc = false ∧ relSettled carved carved.cur.fst
    carved.cur.snd = true ∧ relReady carved carved.cur.fst carved.cur.snd Scope.dev = true ∧ stage carved.cur.fst
    carved.cur.snd carved = 0 ∧ ∀ (tgt : Target) (leaf : Option Nat), loc = Loc.dev tgt leaf → inOpenRange carved tgt
    = false) ∧
    (∃ t tgt leaf, ready guarded (Instr.st mA Size.h (2 : G6) base0 ng) mA 1 = true ∧ guardHolds guarded ng = true ∧
    usable guarded [Src.g (2 : G6), Src.g base0.rb, Src.g base0.ri] Dst.none = true ∧ coreLoc guarded guarded.cur.fst
    Want.write (!systemMode guarded guarded.cur.fst guarded.cur.snd) false true (storeArgs guarded (2 : G6)
    base0).snd.fst (sizeBytes Size.h) = Except.ok (t, Loc.dev tgt leaf) ∧ (storeArgs guarded (2 : G6) base0).snd.fst %
    sizeBytes Size.h = 0 ∧ inOpenRange t tgt = true ∧ locBusy t guarded.cur.fst guarded.cur.snd (Loc.dev tgt leaf) =
    false ∧ relSettled guarded guarded.cur.fst guarded.cur.snd = true ∧ stage guarded.cur.fst guarded.cur.snd guarded
    = 0) :=
  ⟨by exact ⟨_, _, by decide, by decide, by decide, rfl, by decide, rfl, by decide, by decide⟩,
    by exact ⟨_, _, _, by decide, by decide, by decide, rfl, by decide, rfl, by decide, by decide, rfl⟩,
    by exact ⟨_, _, _, by decide, by decide, by decide, rfl, rfl, by decide, by decide, by decide, by decide, by decide, by intro x y h; cases h; rfl⟩,
    by exact ⟨_, _, _, by decide, by decide, by decide, rfl, by decide, rfl, rfl, by decide, by decide⟩⟩

theorem witness_vectorLoadsAndStores :
    (ready vectors (Instr.vld mA 0#2 (4 : V5) base0 two) mA 1 = true ∧ lanesHold vectors two = true ∧ usable vectors
    [Src.g base0.rb, Src.g base0.ri] (Dst.v (4 : V5)) = true ∧ (eaOf vectors vectors base0).snd % 32 = 0 ∧ inScratch
    vectors (eaOf vectors vectors base0).snd (4 * vecLanes 0#2) ∧ relSettled vectors vectors.cur.fst vectors.cur.snd =
    true ∧ ∀ (j : Nat), j < vecLanes 0#2 → bit (lanesOf vectors vectors two) j = true → locBusy vectors
    vectors.cur.fst vectors.cur.snd (Loc.pool (scratchKey vectors ((eaOf vectors vectors base0).snd + 4 * j))) =
    false) ∧
    (ready vectors (Instr.vst mA 3#2 (2 : V5) base0 ng) mA 1 = true ∧ lanesHold vectors ng = true ∧ usable vectors
    [Src.v (2 : V5), Src.g base0.rb, Src.g base0.ri] Dst.none = true ∧ (eaOf vectors (readV vectors.cur.fst
    vectors.cur.snd vectors (2 : V5)).fst base0).snd % 32 = 0 ∧ vectors.alt = false ∧ inScratch vectors (eaOf vectors
    (readV vectors.cur.fst vectors.cur.snd vectors (2 : V5)).fst base0).snd (4 * vecLanes 3#2) ∧ (stage
    vectors.cur.fst vectors.cur.snd vectors = 0 → relSettled vectors vectors.cur.fst vectors.cur.snd = true) ∧ ∀ (j :
    Nat), j < vecLanes 3#2 → bit (lanesOf vectors vectors ng) j = true → locBusy vectors vectors.cur.fst
    vectors.cur.snd (Loc.pool (scratchKey vectors ((eaOf vectors (readV vectors.cur.fst vectors.cur.snd vectors (2 :
    V5)).fst base0).snd + 4 * j))) = false) ∧
    (∃ t t' ls ls', ready carved (Instr.vld mA 0#2 (4 : V5) base0 two) mA 1 = true ∧ lanesHold carved two = true ∧
    usable carved [Src.g base0.rb, Src.g base0.ri] (Dst.v (4 : V5)) = true ∧ (eaOf carved carved base0).snd % 32 = 0 ∧
    vecLocs (eaOf carved carved base0).fst carved.cur.fst Want.read (!systemMode carved carved.cur.fst carved.cur.snd)
    false (vecPieces (eaOf carved carved base0).snd (vecLanes 0#2) (lanesOf carved carved two &&& lowLanes (vecLanes
    0#2))) = Except.ok (t', ls') ∧ vecLocs t' carved.cur.fst Want.read (!systemMode carved carved.cur.fst
    carved.cur.snd) false (List.filter (fun p => decide ((getRole carved carved.cur.fst carved.cur.snd).vstart.toNat <
    p.snd.fst)) (vecPieces (eaOf carved carved base0).snd (vecLanes 0#2) (lanesOf carved carved two &&& lowLanes
    (vecLanes 0#2)))) = Except.ok (t, ls) ∧ relSettled carved carved.cur.fst carved.cur.snd = true ∧ (ls.any fun l =>
    locBusy carved carved.cur.fst carved.cur.snd l.snd.snd) = false) ∧
    (∃ t v ls, ready carved (Instr.vst mA 0#2 (1 : V5) base0 two) mA 1 = true ∧ lanesHold carved two = true ∧ usable
    carved [Src.v (1 : V5), Src.g base0.rb, Src.g base0.ri] Dst.none = true ∧ (eaOf carved (readV carved.cur.fst
    carved.cur.snd carved (1 : V5)).fst base0).snd % 32 = 0 ∧ (stage carved.cur.fst carved.cur.snd carved = 0 →
    relSettled carved carved.cur.fst carved.cur.snd = true) ∧ vecLocs carved carved.cur.fst Want.write (!systemMode
    carved carved.cur.fst carved.cur.snd) true (vecPieces (eaOf carved (readV carved.cur.fst carved.cur.snd carved (1
    : V5)).fst base0).snd (vecLanes 0#2) (lanesOf carved carved two &&& lowLanes (vecLanes 0#2))) = Except.ok (t, ls)
    ∧ (Option.map (fun e => locBusy t carved.cur.fst carved.cur.snd e.loc) (List.filter (fun e => decide (storeFrom
    (getRole carved carved.cur.fst carved.cur.snd) < e.next)) (vstElems (eaOf carved (readV carved.cur.fst
    carved.cur.snd carved (1 : V5)).fst base0).snd (lanesOf carved carved two &&& lowLanes (vecLanes 0#2)) (readV
    carved.cur.fst carved.cur.snd carved (1 : V5)).snd (vecPieces (eaOf carved (readV carved.cur.fst carved.cur.snd
    carved (1 : V5)).fst base0).snd (vecLanes 0#2) (lanesOf carved carved two &&& lowLanes (vecLanes 0#2)))
    ls)).head?).getD false = false ∧ placeElems carved.cur.fst carved.cur.snd (getRole t carved.cur.fst
    carved.cur.snd).pc ((encode (Instr.vst mA 0#2 (1 : V5) base0 two)).headD (0 : Word)) t (List.filter (fun e =>
    decide (storeFrom (getRole carved carved.cur.fst carved.cur.snd) < e.next)) (vstElems (eaOf carved (readV
    carved.cur.fst carved.cur.snd carved (1 : V5)).fst base0).snd (lanesOf carved carved two &&& lowLanes (vecLanes
    0#2)) (readV carved.cur.fst carved.cur.snd carved (1 : V5)).snd (vecPieces (eaOf carved (readV carved.cur.fst
    carved.cur.snd carved (1 : V5)).fst base0).snd (vecLanes 0#2) (lanesOf carved carved two &&& lowLanes (vecLanes
    0#2))) ls)) = Placed.done v) :=
  ⟨by exact ⟨by decide, by decide, by decide, by decide, ⟨by decide, by decide⟩, by decide⟩,
    by exact ⟨by decide, by decide, by decide, by decide, by decide, ⟨by decide, by decide⟩, by decide, by decide⟩,
    by exact ⟨_, _, _, _, by decide, by decide, by decide, by decide, rfl, rfl, by decide, rfl⟩,
    by exact ⟨_, _, _, by decide, by decide, by decide, by decide, by decide, rfl, rfl, rfl⟩⟩

theorem witness_indexedVectorLoadsAndStores :
    (ready vectors (Instr.vldx mA Size.w false (4 : V5) vbase0 two) mA 1 = true ∧ lanesHold vectors two = true ∧
    Size.w ≠ Size.d ∧ usable vectors [Src.g vbase0.rb, Src.v vbase0.vi] (Dst.v (4 : V5)) = true ∧ relSettled vectors
    vectors.cur.fst vectors.cur.snd = true ∧ ∀ (k : Nat), k < 64 → bit (lanesOf vectors vectors two) k = true → laneVA
    (src vectors vectors vbase0.rb).snd.val (readV vectors.cur.fst vectors.cur.snd (src vectors vectors vbase0.rb).fst
    vbase0.vi).snd vbase0 k % sizeBytes Size.w = 0 ∧ inScratch vectors (laneVA (src vectors vectors vbase0.rb).snd.val
    (readV vectors.cur.fst vectors.cur.snd (src vectors vectors vbase0.rb).fst vbase0.vi).snd vbase0 k) (sizeBytes
    Size.w) ∧ locBusy vectors vectors.cur.fst vectors.cur.snd (Loc.pool (scratchKey vectors (laneVA (src vectors
    vectors vbase0.rb).snd.val (readV vectors.cur.fst vectors.cur.snd (src vectors vectors vbase0.rb).fst
    vbase0.vi).snd vbase0 k))) = false) ∧
    (ready vectors (Instr.vstx mA Size.h (3 : V5) vbase0 two) mA 1 = true ∧ lanesHold vectors two = true ∧ usable
    vectors [Src.v (3 : V5), Src.g vbase0.rb, Src.v vbase0.vi] Dst.none = true ∧ vectors.alt = false ∧ (stage
    vectors.cur.fst vectors.cur.snd vectors = 0 → relSettled vectors vectors.cur.fst vectors.cur.snd = true) ∧ ∀ (k :
    Nat), k < 64 → bit (lanesOf vectors vectors two) k = true → laneVA (src vectors (readV vectors.cur.fst
    vectors.cur.snd vectors (3 : V5)).fst vbase0.rb).snd.val (readV vectors.cur.fst vectors.cur.snd (src vectors
    (readV vectors.cur.fst vectors.cur.snd vectors (3 : V5)).fst vbase0.rb).fst vbase0.vi).snd vbase0 k % sizeBytes
    Size.h = 0 ∧ inScratch vectors (laneVA (src vectors (readV vectors.cur.fst vectors.cur.snd vectors (3 : V5)).fst
    vbase0.rb).snd.val (readV vectors.cur.fst vectors.cur.snd (src vectors (readV vectors.cur.fst vectors.cur.snd
    vectors (3 : V5)).fst vbase0.rb).fst vbase0.vi).snd vbase0 k) (sizeBytes Size.h) ∧ locBusy vectors vectors.cur.fst
    vectors.cur.snd (Loc.pool (scratchKey vectors (laneVA (src vectors (readV vectors.cur.fst vectors.cur.snd vectors
    (3 : V5)).fst vbase0.rb).snd.val (readV vectors.cur.fst vectors.cur.snd (src vectors (readV vectors.cur.fst
    vectors.cur.snd vectors (3 : V5)).fst vbase0.rb).fst vbase0.vi).snd vbase0 k))) = false) ∧
    (ready vectors (Instr.vldx mA Size.w false (4 : V5) (VEA.mk (1 : G6) (1 : V5) 0#2 0#20) two) mA 1 = true ∧
    lanesHold vectors two = true ∧ usable vectors [Src.g (VEA.mk (1 : G6) (1 : V5) 0#2 0#20).rb, Src.v (VEA.mk (1 :
    G6) (1 : V5) 0#2 0#20).vi] (Dst.v (4 : V5)) = true ∧ 0 < 64 ∧ bit (lanesOf vectors vectors two) 0 = true ∧ laneVA
    (src vectors vectors (VEA.mk (1 : G6) (1 : V5) 0#2 0#20).rb).snd.val (readV vectors.cur.fst vectors.cur.snd (src
    vectors vectors (VEA.mk (1 : G6) (1 : V5) 0#2 0#20).rb).fst (VEA.mk (1 : G6) (1 : V5) 0#2 0#20).vi).snd (VEA.mk (1
    : G6) (1 : V5) 0#2 0#20) 0 % sizeBytes Size.w ≠ 0 ∧ ∀ (j : Nat), j < 0 → bit (lanesOf vectors vectors two) j =
    true → laneVA (src vectors vectors (VEA.mk (1 : G6) (1 : V5) 0#2 0#20).rb).snd.val (readV vectors.cur.fst
    vectors.cur.snd (src vectors vectors (VEA.mk (1 : G6) (1 : V5) 0#2 0#20).rb).fst (VEA.mk (1 : G6) (1 : V5) 0#2
    0#20).vi).snd (VEA.mk (1 : G6) (1 : V5) 0#2 0#20) j % sizeBytes Size.w = 0) ∧
    (∃ t ps, ready carved (Instr.vldx mA Size.w false (4 : V5) vbase0 two) mA 1 = true ∧ lanesHold carved two = true ∧
    usable carved [Src.g vbase0.rb, Src.v vbase0.vi] (Dst.v (4 : V5)) = true ∧ (∀ (k : Nat), k < 64 → bit (lanesOf
    carved carved two) k = true → laneAddr (src carved carved vbase0.rb).snd.val (readV carved.cur.fst carved.cur.snd
    (src carved carved vbase0.rb).fst vbase0.vi).snd vbase0.sc vbase0.off k % sizeBytes Size.w = 0) ∧ relSettled
    carved carved.cur.fst carved.cur.snd = true ∧ gatherParts carved.cur.fst carved.cur.snd (!systemMode carved
    carved.cur.fst carved.cur.snd) (src carved carved vbase0.rb).snd.taint (sizeBytes Size.w) (readV carved.cur.fst
    carved.cur.snd (src carved carved vbase0.rb).fst vbase0.vi).fst (activeLanes (lanesOf carved carved two) (getRole
    carved carved.cur.fst carved.cur.snd).vstart.toNat (laneAddr (src carved carved vbase0.rb).snd.val (readV
    carved.cur.fst carved.cur.snd (src carved carved vbase0.rb).fst vbase0.vi).snd vbase0.sc vbase0.off)) = Except.ok
    (t, ps)) ∧
    (∃ t v es, ready carved (Instr.vstx mA Size.w (1 : V5) vbase0 two) mA 1 = true ∧ lanesHold carved two = true ∧
    usable carved [Src.v (1 : V5), Src.g vbase0.rb, Src.v vbase0.vi] Dst.none = true ∧ (∀ (k : Nat), k < 64 → bit
    (lanesOf carved carved two) k = true → laneAddr (src carved (readV carved.cur.fst carved.cur.snd carved (1 :
    V5)).fst vbase0.rb).snd.val (readV carved.cur.fst carved.cur.snd (src carved (readV carved.cur.fst carved.cur.snd
    carved (1 : V5)).fst vbase0.rb).fst vbase0.vi).snd vbase0.sc vbase0.off k % sizeBytes Size.w = 0) ∧ (stage
    carved.cur.fst carved.cur.snd carved = 0 → relSettled carved carved.cur.fst carved.cur.snd = true) ∧ scatterElems
    carved.cur.fst (!systemMode carved carved.cur.fst carved.cur.snd) (sizeBytes Size.w) (readV carved.cur.fst
    carved.cur.snd carved (1 : V5)).snd carved (activeLanes (lanesOf carved carved two) (storeFrom (getRole carved
    carved.cur.fst carved.cur.snd)) (laneAddr (src carved (readV carved.cur.fst carved.cur.snd carved (1 : V5)).fst
    vbase0.rb).snd.val (readV carved.cur.fst carved.cur.snd (src carved (readV carved.cur.fst carved.cur.snd carved (1
    : V5)).fst vbase0.rb).fst vbase0.vi).snd vbase0.sc vbase0.off)) = (t, es, none) ∧ (Option.map (fun e => locBusy t
    carved.cur.fst carved.cur.snd e.loc) (List.filter (fun e => decide (storeFrom (getRole carved carved.cur.fst
    carved.cur.snd) < e.next)) es).head?).getD false = false ∧ placeElems carved.cur.fst carved.cur.snd (getRole t
    carved.cur.fst carved.cur.snd).pc ((encode (Instr.vstx mA Size.w (1 : V5) vbase0 two)).headD (0 : Word)) t
    (List.filter (fun e => decide (storeFrom (getRole carved carved.cur.fst carved.cur.snd) < e.next)) es) =
    Placed.done v) :=
  ⟨by exact ⟨by decide, by decide, by decide, by decide, by decide⟩,
    by exact ⟨by decide, by decide, by decide, by decide, by decide⟩,
    by decide,
    by exact ⟨_, _, by decide, by decide, by decide, by decide, by decide, rfl⟩,
    by exact ⟨_, _, _, by decide, by decide, by decide, by decide, by decide, rfl, rfl, rfl⟩⟩

theorem witness_prefetchIsAHint :
    ready carved (Instr.pref mA false 3#2 base0 ng) mA 1 = true ∧ guardHolds carved ng = true ∧ usable carved [Src.g
    base0.rb, Src.g base0.ri] Dst.none = true := by
  decide

theorem witness_probesAndPins :
    (ready carved (Instr.probe mA AMode.r (4 : G6) (1 : G6) (0 : G6) ng) mA 1 = true ∧ guardHolds carved ng = true ∧
    usable carved [Src.g (1 : G6), Src.g (0 : G6)] (Dst.g (4 : G6)) = true ∧ roleDrained carved carved.cur.fst
    carved.cur.snd = true ∧ relSettled carved carved.cur.fst carved.cur.snd = true ∧ stage carved.cur.fst
    carved.cur.snd carved ≤ 1 ∧ ((rangeArgs carved (1 : G6) (0 : G6)).snd.snd = 0 ∨ NW ≤ (rangeArgs carved (1 : G6) (0
    : G6)).snd.fst ∧ (rangeArgs carved (1 : G6) (0 : G6)).snd.fst + (rangeArgs carved (1 : G6) (0 : G6)).snd.snd ≤ 2 ^
    57)) ∧
    (ready vectors (Instr.probe mA AMode.r (4 : G6) (3 : G6) (1 : G6) ng) mA 1 = true ∧ guardHolds vectors ng = true ∧
    usable vectors [Src.g (3 : G6), Src.g (1 : G6)] (Dst.g (4 : G6)) = true ∧ roleDrained vectors vectors.cur.fst
    vectors.cur.snd = true ∧ relSettled vectors vectors.cur.fst vectors.cur.snd = true ∧ stage vectors.cur.fst
    vectors.cur.snd vectors ≤ 1 ∧ (rangeArgs vectors (3 : G6) (1 : G6)).snd.snd ≠ 0 ∧ (2 ^ 57 < (rangeArgs vectors (3
    : G6) (1 : G6)).snd.fst + (rangeArgs vectors (3 : G6) (1 : G6)).snd.snd ∨ (rangeArgs vectors (3 : G6) (1 :
    G6)).snd.fst < NW ∧ NW < (rangeArgs vectors (3 : G6) (1 : G6)).snd.fst + (rangeArgs vectors (3 : G6) (1 :
    G6)).snd.snd)) ∧
    (ready (system three) (Instr.probe mA AMode.r (4 : G6) (1 : G6) (3 : G6) ng) mA 1 = true ∧ guardHolds (system
    three) ng = true ∧ usable (system three) [Src.g (1 : G6), Src.g (3 : G6)] (Dst.g (4 : G6)) = true ∧ roleDrained
    (system three) (system three).cur.fst (system three).cur.snd = true ∧ relSettled (system three) (system
    three).cur.fst (system three).cur.snd = true ∧ stage (system three).cur.fst (system three).cur.snd (system three)
    ≤ 1 ∧ (rangeArgs (system three) (1 : G6) (3 : G6)).snd.snd ≠ 0 ∧ (rangeArgs (system three) (1 : G6) (3 :
    G6)).snd.fst + (rangeArgs (system three) (1 : G6) (3 : G6)).snd.snd ≤ NW ∧ (untranslated (system three) (system
    three).cur.fst = true ∨ ∃ runs, walkRange (system three) (Machine.core (system three) (system three).cur.fst).root
    (modeWant AMode.r) (!systemMode (system three) (system three).cur.fst (system three).cur.snd) ((rangeArgs (system
    three) (1 : G6) (3 : G6)).snd.fst + (rangeArgs (system three) (1 : G6) (3 : G6)).snd.snd) ((rangeArgs (system
    three) (1 : G6) (3 : G6)).snd.snd / 4096 + 2) (rangeArgs (system three) (1 : G6) (3 : G6)).snd.fst =
    RangeFound.all runs ∧ runsHeld (system three) runs = false)) ∧
    (∃ va, ready (worker three) (Instr.probe mA AMode.r (4 : G6) (1 : G6) (3 : G6) ng) mA 1 = true ∧ guardHolds
    (worker three) ng = true ∧ usable (worker three) [Src.g (1 : G6), Src.g (3 : G6)] (Dst.g (4 : G6)) = true ∧
    roleDrained (worker three) (worker three).cur.fst (worker three).cur.snd = true ∧ relSettled (worker three)
    (worker three).cur.fst (worker three).cur.snd = true ∧ stage (worker three).cur.fst (worker three).cur.snd (worker
    three) ≤ 1 ∧ (rangeArgs (worker three) (1 : G6) (3 : G6)).snd.snd ≠ 0 ∧ (rangeArgs (worker three) (1 : G6) (3 :
    G6)).snd.fst + (rangeArgs (worker three) (1 : G6) (3 : G6)).snd.snd ≤ NW ∧ untranslated (worker three) (worker
    three).cur.fst = false ∧ walkRange (worker three) (Machine.core (worker three) (worker three).cur.fst).root
    (modeWant AMode.r) (!systemMode (worker three) (worker three).cur.fst (worker three).cur.snd) ((rangeArgs (worker
    three) (1 : G6) (3 : G6)).snd.fst + (rangeArgs (worker three) (1 : G6) (3 : G6)).snd.snd) ((rangeArgs (worker
    three) (1 : G6) (3 : G6)).snd.snd / 4096 + 2) (rangeArgs (worker three) (1 : G6) (3 : G6)).snd.fst =
    RangeFound.fails va ∧ fqCanHold (worker three) (dieOf (worker three).cur.fst) = true) ∧
    (ready (atStage (worker three) 3) (Instr.probe mA AMode.r (4 : G6) (1 : G6) (3 : G6) ng) mA 1 = true ∧ guardHolds
    (atStage (worker three) 3) ng = true ∧ usable (atStage (worker three) 3) [Src.g (1 : G6), Src.g (3 : G6)] (Dst.g
    (4 : G6)) = true ∧ 1 < stage (atStage (worker three) 3).cur.fst (atStage (worker three) 3).cur.snd (atStage
    (worker three) 3)) ∧
    (∃ p, 0 < 4 ∧ bits (7 : Word) 63 56 < 254 ∧ List.find? (fun q => q.die == 0 && q.tag == bits (7 : Word) 15 0 &&
    q.answer.isNone) (standing probing (Block.probe 7)).probes = some p ∧ p.who = Prober.role 0 RoleId.C ∧ (getRole
    (standing probing (Block.probe 7)) 0 RoleId.C).block = some (Block.probe (bits (7 : Word) 15 0))) :=
  ⟨by decide,
    by decide,
    by exact ⟨by decide, by decide, by decide, by decide, by decide, by decide, by decide, by decide, .inl (by decide)⟩,
    by exact ⟨_, by decide, by decide, by decide, by decide, by decide, by decide, by decide, by decide, by decide, rfl, by decide⟩,
    by decide,
    by exact ⟨_, by decide, by decide, rfl, rfl, by decide⟩⟩

theorem witness_probesAndPins_2 :
    (ready vectors (Instr.unpin mA (4 : G6) (1 : G6) (2 : G6) ng) mA 1 = true ∧ guardHolds vectors ng = true ∧ usable
    vectors [Src.g (1 : G6), Src.g (2 : G6)] (Dst.g (4 : G6)) = true ∧ roleDrained vectors vectors.cur.fst
    vectors.cur.snd = true ∧ relSettled vectors vectors.cur.fst vectors.cur.snd = true ∧ rangeKind (rangeArgs vectors
    (1 : G6) (2 : G6)).snd.fst (rangeArgs vectors (1 : G6) (2 : G6)).snd.snd = RangeKind.near) ∧
    (ready (worker three) (Instr.unpin mA (4 : G6) (1 : G6) (3 : G6) ng) mA 1 = true ∧ guardHolds (worker three) ng =
    true ∧ usable (worker three) [Src.g (1 : G6), Src.g (3 : G6)] (Dst.g (4 : G6)) = true ∧ roleDrained (worker three)
    (worker three).cur.fst (worker three).cur.snd = true ∧ relSettled (worker three) (worker three).cur.fst (worker
    three).cur.snd = true ∧ rangeKind (rangeArgs (worker three) (1 : G6) (3 : G6)).snd.fst (rangeArgs (worker three)
    (1 : G6) (3 : G6)).snd.snd ≠ RangeKind.near ∧ ∀ (p : Pin), p ∈ (rangeArgs (worker three) (1 : G6) (3 :
    G6)).fst.pins → (fun p => decide (p.die = dieOf (worker three).cur.fst) && decide (p.owner = (Machine.core (worker
    three) (worker three).cur.fst).task) && decide (BitVec.toNat p.base = (rangeArgs (worker three) (1 : G6) (3 :
    G6)).snd.fst) && decide (p.len = (rangeArgs (worker three) (1 : G6) (3 : G6)).snd.snd)) p = false) ∧
    (ready pinnedLine (Instr.unpin mA (4 : G6) (1 : G6) (3 : G6) ng) mA 1 = true ∧ guardHolds pinnedLine ng = true ∧
    usable pinnedLine [Src.g (1 : G6), Src.g (3 : G6)] (Dst.g (4 : G6)) = true ∧ roleDrained pinnedLine
    pinnedLine.cur.fst pinnedLine.cur.snd = true ∧ relSettled pinnedLine pinnedLine.cur.fst pinnedLine.cur.snd = true
    ∧ rangeKind (rangeArgs pinnedLine (1 : G6) (3 : G6)).snd.fst (rangeArgs pinnedLine (1 : G6) (3 : G6)).snd.snd ≠
    RangeKind.near ∧ (rangeArgs pinnedLine (1 : G6) (3 : G6)).fst.pins = [] ++ [Pin.mk 0 none (7 : VA) 8 0#2] ∧ (fun p
    => decide (p.die = dieOf pinnedLine.cur.fst) && decide (p.owner = (Machine.core pinnedLine
    pinnedLine.cur.fst).task) && decide (BitVec.toNat p.base = (rangeArgs pinnedLine (1 : G6) (3 : G6)).snd.fst) &&
    decide (p.len = (rangeArgs pinnedLine (1 : G6) (3 : G6)).snd.snd)) (Pin.mk 0 none (7 : VA) 8 0#2) = true ∧ ∀ (q :
    Pin), q ∈ [] → (fun p => decide (p.die = dieOf pinnedLine.cur.fst) && decide (p.owner = (Machine.core pinnedLine
    pinnedLine.cur.fst).task) && decide (BitVec.toNat p.base = (rangeArgs pinnedLine (1 : G6) (3 : G6)).snd.fst) &&
    decide (p.len = (rangeArgs pinnedLine (1 : G6) (3 : G6)).snd.snd)) q = false) :=
  ⟨by decide,
    by exact ⟨by decide, by decide, by decide, by decide, by decide, by decide, by decide⟩,
    by decide⟩

theorem witness_fences :
    (ready (worker three) (Instr.phase mA Scope.dev) mA 1 = true ∧ relReady (worker three) (worker three).cur.fst
    (worker three).cur.snd Scope.dev = true ∧ stage (worker three).cur.fst (worker three).cur.snd (worker three) = 0) ∧
    (ready (begun three) (Instr.phase mA Scope.sys) mA 1 = true ∧ relReady (begun three) (begun three).cur.fst (begun
    three).cur.snd Scope.sys = true ∧ stage (begun three).cur.fst (begun three).cur.snd (begun three) ≠ 0 ∧ relSettled
    (begun three) (begun three).cur.fst (begun three).cur.snd = true) ∧
    (ready (worker three) (Instr.acq mA Scope.core) mA 1 = true ∧ (getRole (worker three) (worker three).cur.fst
    (worker three).cur.snd).loads = [] ∧ acqReady (worker three) (worker three).cur.fst (worker three).cur.snd
    Scope.core = true) ∧
    (ready (worker three) (Instr.rel mA Scope.core) mA 1 = true ∧ relReady (worker three) (worker three).cur.fst
    (worker three).cur.snd Scope.core = true) ∧
    (Scope.sys = Scope.dev ∨ Scope.sys = Scope.sys) ∧
    (ready (begun three) (Instr.drain mA true 3#2) mA 1 = true ∧ stage (begun three).cur.fst (begun three).cur.snd
    (begun three) ≠ 0) :=
  ⟨by decide,
    by decide,
    by decide,
    by decide,
    by decide,
    by decide⟩

theorem witness_fences_2 :
    (ready (worker three) (Instr.drain mA true 2#2) mA 1 = true ∧ stage (worker three).cur.fst (worker three).cur.snd
    (worker three) = 0 ∧ relReady (worker three) (worker three).cur.fst (worker three).cur.snd (if true = true then
    Scope.sys else Scope.dev) = true) ∧
    (∃ mm cm wm, roleExists (standing (worker three) (Block.drain true (some 0) none none)) 0 RoleId.C = true ∧
    (getRole (standing (worker three) (Block.drain true (some 0) none none)) 0 RoleId.C).block = some (Block.drain
    true mm cm wm) ∧ matrixPassed (Machine.core (standing (worker three) (Block.drain true (some 0) none none)) 0) mm
    = true ∧ copyPassed (Machine.core (standing (worker three) (Block.drain true (some 0) none none)) 0) cm = true ∧
    coreUnacked (standing (worker three) (Block.drain true (some 0) none none)) 0 (wm.getD (standing (worker three)
    (Block.drain true (some 0) none none)).nextId) = false) :=
  ⟨by decide,
    by exact ⟨_, _, _, by decide, rfl, rfl, rfl, rfl⟩⟩

theorem witness_atomicsLeaveTheCore :
    (∃ t tgt leaf, ready carved (Instr.amo mA SliceOp.fadd2 false (4 : G6) (1 : G6) (2 : G6)) mA 1 = true ∧ usable
    carved [Src.g (1 : G6), Src.g (2 : G6)] (Dst.g (4 : G6)) = true ∧ atomLoc carved.cur.fst carved.cur.snd carved
    true (BitVec.toNat (src carved carved (1 : G6)).snd.val % 2 ^ 57) (if false = true then 8 else 4) = Except.ok (t,
    tgt, leaf) ∧ atomOk carved (BitVec.toNat (src carved carved (1 : G6)).snd.val % 2 ^ 57) (if false = true then 8
    else 4) tgt leaf) ∧
    (∃ t tgt leaf, ready carved (Instr.cas mA (4 : G6) (1 : G6) (2 : G6) (2 : G6)) mA 1 = true ∧ usable carved [Src.g
    (1 : G6), Src.g (2 : G6), Src.g (2 : G6)] (Dst.g (4 : G6)) = true ∧ atomLoc carved.cur.fst carved.cur.snd carved
    false (BitVec.toNat (src carved carved (1 : G6)).snd.val % 2 ^ 57) 8 = Except.ok (t, tgt, leaf) ∧ atomOk carved
    (BitVec.toNat (src carved carved (1 : G6)).snd.val % 2 ^ 57) 8 tgt leaf) ∧
    (∃ t tgt leaf, ready launchable (Instr.casc mA (4 : G6) (1 : G6) (2 : G6) (2 : G6) 5#12) mA 1 = true ∧ usable
    launchable [Src.g (1 : G6), Src.g (2 : G6), Src.g (2 : G6)] (Dst.g (4 : G6)) = true ∧ ctabReason (ctabSee
    launchable (coreCopy launchable.cur.fst) (BitVec.toNat 5#12)).snd (Machine.core launchable launchable.cur.fst).xid
    = none ∧ atomLoc launchable.cur.fst launchable.cur.snd (ctabSee launchable (coreCopy launchable.cur.fst)
    (BitVec.toNat 5#12)).fst false (BitVec.toNat (src launchable launchable (1 : G6)).snd.val % 2 ^ 57) 8 = Except.ok
    (t, tgt, leaf) ∧ atomOk launchable (BitVec.toNat (src launchable launchable (1 : G6)).snd.val % 2 ^ 57) 8 tgt leaf
    ∧ tgt.peer = none ∧ stlPending launchable launchable.cur.fst launchable.cur.snd = false ∧ ∀ (n : Nat), n ∈
    contArgs (ctabSee launchable (coreCopy launchable.cur.fst) (BitVec.toNat 5#12)).snd → awaited (getRole launchable
    launchable.cur.fst launchable.cur.snd) (Dest.g n) = false ∧ (tabGet (getRole launchable launchable.cur.fst
    launchable.cur.snd).g n).isSome = true) ∧
    (ready (withHandler carved) (Instr.casc mA (4 : G6) (1 : G6) (2 : G6) (2 : G6) 5#12) mA 1 = true ∧ usable
    (withHandler carved) [Src.g (1 : G6), Src.g (2 : G6), Src.g (2 : G6)] (Dst.g (4 : G6)) = true ∧ ctabReason
    (ctabSee (withHandler carved) (coreCopy (withHandler carved).cur.fst) (BitVec.toNat 5#12)).snd (Machine.core
    (withHandler carved) (withHandler carved).cur.fst).xid = some 1) ∧
    (ready carved (Instr.vamo mA SliceOp.add (4 : V5) (1 : G6) (1 : V5) 0#2 (2 : V5) two) mA 1 = true ∧ lanesHold
    carved two = true ∧ usable carved [Src.g (1 : G6), Src.v (1 : V5), Src.v (2 : V5)] (Dst.v (4 : V5)) = true ∧
    relSettled carved carved.cur.fst carved.cur.snd = true ∧ (∀ (k : Nat), k < 64 → bit (lanesOf carved carved two) k
    = true → (fun k => (BitVec.toNat (src carved carved (1 : G6)).snd.val + (lane (readV carved.cur.fst carved.cur.snd
    (src carved carved (1 : G6)).fst (1 : V5)).snd k).toNat * 2 ^ BitVec.toNat 0#2) % 2 ^ 57) k % 4 = 0) ∧ List.map
    (fun k => (k, BitVec.ofNat 57 ((fun k => (BitVec.toNat (src carved carved (1 : G6)).snd.val + (lane (readV
    carved.cur.fst carved.cur.snd (src carved carved (1 : G6)).fst (1 : V5)).snd k).toNat * 2 ^ BitVec.toNat 0#2) % 2
    ^ 57) k), lane (readV carved.cur.fst carved.cur.snd (readV carved.cur.fst carved.cur.snd (src carved carved (1 :
    G6)).fst (1 : V5)).fst (2 : V5)).snd k)) (List.filter (fun k => bit (lanesOf carved carved two) k && decide
    ((getRole carved carved.cur.fst carved.cur.snd).vstart.toNat ≤ k)) (List.range 64)) ≠ []) ∧
    (ready (fromLane carved 5#6) (Instr.vamo mA SliceOp.add (4 : V5) (1 : G6) (1 : V5) 0#2 (2 : V5) two) mA 1 = true ∧
    lanesHold (fromLane carved 5#6) two = true ∧ usable (fromLane carved 5#6) [Src.g (1 : G6), Src.v (1 : V5), Src.v
    (2 : V5)] (Dst.v (4 : V5)) = true ∧ relSettled (fromLane carved 5#6) (fromLane carved 5#6).cur.fst (fromLane
    carved 5#6).cur.snd = true ∧ (∀ (k : Nat), k < 64 → bit (lanesOf (fromLane carved 5#6) (fromLane carved 5#6) two)
    k = true → (fun k => (BitVec.toNat (src (fromLane carved 5#6) (fromLane carved 5#6) (1 : G6)).snd.val + (lane
    (readV (fromLane carved 5#6).cur.fst (fromLane carved 5#6).cur.snd (src (fromLane carved 5#6) (fromLane carved
    5#6) (1 : G6)).fst (1 : V5)).snd k).toNat * 2 ^ BitVec.toNat 0#2) % 2 ^ 57) k % 4 = 0) ∧ List.map (fun k => (k,
    BitVec.ofNat 57 ((fun k => (BitVec.toNat (src (fromLane carved 5#6) (fromLane carved 5#6) (1 : G6)).snd.val +
    (lane (readV (fromLane carved 5#6).cur.fst (fromLane carved 5#6).cur.snd (src (fromLane carved 5#6) (fromLane
    carved 5#6) (1 : G6)).fst (1 : V5)).snd k).toNat * 2 ^ BitVec.toNat 0#2) % 2 ^ 57) k), lane (readV (fromLane
    carved 5#6).cur.fst (fromLane carved 5#6).cur.snd (readV (fromLane carved 5#6).cur.fst (fromLane carved
    5#6).cur.snd (src (fromLane carved 5#6) (fromLane carved 5#6) (1 : G6)).fst (1 : V5)).fst (2 : V5)).snd k))
    (List.filter (fun k => bit (lanesOf (fromLane carved 5#6) (fromLane carved 5#6) two) k && decide ((getRole
    (fromLane carved 5#6) (fromLane carved 5#6).cur.fst (fromLane carved 5#6).cur.snd).vstart.toNat ≤ k)) (List.range
    64)) = []) :=
  ⟨by exact ⟨_, _, _, by decide, by decide, rfl, by decide⟩,
    by exact ⟨_, _, _, by decide, by decide, rfl, by decide⟩,
    by exact ⟨_, _, _, by decide, by decide, by decide, rfl, by decide, rfl, by decide, by decide⟩,
    by decide,
    by decide,
    by decide⟩

theorem witness_sliceAtomics :
    (roleExists (atomic (atomOf (AtomOp.amo SliceOp.add true (9 : Word)))) 0 RoleId.C = true ∧ (getRole (atomic
    (atomOf (AtomOp.amo SliceOp.add true (9 : Word)))) 0 RoleId.C).block = some (Block.atomic (atomOf (AtomOp.amo
    SliceOp.add true (9 : Word)))) ∧ (atomOf (AtomOp.amo SliceOp.add true (9 : Word))).reply = none ∧ (atomOf
    (AtomOp.amo SliceOp.add true (9 : Word))).tgt.peer = none ∧ atomReady (l1Purge (atomic (atomOf (AtomOp.amo
    SliceOp.add true (9 : Word)))) 0 (atomOf (AtomOp.amo SliceOp.add true (9 : Word))).tgt) 0 RoleId.C (atomOf
    (AtomOp.amo SliceOp.add true (9 : Word))).tgt (atomOf (AtomOp.amo SliceOp.add true (9 : Word))).id = true ∧
    plainLine (atomic (atomOf (AtomOp.amo SliceOp.add true (9 : Word)))) ((atomOf (AtomOp.amo SliceOp.add true (9 :
    Word))).tgt.dpa / 128) ∧ tabSorted (atomic (atomOf (AtomOp.amo SliceOp.add true (9 : Word)))).deck = true ∧
    Memory.wf (atomic (atomOf (AtomOp.amo SliceOp.add true (9 : Word)))).mem = true ∧ (atomOf (AtomOp.amo SliceOp.add
    true (9 : Word))).tgt.dpa % 128 % atomBytes (atomOf (AtomOp.amo SliceOp.add true (9 : Word))).op = 0 ∧ (atomOf
    (AtomOp.amo SliceOp.add true (9 : Word))).op = AtomOp.amo SliceOp.add true (9 : Word)) ∧
    (roleExists (atomic (atomOf (AtomOp.cas (0 : Word) (9 : Word)))) 0 RoleId.C = true ∧ (getRole (atomic (atomOf
    (AtomOp.cas (0 : Word) (9 : Word)))) 0 RoleId.C).block = some (Block.atomic (atomOf (AtomOp.cas (0 : Word) (9 :
    Word)))) ∧ (atomOf (AtomOp.cas (0 : Word) (9 : Word))).reply = none ∧ (atomOf (AtomOp.cas (0 : Word) (9 :
    Word))).tgt.peer = none ∧ atomReady (l1Purge (atomic (atomOf (AtomOp.cas (0 : Word) (9 : Word)))) 0 (atomOf
    (AtomOp.cas (0 : Word) (9 : Word))).tgt) 0 RoleId.C (atomOf (AtomOp.cas (0 : Word) (9 : Word))).tgt (atomOf
    (AtomOp.cas (0 : Word) (9 : Word))).id = true ∧ plainLine (atomic (atomOf (AtomOp.cas (0 : Word) (9 : Word))))
    ((atomOf (AtomOp.cas (0 : Word) (9 : Word))).tgt.dpa / 128) ∧ tabSorted (atomic (atomOf (AtomOp.cas (0 : Word) (9
    : Word)))).deck = true ∧ Memory.wf (atomic (atomOf (AtomOp.cas (0 : Word) (9 : Word)))).mem = true ∧ (atomOf
    (AtomOp.cas (0 : Word) (9 : Word))).tgt.dpa % 128 % atomBytes (atomOf (AtomOp.cas (0 : Word) (9 : Word))).op = 0 ∧
    (atomOf (AtomOp.cas (0 : Word) (9 : Word))).op = AtomOp.cas (0 : Word) (9 : Word)) ∧
    (∃ sl, roleExists (crowded (atomOf (AtomOp.casc (0 : Word) (9 : Word) 5#12 (1 : Word) (2 : Word)))) 0 RoleId.C =
    true ∧ (getRole (crowded (atomOf (AtomOp.casc (0 : Word) (9 : Word) 5#12 (1 : Word) (2 : Word)))) 0
    RoleId.C).block = some (Block.atomic (atomOf (AtomOp.casc (0 : Word) (9 : Word) 5#12 (1 : Word) (2 : Word)))) ∧
    (atomOf (AtomOp.casc (0 : Word) (9 : Word) 5#12 (1 : Word) (2 : Word))).reply = none ∧ (atomOf (AtomOp.casc (0 :
    Word) (9 : Word) 5#12 (1 : Word) (2 : Word))).op = AtomOp.casc (0 : Word) (9 : Word) 5#12 (1 : Word) (2 : Word) ∧
    (atomOf (AtomOp.casc (0 : Word) (9 : Word) 5#12 (1 : Word) (2 : Word))).tgt.peer = none ∧ atomReady (crowded
    (atomOf (AtomOp.casc (0 : Word) (9 : Word) 5#12 (1 : Word) (2 : Word)))) 0 RoleId.C (atomOf (AtomOp.casc (0 :
    Word) (9 : Word) 5#12 (1 : Word) (2 : Word))).tgt (atomOf (AtomOp.casc (0 : Word) (9 : Word) 5#12 (1 : Word) (2 :
    Word))).id = true ∧ (entryTab (slice (l1Purge (crowded (atomOf (AtomOp.casc (0 : Word) (9 : Word) 5#12 (1 : Word)
    (2 : Word)))) 0 (atomOf (AtomOp.casc (0 : Word) (9 : Word) 5#12 (1 : Word) (2 : Word))).tgt) (homeSlice (atomOf
    (AtomOp.casc (0 : Word) (9 : Word) 5#12 (1 : Word) (2 : Word))).tgt.dpa)) (requester 0 RoleId.C) ≠ none ∨
    ctabReason (cascView (l1Purge (crowded (atomOf (AtomOp.casc (0 : Word) (9 : Word) 5#12 (1 : Word) (2 : Word)))) 0
    (atomOf (AtomOp.casc (0 : Word) (9 : Word) 5#12 (1 : Word) (2 : Word))).tgt) (homeSlice (atomOf (AtomOp.casc (0 :
    Word) (9 : Word) 5#12 (1 : Word) (2 : Word))).tgt.dpa) (requester 0 RoleId.C) (BitVec.toNat 5#12)).snd
    (Machine.core (crowded (atomOf (AtomOp.casc (0 : Word) (9 : Word) 5#12 (1 : Word) (2 : Word)))) 0).xid = none) ∧
    admitReq (slice (cascView (l1Purge (crowded (atomOf (AtomOp.casc (0 : Word) (9 : Word) 5#12 (1 : Word) (2 :
    Word)))) 0 (atomOf (AtomOp.casc (0 : Word) (9 : Word) 5#12 (1 : Word) (2 : Word))).tgt) (homeSlice (atomOf
    (AtomOp.casc (0 : Word) (9 : Word) 5#12 (1 : Word) (2 : Word))).tgt.dpa) (requester 0 RoleId.C) (BitVec.toNat
    5#12)).fst (homeSlice (atomOf (AtomOp.casc (0 : Word) (9 : Word) 5#12 (1 : Word) (2 : Word))).tgt.dpa)) (requester
    0 RoleId.C) (cascView (l1Purge (crowded (atomOf (AtomOp.casc (0 : Word) (9 : Word) 5#12 (1 : Word) (2 : Word)))) 0
    (atomOf (AtomOp.casc (0 : Word) (9 : Word) 5#12 (1 : Word) (2 : Word))).tgt) (homeSlice (atomOf (AtomOp.casc (0 :
    Word) (9 : Word) 5#12 (1 : Word) (2 : Word))).tgt.dpa) (requester 0 RoleId.C) (BitVec.toNat 5#12)).snd = (sl,
    false)) ∧
    (∃ sl, roleExists (standing launchable (Block.atomic (atomOf (AtomOp.casc (0 : Word) (9 : Word) 5#12 (1 : Word) (2
    : Word))))) 0 RoleId.C = true ∧ (getRole (standing launchable (Block.atomic (atomOf (AtomOp.casc (0 : Word) (9 :
    Word) 5#12 (1 : Word) (2 : Word))))) 0 RoleId.C).block = some (Block.atomic (atomOf (AtomOp.casc (0 : Word) (9 :
    Word) 5#12 (1 : Word) (2 : Word)))) ∧ (atomOf (AtomOp.casc (0 : Word) (9 : Word) 5#12 (1 : Word) (2 :
    Word))).reply = none ∧ (atomOf (AtomOp.casc (0 : Word) (9 : Word) 5#12 (1 : Word) (2 : Word))).op = AtomOp.casc (0
    : Word) (9 : Word) 5#12 (1 : Word) (2 : Word) ∧ (atomOf (AtomOp.casc (0 : Word) (9 : Word) 5#12 (1 : Word) (2 :
    Word))).tgt.peer = none ∧ atomReady (standing launchable (Block.atomic (atomOf (AtomOp.casc (0 : Word) (9 : Word)
    5#12 (1 : Word) (2 : Word))))) 0 RoleId.C (atomOf (AtomOp.casc (0 : Word) (9 : Word) 5#12 (1 : Word) (2 :
    Word))).tgt (atomOf (AtomOp.casc (0 : Word) (9 : Word) 5#12 (1 : Word) (2 : Word))).id = true ∧ (entryTab (slice
    (l1Purge (standing launchable (Block.atomic (atomOf (AtomOp.casc (0 : Word) (9 : Word) 5#12 (1 : Word) (2 :
    Word))))) 0 (atomOf (AtomOp.casc (0 : Word) (9 : Word) 5#12 (1 : Word) (2 : Word))).tgt) (homeSlice (atomOf
    (AtomOp.casc (0 : Word) (9 : Word) 5#12 (1 : Word) (2 : Word))).tgt.dpa)) (requester 0 RoleId.C) ≠ none ∨
    ctabReason (cascView (l1Purge (standing launchable (Block.atomic (atomOf (AtomOp.casc (0 : Word) (9 : Word) 5#12
    (1 : Word) (2 : Word))))) 0 (atomOf (AtomOp.casc (0 : Word) (9 : Word) 5#12 (1 : Word) (2 : Word))).tgt)
    (homeSlice (atomOf (AtomOp.casc (0 : Word) (9 : Word) 5#12 (1 : Word) (2 : Word))).tgt.dpa) (requester 0 RoleId.C)
    (BitVec.toNat 5#12)).snd (Machine.core (standing launchable (Block.atomic (atomOf (AtomOp.casc (0 : Word) (9 :
    Word) 5#12 (1 : Word) (2 : Word))))) 0).xid = none) ∧ admitReq (slice (cascView (l1Purge (standing launchable
    (Block.atomic (atomOf (AtomOp.casc (0 : Word) (9 : Word) 5#12 (1 : Word) (2 : Word))))) 0 (atomOf (AtomOp.casc (0
    : Word) (9 : Word) 5#12 (1 : Word) (2 : Word))).tgt) (homeSlice (atomOf (AtomOp.casc (0 : Word) (9 : Word) 5#12 (1
    : Word) (2 : Word))).tgt.dpa) (requester 0 RoleId.C) (BitVec.toNat 5#12)).fst (homeSlice (atomOf (AtomOp.casc (0 :
    Word) (9 : Word) 5#12 (1 : Word) (2 : Word))).tgt.dpa)) (requester 0 RoleId.C) (cascView (l1Purge (standing
    launchable (Block.atomic (atomOf (AtomOp.casc (0 : Word) (9 : Word) 5#12 (1 : Word) (2 : Word))))) 0 (atomOf
    (AtomOp.casc (0 : Word) (9 : Word) 5#12 (1 : Word) (2 : Word))).tgt) (homeSlice (atomOf (AtomOp.casc (0 : Word) (9
    : Word) 5#12 (1 : Word) (2 : Word))).tgt.dpa) (requester 0 RoleId.C) (BitVec.toNat 5#12)).snd = (sl, true) ∧
    atomReady (cascView (l1Purge (standing launchable (Block.atomic (atomOf (AtomOp.casc (0 : Word) (9 : Word) 5#12 (1
    : Word) (2 : Word))))) 0 (atomOf (AtomOp.casc (0 : Word) (9 : Word) 5#12 (1 : Word) (2 : Word))).tgt) (homeSlice
    (atomOf (AtomOp.casc (0 : Word) (9 : Word) 5#12 (1 : Word) (2 : Word))).tgt.dpa) (requester 0 RoleId.C)
    (BitVec.toNat 5#12)).fst 0 RoleId.C (atomOf (AtomOp.casc (0 : Word) (9 : Word) 5#12 (1 : Word) (2 : Word))).tgt
    (atomOf (AtomOp.casc (0 : Word) (9 : Word) 5#12 (1 : Word) (2 : Word))).id = true ∧ templateHeld (standing
    launchable (Block.atomic (atomOf (AtomOp.casc (0 : Word) (9 : Word) 5#12 (1 : Word) (2 : Word))))) (cascView
    (l1Purge (standing launchable (Block.atomic (atomOf (AtomOp.casc (0 : Word) (9 : Word) 5#12 (1 : Word) (2 :
    Word))))) 0 (atomOf (AtomOp.casc (0 : Word) (9 : Word) 5#12 (1 : Word) (2 : Word))).tgt) (homeSlice (atomOf
    (AtomOp.casc (0 : Word) (9 : Word) 5#12 (1 : Word) (2 : Word))).tgt.dpa) (requester 0 RoleId.C) (BitVec.toNat
    5#12)).snd = false ∧ plainLine (standing launchable (Block.atomic (atomOf (AtomOp.casc (0 : Word) (9 : Word) 5#12
    (1 : Word) (2 : Word))))) ((atomOf (AtomOp.casc (0 : Word) (9 : Word) 5#12 (1 : Word) (2 : Word))).tgt.dpa / 128)
    ∧ tabSorted (standing launchable (Block.atomic (atomOf (AtomOp.casc (0 : Word) (9 : Word) 5#12 (1 : Word) (2 :
    Word))))).deck = true ∧ Memory.wf (standing launchable (Block.atomic (atomOf (AtomOp.casc (0 : Word) (9 : Word)
    5#12 (1 : Word) (2 : Word))))).mem = true ∧ (atomOf (AtomOp.casc (0 : Word) (9 : Word) 5#12 (1 : Word) (2 :
    Word))).tgt.dpa % 8 = 0) ∧
    (roleExists (atomic busyAtom) 0 RoleId.C = true ∧ (getRole (atomic busyAtom) 0 RoleId.C).fin = false ∧ (getRole
    (atomic busyAtom) 0 RoleId.C).block = some (Block.atomic busyAtom) ∧ busyAtom.reply = some AtomReply.busy) ∧
    (∃ t va tgt leaf, roleExists (standing carved (Block.vamo lanes1)) 0 RoleId.C = true ∧ (getRole (standing carved
    (Block.vamo lanes1)) 0 RoleId.C).block = some (Block.vamo lanes1) ∧ lanes1.todo = [(3, va, 9#32)] ∧ lanes1.full =
    none ∧ lanes1.tag = none ∧ coreLoc (standing carved (Block.vamo lanes1)) 0 Want.both (!systemMode (standing carved
    (Block.vamo lanes1)) 0 RoleId.C) false true (BitVec.toNat va) 4 = Except.ok (t, Loc.dev tgt leaf) ∧ tgt.peer =
    none ∧ locBusy (standing carved (Block.vamo lanes1)) 0 RoleId.C (Loc.dev tgt leaf) = false ∧ atomReady (l1Purge t
    0 tgt) 0 RoleId.C tgt lanes1.id = true ∧ plainLine (l1Purge t 0 tgt) (tgt.dpa / 128) ∧ tabSorted t.deck = true ∧
    Memory.wf t.mem = true ∧ tgt.dpa % 4 = 0) :=
  ⟨by exact ⟨by decide, rfl, rfl, rfl, by decide, carved_plain _ (.inr (.inl ⟨.atomic _, rfl⟩)), by decide, by decide, rfl, rfl⟩,
    by exact ⟨by decide, rfl, rfl, rfl, by decide, carved_plain _ (.inr (.inl ⟨.atomic _, rfl⟩)), by decide, by decide, rfl, rfl⟩,
    by exact ⟨_, by decide, by decide, by decide, by decide, by decide, by decide, by decide, rfl⟩,
    by exact ⟨_, by decide, by decide, by decide, by decide, by decide, by decide, by decide, rfl, by decide, by decide, carved_plain _ (.inr (.inr ⟨.atomic _, rfl⟩)), by decide, by decide, by decide⟩,
    by decide,
    by exact ⟨_, _, _, _, by decide, by decide, rfl, by decide, by decide, rfl, rfl, by decide, by decide, carved_plain _ (.inr (.inl ⟨.vamo _, rfl⟩)), by decide, by decide, by decide⟩⟩

theorem witness_atomicReplies :
    (((∃ op dbl ra rs, amoWord = Instr.amo mA op dbl (4 : G6) ra rs ∧ [(1 : G6), (2 : G6)] = [ra, rs]) ∨ (∃ ra re rn,
    amoWord = Instr.cas mA (4 : G6) ra re rn ∧ [(1 : G6), (2 : G6)] = [ra, re, rn]) ∨ ∃ ra re rn k, amoWord =
    Instr.casc mA (4 : G6) ra re rn k ∧ [(1 : G6), (2 : G6)] = [ra, re, rn]) ∧ roleExists (atomic (replied amoWord
    (AtomOp.amo SliceOp.add true (9 : Word)) (AtomReply.old (5 : Word) 0#5))) (atomic (replied amoWord (AtomOp.amo
    SliceOp.add true (9 : Word)) (AtomReply.old (5 : Word) 0#5))).cur.fst (atomic (replied amoWord (AtomOp.amo
    SliceOp.add true (9 : Word)) (AtomReply.old (5 : Word) 0#5))).cur.snd = true ∧ (getRole (atomic (replied amoWord
    (AtomOp.amo SliceOp.add true (9 : Word)) (AtomReply.old (5 : Word) 0#5))) (atomic (replied amoWord (AtomOp.amo
    SliceOp.add true (9 : Word)) (AtomReply.old (5 : Word) 0#5))).cur.fst (atomic (replied amoWord (AtomOp.amo
    SliceOp.add true (9 : Word)) (AtomReply.old (5 : Word) 0#5))).cur.snd).block = some (Block.atomic (replied amoWord
    (AtomOp.amo SliceOp.add true (9 : Word)) (AtomReply.old (5 : Word) 0#5))) ∧ amoWord.wf = true ∧ (replied amoWord
    (AtomOp.amo SliceOp.add true (9 : Word)) (AtomReply.old (5 : Word) 0#5)).site.word = (encode amoWord).headD (0 :
    Word) ∧ (replied amoWord (AtomOp.amo SliceOp.add true (9 : Word)) (AtomReply.old (5 : Word) 0#5)).dest = destOf
    (Dst.g (4 : G6)) ∧ (replied amoWord (AtomOp.amo SliceOp.add true (9 : Word)) (AtomReply.old (5 : Word) 0#5)).reply
    = some (AtomReply.old (5 : Word) 0#5)) ∧
    (roleExists (withHandler (atomic (replied amoWord (AtomOp.casc (0 : Word) (0 : Word) 5#12 (0 : Word) (0 : Word))
    (AtomReply.invalid 3#4)))) 0 RoleId.C = true ∧ (getRole (withHandler (atomic (replied amoWord (AtomOp.casc (0 :
    Word) (0 : Word) 5#12 (0 : Word) (0 : Word)) (AtomReply.invalid 3#4)))) 0 RoleId.C).block = some (Block.atomic
    (replied amoWord (AtomOp.casc (0 : Word) (0 : Word) 5#12 (0 : Word) (0 : Word)) (AtomReply.invalid 3#4))) ∧
    (replied amoWord (AtomOp.casc (0 : Word) (0 : Word) 5#12 (0 : Word) (0 : Word)) (AtomReply.invalid 3#4)).op =
    AtomOp.casc (0 : Word) (0 : Word) 5#12 (0 : Word) (0 : Word) ∧ (replied amoWord (AtomOp.casc (0 : Word) (0 : Word)
    5#12 (0 : Word) (0 : Word)) (AtomReply.invalid 3#4)).reply = some (AtomReply.invalid 3#4)) ∧
    (roleExists (standing carved (Block.vamo lanesDone)) (standing carved (Block.vamo lanesDone)).cur.fst (standing
    carved (Block.vamo lanesDone)).cur.snd = true ∧ (getRole (standing carved (Block.vamo lanesDone)) (standing carved
    (Block.vamo lanesDone)).cur.fst (standing carved (Block.vamo lanesDone)).cur.snd).block = some (Block.vamo
    lanesDone) ∧ (Instr.vamo mA SliceOp.add (4 : V5) (1 : G6) (1 : V5) 0#2 (2 : V5) two).wf = true ∧
    lanesDone.site.word = (encode (Instr.vamo mA SliceOp.add (4 : V5) (1 : G6) (1 : V5) 0#2 (2 : V5) two)).headD (0 :
    Word) ∧ lanesDone.dest = destOf (Dst.v (4 : V5)) ∧ lanesDone.full = none ∧ lanesDone.todo = []) :=
  ⟨by exact ⟨.inl ⟨_, _, _, _, rfl, rfl⟩, by decide, by decide, by decide, by decide, by decide, by decide⟩,
    by decide,
    by decide⟩

theorem witness_memoryKeepsWhatIsWritten :
    (plainLine carved (2 ^ 33) ∧ tabSorted carved.deck = true ∧ Memory.wf carved.mem = true) ∧
    (plainLine carved (2 ^ 33) ∧ tabSorted carved.deck = true ∧ Memory.wf carved.mem = true) :=
  ⟨by exact ⟨carved_plain _ (.inl rfl), by decide, by decide⟩,
    by exact ⟨carved_plain _ (.inl rfl), by decide, by decide⟩⟩

theorem witness_loadsInFlight :
    (roleExists (loading (loadTo (Dest.g 4) 8 none part8)) 0 RoleId.C = true ∧ findLoad (loading (loadTo (Dest.g 4) 8
    none part8)) 0 RoleId.C 1 = some (loadTo (Dest.g 4) 8 none part8) ∧ (loadTo (Dest.g 4) 8 none part8).parts[0]? =
    some part8 ∧ part8.got = none ∧ writeAhead (Machine.core (loading (loadTo (Dest.g 4) 8 none part8)) 0) part8.tgt =
    false ∧ slicePast (Machine.core (loading (loadTo (Dest.g 4) 8 none part8)) 0) RoleId.C part8.tgt 1 = false ∧
    partPast (loadTo (Dest.g 4) 8 none part8) 0 part8.tgt = false ∧ part8.tgt.peer = none ∧ lineHeld (loading (loadTo
    (Dest.g 4) 8 none part8)) (part8.tgt.dpa / 128) = false ∧ (sliceRead (meetError (loading (loadTo (Dest.g 4) 8 none
    part8)) part8.tgt.cv (part8.tgt.dpa / 128) none) (policyOf part8.tgt) part8.tgt.cv (part8.tgt.dpa / 128)
    (part8.tgt.dpa % 128) part8.n).snd.snd = false) ∧
    (roleExists poisonedLoad 0 RoleId.C = true ∧ findLoad poisonedLoad 0 RoleId.C 1 = some (loadTo (Dest.g 4) 8 none
    part8) ∧ (loadTo (Dest.g 4) 8 none part8).parts[0]? = some part8 ∧ part8.got = none ∧ writeAhead (Machine.core
    poisonedLoad 0) part8.tgt = false ∧ slicePast (Machine.core poisonedLoad 0) RoleId.C part8.tgt 1 = false ∧
    partPast (loadTo (Dest.g 4) 8 none part8) 0 part8.tgt = false ∧ part8.tgt.peer = none ∧ lineHeld poisonedLoad
    (part8.tgt.dpa / 128) = false ∧ (sliceRead (meetError poisonedLoad part8.tgt.cv (part8.tgt.dpa / 128) none)
    (policyOf part8.tgt) part8.tgt.cv (part8.tgt.dpa / 128) (part8.tgt.dpa % 128) part8.n).snd.snd = true) ∧
    (roleExists (loading (loadTo (Dest.g 4) 8 none part8)) 0 RoleId.C = true ∧ findLoad (loading (loadTo (Dest.g 4) 8
    none part8)) 0 RoleId.C 1 = some (loadTo (Dest.g 4) 8 none part8) ∧ (loadTo (Dest.g 4) 8 none part8).parts[0]? =
    some part8 ∧ part8.got = none ∧ writeAhead (Machine.core (loading (loadTo (Dest.g 4) 8 none part8)) 0) part8.tgt =
    false ∧ slicePast (Machine.core (loading (loadTo (Dest.g 4) 8 none part8)) 0) RoleId.C part8.tgt 1 = false ∧
    partPast (loadTo (Dest.g 4) 8 none part8) 0 part8.tgt = false ∧ part8.tgt.peer = none ∧ lineHeld (loading (loadTo
    (Dest.g 4) 8 none part8)) (part8.tgt.dpa / 128) = false ∧ (sliceRead (meetError (loading (loadTo (Dest.g 4) 8 none
    part8)) part8.tgt.cv (part8.tgt.dpa / 128) (some (MemErr.mk false false 0#6 0#6 0#18 2#8))) (policyOf part8.tgt)
    part8.tgt.cv (part8.tgt.dpa / 128) (part8.tgt.dpa % 128) part8.n).snd.snd = true) ∧
    (roleExists (loading (loadTo (Dest.g 4) 8 none peerPart)) 0 RoleId.C = true ∧ findLoad (loading (loadTo (Dest.g 4)
    8 none peerPart)) 0 RoleId.C 1 = some (loadTo (Dest.g 4) 8 none peerPart) ∧ (loadTo (Dest.g 4) 8 none
    peerPart).parts[0]? = some peerPart ∧ peerPart.got = none ∧ writeAhead (Machine.core (loading (loadTo (Dest.g 4) 8
    none peerPart)) 0) peerPart.tgt = false ∧ slicePast (Machine.core (loading (loadTo (Dest.g 4) 8 none peerPart)) 0)
    RoleId.C peerPart.tgt 1 = false ∧ partPast (loadTo (Dest.g 4) 8 none peerPart) 0 peerPart.tgt = false ∧
    peerPart.tgt.peer = some 3 ∧ peerPart.tag = none) ∧
    (roleExists (loading (loadTo (Dest.v 4) 4 (some 2#64) gotPart)) 0 RoleId.C = true ∧ findLoad (loading (loadTo
    (Dest.v 4) 4 (some 2#64) gotPart)) 0 RoleId.C 1 = some (loadTo (Dest.v 4) 4 (some 2#64) gotPart) ∧ loadReady
    (loadTo (Dest.v 4) 4 (some 2#64) gotPart) = true ∧ (loadTo (Dest.v 4) 4 (some 2#64) gotPart).lanes = some 2#64 ∧
    (loadTo (Dest.v 4) 4 (some 2#64) gotPart).dest = Dest.v 4 ∧ 1 < 64 ∧ 1 ≤ (loadTo (Dest.v 4) 4 (some 2#64)
    gotPart).esz ∧ (loadTo (Dest.v 4) 4 (some 2#64) gotPart).esz ≤ 4) ∧
    (plainLine State.reset 5 ∧ 128 * 5 < 2 ^ 40 ∧ tabGet State.reset.deck 5 = none ∧ bit (reg State.reset (rEhbase
    (ctrlOf (128 * 5)))) 0 = false) :=
  ⟨by decide,
    by decide,
    by decide,
    by decide,
    by decide,
    by exact ⟨reset_plain, by decide, by decide, by decide⟩⟩

theorem witness_writesInFlight :
    (coreExists (writing (write8 Place.bank)) 0 = true ∧ findWrite (Machine.core (writing (write8 Place.bank)) 0) 1 =
    some (write8 Place.bank) ∧ (write8 Place.bank).performed = false ∧ writeReady (Machine.core (writing (write8
    Place.bank)) 0) (write8 Place.bank) = true ∧ (write8 Place.bank).place = Place.bank) ∧
    (coreExists (writing (write8 Place.l1)) 0 = true ∧ findWrite (Machine.core (writing (write8 Place.l1)) 0) 1 = some
    (write8 Place.l1) ∧ (write8 Place.l1).performed = false ∧ writeReady (Machine.core (writing (write8 Place.l1)) 0)
    (write8 Place.l1) = true ∧ (write8 Place.l1).place = Place.l1) ∧
    (coreExists (writing (write8 Place.slice)) 0 = true ∧ findWrite (Machine.core (writing (write8 Place.slice)) 0) 1
    = some (write8 Place.slice) ∧ (write8 Place.slice).performed = false ∧ writeReady (Machine.core (writing (write8
    Place.slice)) 0) (write8 Place.slice) = true ∧ (write8 Place.slice).place = Place.slice ∧ (write8
    Place.slice).w.tgt.peer = none ∧ lineHeld (writing (write8 Place.slice)) ((write8 Place.slice).w.tgt.dpa / 128) =
    false ∧ plainLine (writing (write8 Place.slice)) ((write8 Place.slice).w.tgt.dpa / 128) ∧ tabSorted (writing
    (write8 Place.slice)).deck = true ∧ Memory.wf (writing (write8 Place.slice)).mem = true) ∧
    (coreExists (writing peerWrite) 0 = true ∧ findWrite (Machine.core (writing peerWrite) 0) 1 = some peerWrite ∧
    peerWrite.performed = false ∧ writeReady (Machine.core (writing peerWrite) 0) peerWrite = true ∧ peerWrite.place =
    Place.slice ∧ peerWrite.w.tgt.peer = some 3 ∧ peerWrite.tag = none) ∧
    (coreExists (writing doneWrite) 0 = true ∧ findWrite (Machine.core (writing doneWrite) 0) 1 = some doneWrite ∧
    doneWrite.performed = true ∧ doneWrite.precise = false ∧ doneWrite.refused = none) ∧
    (coreExists (standing (writing preciseWrite) (Block.stores 1 4)) 0 = true ∧ findWrite (Machine.core (standing
    (writing preciseWrite) (Block.stores 1 4)) 0) 1 = some preciseWrite ∧ preciseWrite.performed = true ∧
    preciseWrite.precise = true ∧ preciseWrite.refused = none ∧ (getRole (standing (writing preciseWrite)
    (Block.stores 1 4)) 0 (firstRole preciseWrite.roles)).block = some (Block.stores 1 4)) :=
  ⟨by decide,
    by decide,
    by exact ⟨by decide, by decide, by decide, by decide, by decide, by decide, by decide, writing_plain _, by decide, by decide⟩,
    by decide,
    by decide,
    by decide⟩

theorem witness_writesInFlight_2 :
    (coreExists (withHandler (standing (writing refusedWrite) (Block.stores 1 4))) 0 = true ∧ findWrite (Machine.core
    (withHandler (standing (writing refusedWrite) (Block.stores 1 4))) 0) 1 = some refusedWrite ∧
    refusedWrite.performed = true ∧ refusedWrite.precise = true ∧ refusedWrite.refused = some (64 : Word) ∧ (getRole
    (withHandler (standing (writing refusedWrite) (Block.stores 1 4))) 0 (firstRole refusedWrite.roles)).block = some
    (Block.stores 1 4)) ∧
    (255 < 256 ∧ 2 ^ 20 ≤ (slice (setSlice State.reset 255 missing) 255).misses) :=
  ⟨by decide,
    by decide⟩

theorem witness_nearWindowSlots :
    (Want.both ≠ Want.fetch ∧ coreExists carved 959 = true ∧ 959 < 960 ∧ 0 < 128 ∧ 128 ≤ 128 ∧ 1048448 = 1048448 ∧
    1048448 < 2097152 ∧ bnd0 (Machine.core carved 959) ≤ 1048448 ∧ 1048448 + 128 ≤ bnd1 (Machine.core carved 959)) ∧
    (Want.both ≠ Want.fetch ∧ coreExists carved 959 = true ∧ 959 < 960 ∧ 0 < 128 ∧ 128 ≤ 128 ∧ 3 < 48 ∧ 524288 <
    2097152 ∧ 275251200 = 268435456 + 3 * 2097152 + 524288 ∧ coreExists carved (48 * (959 / 48 : Nat) + 3) = true ∧
    bnd0 (Machine.core carved (48 * (959 / 48 : Nat) + 3)) ≤ 524288 ∧ 524288 + 128 ≤ bnd1 (Machine.core carved (48 *
    (959 / 48 : Nat) + 3))) ∧
    (Want.both ≠ Want.fetch ∧ coreExists carved 0 = true ∧ 0 < 960 ∧ 0 < 128 ∧ 128 ≤ 128 ∧ 8388480 < 1073741824 ∧
    1082130304 = 1073741824 + 8388480 ∧ 8388480 + 128 ≤ carveLimit carved (dieOf 0)) ∧
    (Want.write ≠ Want.fetch ∧ coreExists carved 959 = true ∧ 959 < 960 ∧ 0 < 128 ∧ 128 ≤ 128 ∧ 0 < 4 ∧ 0 < 1073741824
    ∧ 2147483648 = 2147483648 + 0 * 1073741824 + 0 ∧ 0 + 128 ≤ carveLimit carved 0) ∧
    (Want.both ≠ Want.fetch ∧ coreExists carved 959 = true ∧ 959 < 960 ∧ 0 < 128 ∧ 128 ≤ 128 ∧ (1048449 < 2097152 →
    1048449 < bnd0 (Machine.core carved 959) ∨ bnd1 (Machine.core carved 959) < 1048449 + 128) ∧ 1048449 < 268435456) ∧
    (Want.both ≠ Want.fetch ∧ coreExists carved 959 = true ∧ 959 < 960 ∧ 0 < 1 ∧ 1 ≤ 128 ∧ 369098752 ≤ 369098752 ∧
    369098752 < 1073741824) :=
  ⟨by decide,
    by decide,
    by decide,
    by decide,
    by decide,
    by decide⟩

theorem witness_nearWindowSlots_2 :
    Want.both ≠ Want.fetch ∧ coreExists carved 959 = true ∧ 959 < 960 ∧ 0 < 1 ∧ 1 ≤ 128 ∧ 6442450944 ≤ 6442450944 := by
  decide

theorem witness_pageWalk :
    (bit (0 : Word) 0 = false) ∧
    (bit (3 : Word) 0 = true ∧ bit (3 : Word) 1 = true ∧ leafSize 12 (bits (3 : Word) 3 2) = some 65536 ∧ bits (3 :
    Word) 15 14 ≠ 3) ∧
    (bit (1 : Word) 0 = true ∧ bit (1 : Word) 1 = false ∧ bits (1 : Word) 63 52 = 0 ∧ bits (1 : Word) 19 4 = 0 ∧ bits
    (1 : Word) 3 2 ≤ 1 ∧ (bits (1 : Word) 3 2 = 1 → bits (1 : Word) 51 20 % 512 = 0) ∧ (if bits (1 : Word) 3 2 = 0
    then 9 else 18) + 12 ≤ 57 ∧ hasMem carved (bits (1 : Word) 51 20 * 4096) = true) ∧
    (bits (0 : Word) 63 52 = devid carved ∧ bit (0 : Word) 13 = false ∧ (Want.both = Want.read ∧ bit (0 : Word) 4 =
    false ∨ Want.both = Want.write ∧ bit (0 : Word) 5 = false ∨ Want.both = Want.both ∧ (bit (0 : Word) 4 = false ∨
    bit (0 : Word) 5 = false) ∨ Want.both = Want.fetch ∧ bit (0 : Word) 6 = false ∨ true = true ∧ bit (0 : Word) 7 =
    false)) ∧
    (lookup paged (coreUnit (Machine.core paged 0)) 4660 = Except.ok leaf2 ∧ leafCheck paged leaf2.leaf leaf2.dpa
    Want.write true = none ∧ tlbFind (coreUnit (Machine.core paged 0)).tlb (coreUnit (Machine.core paged 0)).xid 4660
    = none ∧ entryHeld paged leaf2.lptr = false ∧ entryBad paged leaf2.lptr = false) ∧
    (lookup carved (coreUnit (Machine.core carved 0)) 4660 = Except.error (XErr.xlate 1 0)) :=
  ⟨by decide,
    by decide,
    by decide,
    by decide,
    by exact ⟨rfl, by decide, by decide, by decide, by decide⟩,
    by rfl⟩

theorem witness_snapshotWords :
    (∃ p, ready (snapping []) (Instr.snopen mA (5 : G6) (0 : G6) (2 : G6) (0 : G6)) mA 1 = true ∧ usable (snapping [])
    [Src.g (0 : G6), Src.g (2 : G6), Src.g (0 : G6)] (Dst.g (5 : G6)) = true ∧ stage (snapping []).cur.fst (snapping
    []).cur.snd (snapping []) = 0 ∧ snapBusy (snapping []) (snapping []).cur.fst (snapping []).cur.snd = false ∧
    snopenCheck (snapping []) (snapping []).cur.fst (!systemMode (snapping []) (snapping []).cur.fst (snapping
    []).cur.snd) (BitVec.toNat (src (snapping []) (snapping []) (0 : G6)).snd.val % 2 ^ 57) (BitVec.toNat (src
    (snapping []) (src (snapping []) (snapping []) (0 : G6)).fst (2 : G6)).snd.val) (BitVec.toNat (src (snapping [])
    (src (snapping []) (src (snapping []) (snapping []) (0 : G6)).fst (2 : G6)).fst (0 : G6)).snd.val) = Except.ok p ∧
    relReady (snapping []) (snapping []).cur.fst (snapping []).cur.snd Scope.dev = true ∧ pagesHeld (snapping [])
    p.pages = false) ∧
    (ready (flying (SnAct.opening 0 level0) (snapping [])) (Instr.snopen mA (5 : G6) (0 : G6) (2 : G6) (0 : G6)) mA 1
    = true ∧ usable (flying (SnAct.opening 0 level0) (snapping [])) [Src.g (0 : G6), Src.g (2 : G6), Src.g (0 : G6)]
    (Dst.g (5 : G6)) = true ∧ stage (flying (SnAct.opening 0 level0) (snapping [])).cur.fst (flying (SnAct.opening 0
    level0) (snapping [])).cur.snd (flying (SnAct.opening 0 level0) (snapping [])) ≠ 0 ∧ ownFlight (flying
    (SnAct.opening 0 level0) (snapping [])) (flying (SnAct.opening 0 level0) (snapping [])).cur.fst (flying
    (SnAct.opening 0 level0) (snapping [])).cur.snd = some (flight (SnAct.opening 0 level0)) ∧ (flight (SnAct.opening
    0 level0)).act = SnAct.opening (BitVec.toNat (src (flying (SnAct.opening 0 level0) (snapping [])) (src (flying
    (SnAct.opening 0 level0) (snapping [])) (src (flying (SnAct.opening 0 level0) (snapping [])) (flying
    (SnAct.opening 0 level0) (snapping [])) (0 : G6)).fst (2 : G6)).fst (0 : G6)).snd.val) level0 ∧ (flight
    (SnAct.opening 0 level0)).core = (flying (SnAct.opening 0 level0) (snapping [])).cur.fst ∧ (flight (SnAct.opening
    0 level0)).role = (flying (SnAct.opening 0 level0) (snapping [])).cur.snd ∧ unacked (Machine.core (flying
    (SnAct.opening 0 level0) (snapping [])) (flying (SnAct.opening 0 level0) (snapping [])).cur.fst) (flying
    (SnAct.opening 0 level0) (snapping [])).cur.snd Scope.dev (flight (SnAct.opening 0 level0)).bound = false ∧
    runDirty (purgeRun (src (flying (SnAct.opening 0 level0) (snapping [])) (src (flying (SnAct.opening 0 level0)
    (snapping [])) (src (flying (SnAct.opening 0 level0) (snapping [])) (flying (SnAct.opening 0 level0) (snapping
    [])) (0 : G6)).fst (2 : G6)).fst (0 : G6)).fst level0.dpa level0.len) level0.dpa level0.len = false ∧ levelPending
    (purgeRun (src (flying (SnAct.opening 0 level0) (snapping [])) (src (flying (SnAct.opening 0 level0) (snapping
    [])) (src (flying (SnAct.opening 0 level0) (snapping [])) (flying (SnAct.opening 0 level0) (snapping [])) (0 :
    G6)).fst (2 : G6)).fst (0 : G6)).fst level0.dpa level0.len) (BitVec.toNat (src (flying (SnAct.opening 0 level0)
    (snapping [])) (src (flying (SnAct.opening 0 level0) (snapping [])) (src (flying (SnAct.opening 0 level0)
    (snapping [])) (flying (SnAct.opening 0 level0) (snapping [])) (0 : G6)).fst (2 : G6)).fst (0 : G6)).snd.val)
    (snDepth (flying (SnAct.opening 0 level0) (snapping [])) (BitVec.toNat (src (flying (SnAct.opening 0 level0)
    (snapping [])) (src (flying (SnAct.opening 0 level0) (snapping [])) (src (flying (SnAct.opening 0 level0)
    (snapping [])) (flying (SnAct.opening 0 level0) (snapping [])) (0 : G6)).fst (2 : G6)).fst (0 : G6)).snd.val) + 1)
    = false) ∧
    (15 < 16) ∧
    (15 ≤ 15 ∧ (0 % 4096 ≠ 0 ∨ 0 % 4096 ≠ 0 ∨ 0 = 0 ∨ 2 ^ 36 < 0 ∨ NW < 0 + 0)) ∧
    (1 ≤ 15 ∧ 0 % 4096 = 0 ∧ 4096 % 4096 = 0 ∧ 4096 ≠ 0 ∧ 4096 ≤ 2 ^ 36 ∧ 0 + 4096 ≤ NW ∧ notOwner (underXid 9#16
    (snapping [level0])) 0 1 = true) ∧
    (1 ≤ 15 ∧ 0 % 4096 = 0 ∧ 4096 % 4096 = 0 ∧ 4096 ≠ 0 ∧ 4096 ≤ 2 ^ 36 ∧ 0 + 4096 ≤ NW ∧ notOwner (snapping [level0,
    level0, level0, level0]) 0 1 = false ∧ snDepth (snapping [level0, level0, level0, level0]) 1 = 4) :=
  ⟨by exact ⟨_, by decide, by decide, by decide, by decide, rfl, by decide, by decide⟩,
    by decide,
    by decide,
    by decide,
    by decide,
    by decide⟩

theorem witness_snapshotWords_2 :
    (1 ≤ 15 ∧ 8192 % 4096 = 0 ∧ 4096 % 4096 = 0 ∧ 4096 ≠ 0 ∧ 4096 ≤ 2 ^ 36 ∧ 8192 + 4096 ≤ NW ∧ notOwner (snapping
    [level0]) 0 1 = false ∧ snDepth (snapping [level0]) 1 ≠ 4 ∧ (snCtx (snapping [level0]) 1).levels.getLast? = some
    level0 ∧ ¬(level0.base ≤ 8192 ∧ 8192 + 4096 ≤ level0.base + level0.len)) ∧
    (∃ ps, 0 ≤ 15 ∧ 2093056 % 4096 = 0 ∧ 8192 % 4096 = 0 ∧ 8192 ≠ 0 ∧ 8192 ≤ 2 ^ 36 ∧ 2093056 + 8192 ≤ NW ∧ notOwner
    parted 0 0 = false ∧ snDepth parted 0 ≠ 4 ∧ (∀ (l : SnLevel), (snCtx parted 0).levels.getLast? = some l → l.base ≤
    2093056 ∧ 2093056 + 8192 ≤ l.base + l.len) ∧ rangeWalk parted 0 true 2093056 8192 = Except.ok ps ∧ contiguous
    ((Option.map (fun p => p.fst.snd.snd.fst) ps.head?).getD 0) ps = false) ∧
    (∃ ps, 0 ≤ 15 ∧ 0 % 4096 = 0 ∧ 4096 % 4096 = 0 ∧ 4096 ≠ 0 ∧ 4096 ≤ 2 ^ 36 ∧ 0 + 4096 ≤ NW ∧ notOwner packedPage 0
    0 = false ∧ snDepth packedPage 0 ≠ 4 ∧ (∀ (l : SnLevel), (snCtx packedPage 0).levels.getLast? = some l → l.base ≤
    0 ∧ 0 + 4096 ≤ l.base + l.len) ∧ rangeWalk packedPage 0 true 0 4096 = Except.ok ps ∧ contiguous ((Option.map (fun
    p => p.fst.snd.snd.fst) ps.head?).getD 0) ps = true ∧ (ps.any fun p => p.snd.cmp) = true) ∧
    (∃ ps, 0 ≤ 15 ∧ 4096 % 4096 = 0 ∧ 4096 % 4096 = 0 ∧ 4096 ≠ 0 ∧ 4096 ≤ 2 ^ 36 ∧ 4096 + 4096 ≤ NW ∧ notOwner
    (snapping [level0]) 0 0 = false ∧ snDepth (snapping [level0]) 0 ≠ 4 ∧ (∀ (l : SnLevel), (snCtx (snapping [level0])
    0).levels.getLast? = some l → l.base ≤ 4096 ∧ 4096 + 4096 ≤ l.base + l.len) ∧ rangeWalk (snapping [level0]) 0 true
    4096 4096 = Except.ok ps ∧ contiguous ((Option.map (fun p => p.fst.snd.snd.fst) ps.head?).getD 0) ps = true ∧
    (ps.any fun p => p.snd.cmp) = false ∧ overlapsOther (snapping [level0]) ((Option.map (fun p => p.fst.snd.snd.fst)
    ps.head?).getD 0) 4096 0 = true) ∧
    ((Instr.snacc mA (3 : G6) = Instr.snacc mA (3 : G6) ∧ false = false ∨ Instr.snacc mA (3 : G6) = Instr.snrej mA (3
    : G6) ∧ false = true) ∧ ready (snapping [level0]) (Instr.snacc mA (3 : G6)) mA 1 = true ∧ usable (snapping
    [level0]) [Src.g (3 : G6)] Dst.none = true ∧ stage (snapping [level0]).cur.fst (snapping [level0]).cur.snd
    (snapping [level0]) = 0 ∧ snapBusy (snapping [level0]) (snapping [level0]).cur.fst (snapping [level0]).cur.snd =
    false ∧ bits (src (snapping [level0]) (snapping [level0]) (3 : G6)).snd.val 63 6 = 0 ∧ notOwner (snapping
    [level0]) (snapping [level0]).cur.fst (bits (src (snapping [level0]) (snapping [level0]) (3 : G6)).snd.val 5 2) =
    false ∧ snDepth (snapping [level0]) (bits (src (snapping [level0]) (snapping [level0]) (3 : G6)).snd.val 5 2) =
    bits (src (snapping [level0]) (snapping [level0]) (3 : G6)).snd.val 1 0 + 1 ∧ relReady (snapping [level0])
    (snapping [level0]).cur.fst (snapping [level0]).cur.snd Scope.dev = true) ∧
    ((Instr.snrej mA (3 : G6) = Instr.snacc mA (3 : G6) ∧ true = false ∨ Instr.snrej mA (3 : G6) = Instr.snrej mA (3 :
    G6) ∧ true = true) ∧ ready (flying (SnAct.ending 1 true) (snapping [level0])) (Instr.snrej mA (3 : G6)) mA 1 =
    true ∧ usable (flying (SnAct.ending 1 true) (snapping [level0])) [Src.g (3 : G6)] Dst.none = true ∧ stage (flying
    (SnAct.ending 1 true) (snapping [level0])).cur.fst (flying (SnAct.ending 1 true) (snapping [level0])).cur.snd
    (flying (SnAct.ending 1 true) (snapping [level0])) ≠ 0 ∧ ownFlight (flying (SnAct.ending 1 true) (snapping
    [level0])) (flying (SnAct.ending 1 true) (snapping [level0])).cur.fst (flying (SnAct.ending 1 true) (snapping
    [level0])).cur.snd = some (flight (SnAct.ending 1 true)) ∧ (flight (SnAct.ending 1 true)).act = SnAct.ending (bits
    (src (flying (SnAct.ending 1 true) (snapping [level0])) (flying (SnAct.ending 1 true) (snapping [level0])) (3 :
    G6)).snd.val 5 2) true ∧ (flight (SnAct.ending 1 true)).core = (flying (SnAct.ending 1 true) (snapping
    [level0])).cur.fst ∧ (flight (SnAct.ending 1 true)).role = (flying (SnAct.ending 1 true) (snapping
    [level0])).cur.snd ∧ unacked (Machine.core (flying (SnAct.ending 1 true) (snapping [level0])) (flying
    (SnAct.ending 1 true) (snapping [level0])).cur.fst) (flying (SnAct.ending 1 true) (snapping [level0])).cur.snd
    Scope.dev (flight (SnAct.ending 1 true)).bound = false) :=
  ⟨by decide,
    by exact ⟨_, by decide, by decide, by decide, by decide, by decide, by decide, by decide, by decide, (by intro l h; cases h), rfl, by decide⟩,
    by exact ⟨_, by decide, by decide, by decide, by decide, by decide, by decide, by decide, by decide, (by intro l h; cases h), rfl, by decide, by decide⟩,
    by exact ⟨_, by decide, by decide, by decide, by decide, by decide, by decide, by decide, by decide, (by intro l h; cases h), rfl, by decide, by decide, by decide⟩,
    by decide,
    by decide⟩

theorem witness_snapshotWords_3 :
    (ready (snapping [level0]) (Instr.snq mA (5 : G6) (2 : G6)) mA 1 = true ∧ usable (snapping [level0]) [Src.g (2 :
    G6)] (Dst.g (5 : G6)) = true ∧ 15 < BitVec.toNat (src (snapping [level0]) (snapping [level0]) (2 : G6)).snd.val) ∧
    (ready (snapping [level0]) (Instr.snq mA (5 : G6) (4 : G6)) mA 1 = true ∧ usable (snapping [level0]) [Src.g (4 :
    G6)] (Dst.g (5 : G6)) = true ∧ BitVec.toNat (src (snapping [level0]) (snapping [level0]) (4 : G6)).snd.val ≤ 15) :=
  ⟨by decide,
    by decide⟩

theorem witness_snapshotLines :
    (plainButSnaps (roomy [level0]) 49152 ∧ (roomy [level0]).marks = [] ∧ tabSorted (roomy [level0]).deck = true ∧
    Memory.wf (roomy [level0]).mem = true ∧ needsShadow (roomy [level0]) 49152 = some (1, 1) ∧ 1 < 16 ∧ 1 ≤ 4 ∧
    shadowCount (roomy [level0]) (homeSlice (128 * 49152)) < shadowCap (roomy [level0]) (homeSlice (128 * 49152))) ∧
    (plainButSnaps (snapping [level0]) 49152 ∧ (snapping [level0]).marks = [] ∧ tabSorted (snapping [level0]).deck =
    true ∧ Memory.wf (snapping [level0]).mem = true ∧ needsShadow (snapping [level0]) 49152 = some (1, 1) ∧ 1 < 16 ∧ 1
    ≤ 4 ∧ shadowCap (snapping [level0]) (homeSlice (128 * 49152)) ≤ shadowCount (snapping [level0]) (homeSlice (128 *
    49152))) ∧
    (plainButSnaps (closing true) 49152 ∧ tabSorted (closing true).deck = true ∧ Memory.wf (closing true).mem = true ∧
    0 < 4 ∧ (closing true).snFlight = none ∧ (closing true).shadows = [shadow0] ∧ shadow0.line = 49152 ∧ shadow0.ctx =
    1 ∧ shadow0.tag = none ∧ shadow0.bad = 0#2 ∧ (closing true).marks = [SnMark.mk 1 1 1 true] ∧ (SnMark.mk 1 1 1
    true).ctx = 1 ∧ (SnMark.mk 1 1 1 true).lvl = shadow0.lvl ∧ shadow0.stamp < (SnMark.mk 1 1 1 true).num ∧ homeDie
    (128 * 49152) = 0) ∧
    (plainButSnaps (closing false) 49152 ∧ tabSorted (closing false).deck = true ∧ Memory.wf (closing false).mem =
    true ∧ 0 < 4 ∧ (closing false).snFlight = none ∧ (closing false).shadows = [shadow0] ∧ shadow0.line = 49152 ∧
    shadow0.ctx = 1 ∧ shadow0.tag = none ∧ shadow0.bad = 0#2 ∧ (closing false).marks = [SnMark.mk 1 1 1 false] ∧
    (SnMark.mk 1 1 1 false).ctx = 1 ∧ (SnMark.mk 1 1 1 false).lvl = shadow0.lvl ∧ shadow0.stamp < (SnMark.mk 1 1 1
    false).num ∧ homeDie (128 * 49152) = 0) :=
  ⟨by exact ⟨⟨by decide, by decide, ofNone (by decide), rfl, rfl, ofNone (by decide)⟩, by decide, by decide, by decide, by decide, by decide, by decide, by decide⟩,
    by exact ⟨⟨by decide, by decide, ofNone (by decide), rfl, rfl, ofNone (by decide)⟩, by decide, by decide, by decide, by decide, by decide, by decide, by decide⟩,
    by exact ⟨⟨by decide, by decide, ofNone (by decide), rfl, rfl, ofNone (by decide)⟩, by decide, by decide, by decide, by decide, by decide, by decide, by decide, by decide, by decide, by decide, by decide, by decide, by decide⟩,
    by exact ⟨⟨by decide, by decide, ofNone (by decide), rfl, rfl, ofNone (by decide)⟩, by decide, by decide, by decide, by decide, by decide, by decide, by decide, by decide, by decide, by decide, by decide, by decide, by decide⟩⟩

theorem witness_stepWords :
    (ready voter (Instr.vote mA (2 : G6)) mA 1 = true ∧ usable voter [Src.g (2 : G6)] Dst.none = true ∧ isSystem
    voter.cur.fst = false ∧ voteLinked voter voter.cur.fst = true ∧ stage voter.cur.fst voter.cur.snd voter = 0 ∧
    relReady voter voter.cur.fst voter.cur.snd Scope.sys = true) ∧
    (ready (atStage voter 1) (Instr.vote mA (2 : G6)) mA 1 = true ∧ usable (atStage voter 1) [Src.g (2 : G6)] Dst.none
    = true ∧ isSystem (atStage voter 1).cur.fst = false ∧ voteLinked (atStage voter 1) (atStage voter 1).cur.fst =
    true ∧ stage (atStage voter 1).cur.fst (atStage voter 1).cur.snd (atStage voter 1) ≠ 0 ∧ relSettled (atStage voter
    1) (atStage voter 1).cur.fst (atStage voter 1).cur.snd = true ∧ coreWrites (atStage voter 1) (atStage voter
    1).cur.fst (getRole (atStage voter 1) (atStage voter 1).cur.fst (atStage voter 1).cur.snd).relSys = false) ∧
    (ready (withHandler (keyed openKs three)) (Instr.vote mA (2 : G6)) mA 1 = true ∧ usable (withHandler (keyed openKs
    three)) [Src.g (2 : G6)] Dst.none = true ∧ (isSystem (withHandler (keyed openKs three)).cur.fst = true ∨
    voteLinked (withHandler (keyed openKs three)) (withHandler (keyed openKs three)).cur.fst = false)) ∧
    (ready (keyed decidedKs three) (Instr.vwait mA (2 : G6)) mA 1 = true ∧ usable (keyed decidedKs three) [] (Dst.g (2
    : G6)) = true ∧ (awaitedGeneration (keyed decidedKs three) = 0 ∨ bit (keyed decidedKs three).ks.lastdec 2 = true ∧
    (awaitedGeneration (keyed decidedKs three) ≤ bits (keyed decidedKs three).ks.lastdec 63 16 ∨ (keyed decidedKs
    three).ks.state = KsState.idle)) ∧ acqReady (keyed decidedKs three) (keyed decidedKs three).cur.fst (keyed
    decidedKs three).cur.snd Scope.sys = true) ∧
    (ready (keyed openKs three) (Instr.vwait mA (2 : G6)) mA 1 = true ∧ usable (keyed openKs three) [] (Dst.g (2 :
    G6)) = true ∧ ¬(awaitedGeneration (keyed openKs three) = 0 ∨ bit (keyed openKs three).ks.lastdec 2 = true ∧
    (awaitedGeneration (keyed openKs three) ≤ bits (keyed openKs three).ks.lastdec 63 16 ∨ (keyed openKs
    three).ks.state = KsState.idle))) ∧
    (ready (keyed openKs three) (Instr.vflag mA true false) mA 1 = true) :=
  ⟨by decide,
    by decide,
    by decide,
    by decide,
    by decide,
    by decide⟩

theorem witness_stepWords_2 :
    ready (keyed openKs three) (Instr.gen mA (2 : G6) 2#2) mA 1 = true ∧ usable (keyed openKs three) [] (Dst.g (2 :
    G6)) = true := by
  decide

theorem witness_keystoneTransitions :
    (portUp (ksState (leafKs KsState.voted)) 3 = false ∧ ((∃ gn fl dev, Instr.dack 3 8#48 0#12 = Instr.voteMessage 3
    gn fl dev) ∨ (∃ o gn next fl, Instr.dack 3 8#48 0#12 = Instr.decideMessage 3 o gn next fl) ∨ (∃ next dev,
    Instr.dack 3 8#48 0#12 = Instr.dack 3 next dev) ∨ ∃ next, Instr.dack 3 8#48 0#12 = Instr.openMessage 3 next)) ∧
    ((ksState twoVotes).ks.state = KsState.open_ ∧ (ksState twoVotes).ks.votes.toNat = bits (ksState twoVotes).ks.cfg
    11 0 ∧ (∀ (j : Nat), j < 4 → bit (ksState twoVotes).ks.cfg (52 + j) = true → (tabGet (ksState
    twoVotes).ks.childVotes j).isSome = true) ∧ verPending (ksState twoVotes) = false ∧ sspOn (ksState twoVotes) =
    false) ∧
    ((ksState childVote).ks.state = KsState.open_ ∧ (ksState childVote).ks.votes.toNat = bits (ksState
    childVote).ks.cfg 11 0 ∧ (∀ (j : Nat), j < 4 → bit (ksState childVote).ks.cfg (52 + j) = true → (tabGet (ksState
    childVote).ks.childVotes j).isSome = true) ∧ verPending (ksState childVote) = false ∧ sspOn (ksState childVote) =
    false) ∧
    ((ksState openKs).ks.state = KsState.open_ ∧ (ksState openKs).ks.votes.toNat ≠ bits (ksState openKs).ks.cfg 11 0) ∧
    ((ksState timedOut).ks.state = KsState.open_ ∧ (ksState timedOut).ks.timer = true ∧ bits (ksState timedOut).ks.cfg
    31 16 ≠ 0 ∧ bit (ksState timedOut).ks.cfg 63 = false ∧ sspOn (ksState timedOut) = false) ∧
    (5 < 12 ∧ portUp (linked 5 2 (ksState (leafKs KsState.open_))) 5 = true) :=
  ⟨by exact ⟨by decide, .inr (.inr (.inl ⟨_, _, rfl⟩))⟩,
    by decide,
    by decide,
    by decide,
    by decide,
    by decide⟩

theorem witness_keystoneTransitions_2 :
    (4 < 12 ∧ portUp (linked 4 2 (ksState (leafKs KsState.open_))) 4 = true) ∧
    (5 < 12 ∧ portUp (linked 5 2 (ksState (leafKs KsState.voted))) 5 = true) ∧
    (3 < 12 ∧ portUp (linked 3 2 (ksState (leafKs KsState.voted))) 3 = true) ∧
    (3 < 12 ∧ portUp (linked 3 2 (ksState (leafKs KsState.voted))) 3 = true) ∧
    (3 < 12 ∧ portUp (linked 3 2 (ksState (leafKs KsState.idle))) 3 = true) ∧
    (2 < 12 ∧ portUp (linked 2 2 (ksState (leafKs KsState.idle))) 2 = true) :=
  ⟨by decide,
    by decide,
    by decide,
    by decide,
    by decide,
    by decide⟩

theorem witness_keystoneTransitions_3 :
    (3 < 12 ∧ portUp (linked 3 2 (ksState (leafKs KsState.held))) 3 = true) ∧
    (5 < 12 ∧ portUp (linked 5 2 (ksState lastAck)) 5 = true) ∧
    (4 < 12 ∧ portUp (linked 4 2 (ksState lastAck)) 4 = true) ∧
    ((ksState owing).ks.owed = true ∧ ((ksState owing).ks.state = KsState.held ∨ (ksState owing).ks.state =
    KsState.idle) ∧ (ksState owing).ks.dackw = 0#4 ∧ ((ksState owing).ks.next = 0#48 ∨ List.length (ksState
    owing).ks.abw ≤ 7)) ∧
    ((ksState rootHeld).ks.owed = true ∧ ((ksState rootHeld).ks.state = KsState.held ∨ (ksState rootHeld).ks.state =
    KsState.idle) ∧ (ksState rootHeld).ks.dackw = 0#4 ∧ ((ksState rootHeld).ks.next = 0#48 ∨ List.length (ksState
    rootHeld).ks.abw ≤ 7)) ∧
    (3 < 12 ∧ portUp (linked 3 2 (ksState (leafKs KsState.held))) 3 = true) :=
  ⟨by decide,
    by decide,
    by decide,
    by decide,
    by decide,
    by decide⟩

theorem witness_keystoneTransitions_4 :
    (3 < 12 ∧ portUp (linked 3 2 (ksState (leafKs KsState.idle))) 3 = true) ∧
    (3 < 12 ∧ portUp (linked 3 2 (ksState (leafKs KsState.voted))) 3 = true) ∧
    (2 < 12 ∧ portUp (linked 2 2 (ksState (leafKs KsState.voted))) 2 = true) ∧
    (7 < 8 ∧ bit (reg (ksState repairDue) (rMdbase 7)) 0 = false) ∧
    (2 < 8 ∧ tabGet (ksState repairDone).ks.abw 2 = some 6#48 ∧ tabSorted (ksState repairDone).ks.abw = true ∧ (∀ (n :
    Nat), n < 8 → n ∈ tabD (ksState repairDone).ks.repaired 2 []) ∧ ∀ (x : Shadow), x ∈ (ksState repairDone).shadows →
    x.tag ≠ some (BitVec.ofNat 8 (BitVec.toNat 6#48))) :=
  ⟨by decide,
    by decide,
    by decide,
    by decide,
    by decide⟩

theorem witness_xidRegisters :
    (coreExists State.reset 3 = true) ∧
    (999 ≠ 964 ∧ coreExists State.reset 999 = false) :=
  ⟨by decide,
    by decide⟩

theorem witness_carveOuts :
    (0 < 4) ∧
    (0 < 4) ∧
    (0 < 4 ∧ bit (reg resizing (rCarve 0)) 63 = true ∧ Memory.wf resizing.mem = true ∧ tabSorted resizing.deck = true
    ∧ tabGet resizing.carveOld 0 = some (1, 0)) :=
  ⟨by decide,
    by decide,
    by decide⟩

theorem witness_metadataRegistration :
    (0 < 8 ∧ (1 = 1 ∨ 1 = 2)) ∧
    (0 < 8 ∧ (2 = 1 ∨ 2 = 2)) ∧
    (0 < 8 ∧ bit (reg (setting (rMdreg 0) (7782220156096282624 : Word) blocks) (rMdreg 0)) 61 = true ∧ bit (reg
    (setting (rMdreg 0) (7782220156096282624 : Word) blocks) (rMdbase 0)) 0 = true ∧ List.length (setting (rMdreg 0)
    (7782220156096282624 : Word) blocks).mdCache + 32 ≤ 2 ^ 18 ∧ tabSorted (setting (rMdreg 0) (7782220156096282624 :
    Word) blocks).mdCache = true ∧ bits (reg (setting (rMdreg 0) (7782220156096282624 : Word) blocks) (rMdreg 0)) 63
    62 = 1) ∧
    (0 < 8 ∧ bit (reg (setting (rMdreg 0) (11529215046068535296 : Word) blocks) (rMdreg 0)) 61 = true ∧ bit (reg
    (setting (rMdreg 0) (11529215046068535296 : Word) blocks) (rMdbase 0)) 0 = true ∧ List.length (setting (rMdreg 0)
    (11529215046068535296 : Word) blocks).mdCache + 32 ≤ 2 ^ 18 ∧ tabSorted (setting (rMdreg 0) (11529215046068535296
    : Word) blocks).mdCache = true ∧ bits (reg (setting (rMdreg 0) (11529215046068535296 : Word) blocks) (rMdreg 0))
    63 62 = 2 ∧ ∀ (i : Nat), i < 32 → bit (metaOf (setting (rMdreg 0) (11529215046068535296 : Word) blocks) ((fun i =>
    blockOf 0 (32 * bits (reg (setting (rMdreg 0) (11529215046068535296 : Word) blocks) (rMdreg 0)) 36 16 + i)) i)) 0
    = false) :=
  ⟨by decide,
    by decide,
    by decide,
    by decide⟩

theorem witness_continuationTable :
    (launchable.ctabBusy = none ∧ bits (5 : Word) 59 12 = 0) ∧
    (ctabWaiting.ctabBusy = some (5, (13835058055282163712 : Word), (0 : Word))) :=
  ⟨by decide,
    by decide⟩

theorem witness_reductionGroups :
    (1 ≤ 1 ∧ 1 ≤ 255) ∧
    (1 ≤ 1 ∧ 1 ≤ 255) ∧
    (1 ≤ 1 ∧ 1 ≤ 255 ∧ bit (reg (inRound (12682136550675333120 : Word)) (rRgrp 1)) 61 = true ∧ bit (reg (inRound
    (12682136550675333120 : Word)) (rRgrp 1)) 60 = true) ∧
    (1 ≤ 1 ∧ 1 ≤ 255 ∧ bit (reg (grouped (11529215046068486144 : Word)) (rRgrp 1)) 61 = true ∧ bit (reg (grouped
    (11529215046068486144 : Word)) (rRgrp 1)) 60 = false) :=
  ⟨by decide,
    by decide,
    by decide,
    by decide⟩

theorem witness_scrubPowerAndThermal :
    (0 < 8 ∧ bit (reg (setting (rScrubctl 0) (9223372036854775808 : Word) State.reset) (rScrubctl 0)) 63 = true ∧
    (ScrubFinding.mk 64 0#6 0#6 0#18 false 2#8).dpa < 2 ^ 40 ∧ ctrlOf (ScrubFinding.mk 64 0#6 0#6 0#18 false 2#8).dpa
    = 0 ∧ (ScrubFinding.mk 64 0#6 0#6 0#18 false 2#8).correctable = false ∧ bit (reg (setting (rScrubctl 0)
    (9223372036854775808 : Word) State.reset) (rEhbase 0)) 0 = false) ∧
    (7 < 8 ∧ bit (reg (setting (rScrubctl 7) (0 : Word) State.reset) (rScrubctl 7)) 63 = false) ∧
    (15 < 16) ∧
    (15 < 16) ∧
    ((TeleSample.mk 15 7#16 400#16).island < 16) :=
  ⟨by decide,
    by decide,
    by decide,
    by decide,
    by decide⟩

theorem witness_resets :
    ((Instr.warmReset = Instr.warmReset ∨ Instr.warmReset = Instr.quiescedWarmReset ∧ (hosted (holdingMem [(0, 5#8)]
    carved)).deck = [] ∧ (hosted (holdingMem [(0, 5#8)] carved)).mdCache = [] ∧ (hosted (holdingMem [(0, 5#8)]
    carved)).cores = [] ∧ (hosted (holdingMem [(0, 5#8)] carved)).contribs = [] ∧ (hosted (holdingMem [(0, 5#8)]
    carved)).collies = []) ∧ resettable (hosted (holdingMem [(0, 5#8)] carved)) = true ∧ Memory.wf (hosted (holdingMem
    [(0, 5#8)] carved)).mem = true) ∧
    ((Instr.quiescedWarmReset = Instr.warmReset ∨ Instr.quiescedWarmReset = Instr.quiescedWarmReset ∧ (hosted
    (holdingMem [(0, 5#8)] State.reset)).deck = [] ∧ (hosted (holdingMem [(0, 5#8)] State.reset)).mdCache = [] ∧
    (hosted (holdingMem [(0, 5#8)] State.reset)).cores = [] ∧ (hosted (holdingMem [(0, 5#8)] State.reset)).contribs =
    [] ∧ (hosted (holdingMem [(0, 5#8)] State.reset)).collies = []) ∧ resettable (hosted (holdingMem [(0, 5#8)]
    State.reset)) = true ∧ Memory.wf (hosted (holdingMem [(0, 5#8)] State.reset)).mem = true) ∧
    (resettable (hosted State.reset) = true ∧ taskAtOrigin (hosted State.reset) (5 : Word) = none) ∧
    (resettable (hosted originated) = true ∧ taskAtOrigin (hosted originated) (0 : Word) = some (task0 0
    TaskSt.running)) :=
  ⟨by exact ⟨.inl rfl, by decide, by decide⟩,
    by exact ⟨.inr ⟨rfl, rfl, rfl, rfl, rfl, rfl⟩, by decide, by decide⟩,
    by decide,
    by decide⟩

theorem witness_attestationAndPlanes :
    (bit (reg State.reset rAttctl) 62 = false) ∧
    (bit (reg (setting rAttctl (4611686018427420672 : Word) State.reset) rAttctl) 62 = true) ∧
    (bit (reg (setting rAttctl (4611686018427420672 : Word) State.reset) rAttctl) 62 = true ∧ (setting rAttctl
    (4611686018427420672 : Word) State.reset).deck = [] ∧ Memory.wf (setting rAttctl (4611686018427420672 : Word)
    State.reset).mem = true ∧ bits (reg (setting rAttctl (4611686018427420672 : Word) State.reset) rAttctl) 43 15 * 2
    ^ 15 < 2 ^ 40) ∧
    (bit (reg State.reset rAttctl) 62 = false) ∧
    ((unitOf (UnitPlane.mk 16 0 0 1152 1 [(1 : Byte)] [(2 : Byte)] true) State.reset).units = [UnitPlane.mk 16 0 0
    1152 1 [(1 : Byte)] [(2 : Byte)] true] ∧ (UnitPlane.mk 16 0 0 1152 1 [(1 : Byte)] [(2 : Byte)] true).waiting =
    true ∧ quiescePoint (unitOf (UnitPlane.mk 16 0 0 1152 1 [(1 : Byte)] [(2 : Byte)] true) State.reset) (UnitPlane.mk
    16 0 0 1152 1 [(1 : Byte)] [(2 : Byte)] true) = true) ∧
    ((unitOf (UnitPlane.mk 16 1 0 0 1 [(1 : Byte)] [(2 : Byte)] true) originated).units = [UnitPlane.mk 16 1 0 0 1 [(1
    : Byte)] [(2 : Byte)] true] ∧ quiescePoint (unitOf (UnitPlane.mk 16 1 0 0 1 [(1 : Byte)] [(2 : Byte)] true)
    originated) (UnitPlane.mk 16 1 0 0 1 [(1 : Byte)] [(2 : Byte)] true) = false) :=
  ⟨by decide,
    by decide,
    by decide,
    by decide,
    by decide,
    by decide⟩

theorem witness_spawnSignalAndCollectiveWords :
    ((Instr.spawn mA (4 : G6) (1 : G6) (2 : G6) = Instr.spawn mA (4 : G6) (1 : G6) (2 : G6) ∧ false = false ∨
    Instr.spawn mA (4 : G6) (1 : G6) (2 : G6) = Instr.spawnW mA (4 : G6) (1 : G6) (2 : G6) ∧ false = true) ∧ ready
    (withRole (atStage (worker [(1, Reg.mk (128 : Word) false), (2, Reg.mk (8 : Word) false)]) 3) fun x => x)
    (Instr.spawn mA (4 : G6) (1 : G6) (2 : G6)) mA 1 = true ∧ usable (withRole (atStage (worker [(1, Reg.mk (128 :
    Word) false), (2, Reg.mk (8 : Word) false)]) 3) fun x => x) [Src.g (1 : G6), Src.g (2 : G6)] (Dst.g (4 : G6)) =
    true ∧ 2 ≤ stage (withRole (atStage (worker [(1, Reg.mk (128 : Word) false), (2, Reg.mk (8 : Word) false)]) 3) fun
    x => x).cur.fst (withRole (atStage (worker [(1, Reg.mk (128 : Word) false), (2, Reg.mk (8 : Word) false)]) 3) fun
    x => x).cur.snd (withRole (atStage (worker [(1, Reg.mk (128 : Word) false), (2, Reg.mk (8 : Word) false)]) 3) fun
    x => x)) ∧
    ((Instr.spawnW mA (4 : G6) (1 : G6) (2 : G6) = Instr.spawn mA (4 : G6) (1 : G6) (2 : G6) ∧ true = false ∨
    Instr.spawnW mA (4 : G6) (1 : G6) (2 : G6) = Instr.spawnW mA (4 : G6) (1 : G6) (2 : G6) ∧ true = true) ∧ ready
    (worker [(1, Reg.mk (128 : Word) false), (2, Reg.mk (0 : Word) false)]) (Instr.spawnW mA (4 : G6) (1 : G6) (2 :
    G6)) mA 1 = true ∧ usable (worker [(1, Reg.mk (128 : Word) false), (2, Reg.mk (0 : Word) false)]) [Src.g (1 : G6),
    Src.g (2 : G6)] (Dst.g (4 : G6)) = true ∧ stage (worker [(1, Reg.mk (128 : Word) false), (2, Reg.mk (0 : Word)
    false)]).cur.fst (worker [(1, Reg.mk (128 : Word) false), (2, Reg.mk (0 : Word) false)]).cur.snd (worker [(1,
    Reg.mk (128 : Word) false), (2, Reg.mk (0 : Word) false)]) < 2 ∧ BitVec.toNat (src (worker [(1, Reg.mk (128 :
    Word) false), (2, Reg.mk (0 : Word) false)]) (worker [(1, Reg.mk (128 : Word) false), (2, Reg.mk (0 : Word)
    false)]) (1 : G6)).snd.val % 128 = 0 ∧ BitVec.toNat (src (worker [(1, Reg.mk (128 : Word) false), (2, Reg.mk (0 :
    Word) false)]) (src (worker [(1, Reg.mk (128 : Word) false), (2, Reg.mk (0 : Word) false)]) (worker [(1, Reg.mk
    (128 : Word) false), (2, Reg.mk (0 : Word) false)]) (1 : G6)).fst (2 : G6)).snd.val % 2 ^ 57 = 0 ∧ true = true) ∧
    ((Instr.spawnW mA (4 : G6) (1 : G6) (2 : G6) = Instr.spawn mA (4 : G6) (1 : G6) (2 : G6) ∧ true = false ∨
    Instr.spawnW mA (4 : G6) (1 : G6) (2 : G6) = Instr.spawnW mA (4 : G6) (1 : G6) (2 : G6) ∧ true = true) ∧ ready
    (worker [(1, Reg.mk (128 : Word) false), (2, Reg.mk (8 : Word) false)]) (Instr.spawnW mA (4 : G6) (1 : G6) (2 :
    G6)) mA 1 = true ∧ usable (worker [(1, Reg.mk (128 : Word) false), (2, Reg.mk (8 : Word) false)]) [Src.g (1 : G6),
    Src.g (2 : G6)] (Dst.g (4 : G6)) = true ∧ stage (worker [(1, Reg.mk (128 : Word) false), (2, Reg.mk (8 : Word)
    false)]).cur.fst (worker [(1, Reg.mk (128 : Word) false), (2, Reg.mk (8 : Word) false)]).cur.snd (worker [(1,
    Reg.mk (128 : Word) false), (2, Reg.mk (8 : Word) false)]) = 0 ∧ BitVec.toNat (src (worker [(1, Reg.mk (128 :
    Word) false), (2, Reg.mk (8 : Word) false)]) (worker [(1, Reg.mk (128 : Word) false), (2, Reg.mk (8 : Word)
    false)]) (1 : G6)).snd.val % 128 = 0 ∧ BitVec.toNat (src (worker [(1, Reg.mk (128 : Word) false), (2, Reg.mk (8 :
    Word) false)]) (src (worker [(1, Reg.mk (128 : Word) false), (2, Reg.mk (8 : Word) false)]) (worker [(1, Reg.mk
    (128 : Word) false), (2, Reg.mk (8 : Word) false)]) (1 : G6)).fst (2 : G6)).snd.val % 8 = 0 ∧ (true = true →
    BitVec.toNat (src (worker [(1, Reg.mk (128 : Word) false), (2, Reg.mk (8 : Word) false)]) (src (worker [(1, Reg.mk
    (128 : Word) false), (2, Reg.mk (8 : Word) false)]) (worker [(1, Reg.mk (128 : Word) false), (2, Reg.mk (8 : Word)
    false)]) (1 : G6)).fst (2 : G6)).snd.val % 2 ^ 57 ≠ 0) ∧ relReady (worker [(1, Reg.mk (128 : Word) false), (2,
    Reg.mk (8 : Word) false)]) (worker [(1, Reg.mk (128 : Word) false), (2, Reg.mk (8 : Word) false)]).cur.fst (worker
    [(1, Reg.mk (128 : Word) false), (2, Reg.mk (8 : Word) false)]).cur.snd Scope.dev = true) ∧
    (ready (worker three) (Instr.tsig mA (1 : G6)) mA 1 = true ∧ usable (worker three) [Src.g (1 : G6)] Dst.none =
    true ∧ stage (worker three).cur.fst (worker three).cur.snd (worker three) = 0 ∧ relReady (worker three) (worker
    three).cur.fst (worker three).cur.snd Scope.dev = true) ∧
    (ready (atStage (worker three) 1) (Instr.tsig mA (1 : G6)) mA 1 = true ∧ usable (atStage (worker three) 1) [Src.g
    (1 : G6)] Dst.none = true ∧ stage (atStage (worker three) 1).cur.fst (atStage (worker three) 1).cur.snd (atStage
    (worker three) 1) ≠ 0 ∧ relSettled (atStage (worker three) 1) (atStage (worker three) 1).cur.fst (atStage (worker
    three) 1).cur.snd = true ∧ coreTask (atStage (worker three) 1) (atStage (worker three) 1).cur.fst = none) ∧
    (ready (atStage signalling 1) (Instr.tsig mA (1 : G6)) mA 1 = true ∧ usable (atStage signalling 1) [Src.g (1 :
    G6)] Dst.none = true ∧ stage (atStage signalling 1).cur.fst (atStage signalling 1).cur.snd (atStage signalling 1)
    ≠ 0 ∧ relSettled (atStage signalling 1) (atStage signalling 1).cur.fst (atStage signalling 1).cur.snd = true ∧
    coreTask (atStage signalling 1) (atStage signalling 1).cur.fst = some (task0 0 TaskSt.running) ∧ listWaits
    (atStage signalling 1) (dieOf (atStage signalling 1).cur.fst) (task0 0 TaskSt.running) = false) :=
  ⟨by decide,
    by decide,
    by decide,
    by decide,
    by decide,
    by decide⟩

theorem witness_spawnSignalAndCollectiveWords_2 :
    (ready spanning (Instr.coll mA (4 : G6) (1 : G6) (some 3#5)) mA 1 = true ∧ usable spanning [Src.g (1 : G6)] (Dst.g
    (4 : G6)) = true ∧ BitVec.toNat (src spanning spanning (1 : G6)).snd.val % 2 ^ 57 % 64 = 0 ∧ stage
    spanning.cur.fst spanning.cur.snd spanning = 0 ∧ relReady spanning spanning.cur.fst spanning.cur.snd Scope.dev =
    true) ∧
    (∃ t sq, ready (atStage spanning 1) (Instr.coll mA (4 : G6) (1 : G6) (some 3#5)) mA 1 = true ∧ usable (atStage
    spanning 1) [Src.g (1 : G6)] (Dst.g (4 : G6)) = true ∧ BitVec.toNat (src (atStage spanning 1) (atStage spanning 1)
    (1 : G6)).snd.val % 2 ^ 57 % 64 = 0 ∧ stage (atStage spanning 1).cur.fst (atStage spanning 1).cur.snd (atStage
    spanning 1) ≠ 0 ∧ relSettled (atStage spanning 1) (atStage spanning 1).cur.fst (atStage spanning 1).cur.snd = true
    ∧ collPost (atStage spanning 1).cur.fst (atStage spanning 1).cur.snd (some 3#5) (BitVec.toNat (src (atStage
    spanning 1) (atStage spanning 1) (1 : G6)).snd.val % 2 ^ 57) (src (atStage spanning 1) (atStage spanning 1) (1 :
    G6)).fst = Except.ok (t, sq)) :=
  ⟨by decide,
    by exact ⟨_, _, by decide, by decide, by decide, by decide, by decide, rfl⟩⟩

theorem witness_eventsOfARole :
    (roleExists trapHeld 0 RoleId.C = true ∧ contextAt trapHeld 0 = true ∧ trapPending (getRole trapHeld 0 RoleId.C) =
    true ∧ inHandler (getRole trapHeld 0 RoleId.C) = false ∧ (getRole trapHeld 0 RoleId.C).fin = false ∧ bit
    (Machine.core trapHeld 0).dbg.halt (roleNum RoleId.C) = false ∧ abandonable (getRole trapHeld 0 RoleId.C) = true ∧
    bits (getRole trapHeld 0 RoleId.C).tvec 56 3 ≠ 0 ∧ (if (getRole trapHeld 0 RoleId.C).block.isSome = true then 0
    else skipCount trapHeld 0 RoleId.C (BitVec.toNat (getRole trapHeld 0 RoleId.C).pc) 4) < 4 ∧ ((if (getRole trapHeld
    0 RoleId.C).block.isSome = true then 0 else skipCount trapHeld 0 RoleId.C (BitVec.toNat (getRole trapHeld 0
    RoleId.C).pc) 4) = 0 ∨ mayPass trapHeld 0 RoleId.C (if (getRole trapHeld 0 RoleId.C).block.isSome = true then 0
    else skipCount trapHeld 0 RoleId.C (BitVec.toNat (getRole trapHeld 0 RoleId.C).pc) 4) = true)) ∧
    (roleExists overdueNop 0 RoleId.C = true ∧ contextAt overdueNop 0 = true ∧ roleHeld overdueNop 0 RoleId.C = false
    ∧ (getRole overdueNop 0 RoleId.C).safecnt.toNat = 4096 ∧ (getRole overdueNop 0 RoleId.C).pushDue = false ∧
    (getRole overdueNop 0 RoleId.C).mid = 0 ∧ (trapPending (getRole overdueNop 0 RoleId.C) = false ∨ inHandler
    (getRole overdueNop 0 RoleId.C) = true) ∧ skipCount overdueNop 0 RoleId.C (BitVec.toNat (getRole overdueNop 0
    RoleId.C).pc) 4 = 0 ∧ mayPass overdueNop 0 RoleId.C 1 = true ∧ issuesFreely (wordAt overdueNop 0 RoleId.C) = true) ∧
    (roleExists trapHeld 0 RoleId.C = true ∧ (getRole trapHeld 0 RoleId.C).safecnt.toNat ≠ 4096) ∧
    (roleExists othersWords 0 RoleId.L = true ∧ contextAt othersWords 0 = true ∧ roleHeld othersWords 0 RoleId.L =
    false ∧ (getRole othersWords 0 RoleId.L).pushDue = false ∧ skipCount othersWords 0 RoleId.L (BitVec.toNat (getRole
    othersWords 0 RoleId.L).pc) 4 = 4) :=
  ⟨by decide,
    by decide,
    by decide,
    by decide⟩

theorem witness_deadlockAndFaultRecords :
    (coreExists stuck 0 = true ∧ contextAt stuck 0 = true ∧ (Machine.core stuck 0).dbg.halt = 0#3 ∧ (∀ (r : RoleId), r
    ∈ coreRoles 0 → (blockedOn stuck 0 r).isSome = true ∧ (getRole stuck 0 r).loads = []) ∧ (∃ r, r ∈ coreRoles 0 ∧
    blockedOn stuck 0 r ≠ some 0) ∧ engineActive stuck 0 = false ∧ jobsUnacked stuck 0 = false) ∧
    (coreExists signalling 0 = true ∧ RoleId.C ∈ coreRoles 0 ∧ (blockedOn signalling 0 RoleId.C = none ∨ (Machine.core
    signalling 0).dbg.halt ≠ 0#3)) ∧
    (0 < 4 ∧ tabD (faultRing 1).fqBuf 0 [] = [[(1 : Word), (2 : Word), (3 : Word)]] ∧ [(1 : Word), (2 : Word), (3 :
    Word)].length ≤ 16 ∧ fqRoom (faultRing 1) 0 = true ∧ (faultRing 1).deck = [] ∧ Memory.wf (faultRing 1).mem = true
    ∧ bits (reg (faultRing 1) (rFqbase 0)) 43 12 * 4096 + 128 * bits (reg (faultRing 1) (rFqptr 0)) 31 16 < 2 ^ 40) ∧
    (0 < 4 ∧ fqRoom (faultRing 0) 0 = false) :=
  ⟨by decide,
    by decide,
    by decide,
    by decide⟩

theorem witness_matrixMovesAndModes :
    (prepared (preparing (Instr.mnop noWs)) (preparing (Instr.mnop noWs)).cur.fst (Instr.mnop noWs) (prepOf
    (Instr.mnop noWs))) ∧
    (prepared (preparing (Instr.mzr noWs 7#3 true true)) (preparing (Instr.mzr noWs 7#3 true true)).cur.fst (Instr.mzr
    noWs 7#3 true true) (prepOf (Instr.mzr noWs 7#3 true true)) ∧ arrayFree (Machine.core (preparing (Instr.mzr noWs
    7#3 true true)) (preparing (Instr.mzr noWs 7#3 true true)).cur.fst).matrix (BitVec.toNat 7#3) = true) ∧
    (prepared (preparing mldW) (preparing mldW).cur.fst (Instr.mld noWs 5#3 true true 1#4 true) (prepOf mldW) ∧
    handleBad (Machine.core (preparing mldW) (preparing mldW).cur.fst) 1#4 = false ∧ 16384 ≤ (descAt (preparing mldW)
    (preparing mldW).cur.fst 1#4).size ∧ 1 ≤ (descAt (preparing mldW) (preparing mldW).cur.fst 1#4).filled ∧ arrayFree
    (Machine.core (preparing mldW) (preparing mldW).cur.fst).matrix (BitVec.toNat 5#3) = true) ∧
    (prepared (preparing (Instr.mcfgRedundant noWs true)) (preparing (Instr.mcfgRedundant noWs true)).cur.fst
    (Instr.mcfgRedundant noWs true) (prepOf (Instr.mcfgRedundant noWs true)) ∧ noneEarlier (Machine.core (preparing
    (Instr.mcfgRedundant noWs true)) (preparing (Instr.mcfgRedundant noWs true)).cur.fst).matrix = true) ∧
    (prepared (preparing (Instr.mcfgLoadFormat noWs 3#4 false)) (preparing (Instr.mcfgLoadFormat noWs 3#4
    false)).cur.fst (Instr.mcfgLoadFormat noWs 3#4 false) (prepOf (Instr.mcfgLoadFormat noWs 3#4 false)) ∧ handleBad
    (Machine.core (preparing (Instr.mcfgLoadFormat noWs 3#4 false)) (preparing (Instr.mcfgLoadFormat noWs 3#4
    false)).cur.fst) 3#4 = false ∧ noneEarlier (Machine.core (preparing (Instr.mcfgLoadFormat noWs 3#4 false))
    (preparing (Instr.mcfgLoadFormat noWs 3#4 false)).cur.fst).matrix = true ∧ 128 ≤ (descAt (preparing
    (Instr.mcfgLoadFormat noWs 3#4 false)) (preparing (Instr.mcfgLoadFormat noWs 3#4 false)).cur.fst 3#4).size ∧ 1 ≤
    (descAt (preparing (Instr.mcfgLoadFormat noWs 3#4 false)) (preparing (Instr.mcfgLoadFormat noWs 3#4
    false)).cur.fst 3#4).filled) :=
  ⟨by exact ⟨by decide, rfl, by decide, rfl, .inl rfl⟩,
    by exact ⟨⟨by decide, rfl, by decide, rfl, .inl rfl⟩, by decide⟩,
    by exact ⟨⟨by decide, rfl, by decide, rfl, .inl rfl⟩, by decide, by decide, by decide, by decide⟩,
    by exact ⟨⟨by decide, rfl, by decide, rfl, .inl rfl⟩, by decide⟩,
    by exact ⟨⟨by decide, rfl, by decide, rfl, .inl rfl⟩, by decide, by decide, by decide, by decide⟩⟩

theorem witness_matrixMultiply :
    prepared (preparing mmaW) (preparing mmaW).cur.fst (Instr.mma noWs false 1#4 3#4 3#4 2#3 false true true) (prepOf
    mmaW) ∧ mmaCheck (Machine.core (preparing mmaW) (preparing mmaW).cur.fst) (tabD (Machine.core (preparing mmaW)
    (preparing mmaW).cur.fst).matrix.fmt (BitVec.toNat 1#4) (0 : Word)) 3#4 3#4 2#3 false = none ∧ (false = false → 1
    ≤ (descAt (preparing mmaW) (preparing mmaW).cur.fst 3#4).filled) ∧ (if (!false && 3#4 == 3#4 && true) = true then
    2 else 1) ≤ (descAt (preparing mmaW) (preparing mmaW).cur.fst 3#4).filled ∧ arrayFree (Machine.core (preparing
    mmaW) (preparing mmaW).cur.fst).matrix (BitVec.toNat 2#3) = true := by
  exact ⟨⟨by decide, rfl, by decide, rfl, .inl rfl⟩, by decide, by decide, by decide, by decide⟩

theorem witness_matrixDrain :
    prepared (preparing mdrW) (preparing mdrW).cur.fst (Instr.mdr noWs 2#3 1#4 RM.rne false 2#4 true false) (prepOf
    mdrW) ∧ handleBad (Machine.core (preparing mdrW) (preparing mdrW).cur.fst) 2#4 = false ∧ drainType (accType (accOf
    (preparing mdrW) (preparing mdrW).cur.fst (BitVec.toNat 2#3))) (DType.ofCode 1#4) = true ∧ 512 * elemBits
    (DType.ofCode 1#4) ≤ (descAt (preparing mdrW) (preparing mdrW).cur.fst 2#4).size ∧ (descAt (preparing mdrW)
    (preparing mdrW).cur.fst 2#4).filled < (descAt (preparing mdrW) (preparing mdrW).cur.fst 2#4).slots ∧ drainFree
    (Machine.core (preparing mdrW) (preparing mdrW).cur.fst).matrix (BitVec.toNat 2#3) = true ∧ (RM.rne = RM.sr →
    accType (accOf (preparing mdrW) (preparing mdrW).cur.fst (BitVec.toNat 2#3)) = false → sspOn (preparing mdrW) =
    true) ∧ mdrDraw (atWork (preparing mdrW) (preparing mdrW).cur.fst (prepOf mdrW)) (preparing mdrW).cur.fst (accType
    (accOf (preparing mdrW) (preparing mdrW).cur.fst (BitVec.toNat 2#3))) RM.rne = Except.ok (atWork (preparing mdrW)
    0 (prepOf mdrW), fun _ => 0) ∧ Memory.wf (atWork (preparing mdrW) 0 (prepOf mdrW)).mem = true := by
  exact ⟨⟨by decide, rfl, by decide, rfl, .inl rfl⟩, by decide, by decide, by decide, by decide, by decide, by decide, rfl, by decide⟩

theorem witness_matrixRing :
    (coreExists (ringHead ((encodeCommand mmaW).headD (0 : Word))) 0 = true ∧ (Machine.core (ringHead ((encodeCommand
    mmaW).headD (0 : Word))) 0).matrix.prep = none ∧ 1 ≤ (descAt (ringHead ((encodeCommand mmaW).headD (0 : Word))) 0
    14#4).filled ∧ decodeMatrix (ringWord (ringHead ((encodeCommand mmaW).headD (0 : Word))) 0 14 0) = Except.ok mmaW) ∧
    (coreExists finished 0 = true ∧ (Machine.core finished 0).matrix.done = [mdrDone] ∧ mdrDone.mismatch = none ∧
    Option.any (fun a => decide (a.cmd.sq < mdrDone.sq)) (Machine.core finished 0).matrix.array = false ∧ Option.any
    (fun q => decide (q.sq < mdrDone.sq)) (Machine.core finished 0).matrix.drain = false) ∧
    (coreExists unmet unmet.cur.fst = true ∧ stageTurn (Machine.core unmet unmet.cur.fst).matrix mnopW = some
    (MStage.prepare, mnopP, 0) ∧ mnopP.waited = false ∧ waitTurn unmet unmet.cur.fst 3 (wordWs mnopP.word) = false) :=
  ⟨by exact ⟨by decide, by decide, by decide, rfl⟩,
    by exact ⟨by decide, rfl, rfl, by decide, by decide⟩,
    by exact ⟨by decide, by decide, rfl, by decide⟩⟩

theorem witness_copyTurns :
    (turnOf (copying [jobOf (Instr.cnop noWs)]) (Instr.cnop noWs) (jobOf (Instr.cnop noWs))) ∧
    (turnOf (copying [jobOf bartxW]) (Instr.bartx noWs 0#6 16384#17 16#48) (jobOf bartxW) ∧ (∀ (x : CJob), x ∈
    (Machine.core (copying [jobOf bartxW]) (copying [jobOf bartxW]).cur.fst).copy.jobs → (jobOf bartxW).sq ≤ x.sq) ∧
    barrierKey (copying [jobOf bartxW]) (copying [jobOf bartxW]).cur.fst (BitVec.toNat 0#6, 16 * BitVec.toNat
    16384#17) = some (poolBase 0 + 262144)) ∧
    (∃ s1 s2 s3 bs ls, copyOptions fillW = some noOpts ∧ turnOf (copying [jobOf fillW]) fillW (jobOf fillW) ∧ (jobOf
    fillW).left = [] ∧ (jobOf fillW).row + 1 = copyRowCount fillW (jobOf fillW) ∧ copyRow (copying [jobOf fillW])
    fillW (jobOf fillW) (jobOf fillW).row = some (Row.mk none (NW + 262152) 24 0) ∧ readRow (copying [jobOf fillW])
    (copying [jobOf fillW]).cur.fst noOpts.strm (jobOf fillW) (copyPattern fillW) (Row.mk none (NW + 262152) 24 0) =
    Fetched.bytes s1 bs ∧ writeLocs (copying [jobOf fillW]).cur.fst (copyReduction fillW).isSome s1 (linesOf (Row.mk
    none (NW + 262152) 24 0).dst (Row.mk none (NW + 262152) 24 0).n) = (s2, ls, none) ∧ sendLines (copying [jobOf
    fillW]).cur.fst (jobOf fillW).id (jobBarrier (copying [jobOf fillW]) fillW) ((rowLines (copying [jobOf
    fillW]).cur.fst (jobOf fillW) noOpts.strm (copyReduction fillW) (Row.mk none (NW + 262152) 24 0) bs ls).length +
    1) s2 (rowLines (copying [jobOf fillW]).cur.fst (jobOf fillW) noOpts.strm (copyReduction fillW) (Row.mk none (NW +
    262152) 24 0) bs ls) = Sent.done s3) ∧
    (∃ s1 s2 s3 bs ls, copyOptions cpyW = some noOpts ∧ turnOf (copying [twoRows]) cpyW twoRows ∧ twoRows.left = [] ∧
    twoRows.row + 1 < copyRowCount cpyW twoRows ∧ copyRow (copying [twoRows]) cpyW twoRows twoRows.row = some (Row.mk
    (some (NW + 262145)) (NW + 262149) 9 0) ∧ readRow (copying [twoRows]) (copying [twoRows]).cur.fst noOpts.strm
    twoRows (copyPattern cpyW) (Row.mk (some (NW + 262145)) (NW + 262149) 9 0) = Fetched.bytes s1 bs ∧ writeLocs
    (copying [twoRows]).cur.fst (copyReduction cpyW).isSome s1 (linesOf (Row.mk (some (NW + 262145)) (NW + 262149) 9
    0).dst (Row.mk (some (NW + 262145)) (NW + 262149) 9 0).n) = (s2, ls, none) ∧ sendLines (copying [twoRows]).cur.fst
    twoRows.id (jobBarrier (copying [twoRows]) cpyW) ((rowLines (copying [twoRows]).cur.fst twoRows noOpts.strm
    (copyReduction cpyW) (Row.mk (some (NW + 262145)) (NW + 262149) 9 0) bs ls).length + 1) s2 (rowLines (copying
    [twoRows]).cur.fst twoRows noOpts.strm (copyReduction cpyW) (Row.mk (some (NW + 262145)) (NW + 262149) 9 0) bs ls)
    = Sent.done s3) ∧
    (copyOptions (gathW 3#4) = some noOpts ∧ turnOf (copying [jobOf (gathW 3#4)]) (gathW 3#4) (jobOf (gathW 3#4)) ∧
    (jobOf (gathW 3#4)).left = [] ∧ (jobOf (gathW 3#4)).row < copyRowCount (gathW 3#4) (jobOf (gathW 3#4)) ∧ copyRow
    (copying [jobOf (gathW 3#4)]) (gathW 3#4) (jobOf (gathW 3#4)) (jobOf (gathW 3#4)).row = none) ∧
    (∃ s1 f, copyOptions badW = some noOpts ∧ turnOf (copying [jobOf badW]) badW (jobOf badW) ∧ (jobOf badW).left = []
    ∧ (jobOf badW).row < copyRowCount badW (jobOf badW) ∧ copyRow (copying [jobOf badW]) badW (jobOf badW) (jobOf
    badW).row = some (Row.mk (some 0) (NW + 262144) 8 0) ∧ readRow (copying [jobOf badW]) (copying [jobOf
    badW]).cur.fst noOpts.strm (jobOf badW) (copyPattern badW) (Row.mk (some 0) (NW + 262144) 8 0) = Fetched.fatal s1
    f) :=
  ⟨by decide,
    by decide,
    by refine ⟨_, _, _, _, _, by decide, by decide, by decide, by decide, by decide, rfl, rfl, rfl⟩,
    by refine ⟨_, _, _, _, _, by decide, by decide, by decide, by decide, by decide, rfl, rfl, rfl⟩,
    by decide,
    by refine ⟨_, _, by decide, by decide, by decide, by decide, by decide, rfl⟩⟩

theorem witness_scratchCopies :
    (turnOf (copying [jobOf fillW]) (Instr.fill noWs (CopySide.addr (BitVec.ofNat 57 (NW + 262152))) noOpts 24#24
    (1234605616436508552 : Word)) (jobOf fillW) ∧ bareJob (jobOf fillW) ∧ noOpts.ben = false ∧ Memory.wf (copying
    [jobOf fillW]).mem = true ∧ (BitVec.ofNat 57 (NW + 262152)).toNat = NW + 262152 ∧ 262152 % 8 = 0 ∧ scratchRange
    (copying [jobOf fillW]) 262152 (BitVec.toNat 24#24)) ∧
    (turnOf (copying [jobOf cpyW]) (Instr.cpy noWs 0#2 (CopySide.addr (BitVec.ofNat 57 (NW + 262145))) (CopySide.addr
    (BitVec.ofNat 57 (NW + 262149))) noOpts 9#24 0#18) (jobOf cpyW) ∧ bareJob (jobOf cpyW) ∧ noOpts.ben = false ∧
    Memory.wf (copying [jobOf cpyW]).mem = true ∧ (BitVec.ofNat 57 (NW + 262145)).toNat = NW + 262145 ∧ (BitVec.ofNat
    57 (NW + 262149)).toNat = NW + 262149 ∧ scratchRange (copying [jobOf cpyW]) 262145 (BitVec.toNat 9#24) ∧
    scratchRange (copying [jobOf cpyW]) 262149 (BitVec.toNat 9#24)) :=
  ⟨by decide,
    by decide⟩

theorem witness_copyJobs :
    (coreExists (admitting slotsW) 0 = true ∧ (Machine.core (admitting slotsW) 0).copy.adm = some (CAdm.mk
    (encodeCommand slotsW) RoleId.C true 0) ∧ (Machine.core (admitting slotsW) 0).copy.jobs.length < 8 ∧ engineStopped
    (Machine.core (admitting slotsW) 0) = false ∧ admissionTurn (admitting slotsW) 0 ((CAdm.mk (encodeCommand slotsW)
    RoleId.C true 0).words.headD (0 : Word)) = true ∧ decodeCopy (CAdm.mk (encodeCommand slotsW) RoleId.C true
    0).words = Except.ok slotsW ∧ slotsReady (Machine.core (admitting slotsW) 0) slotsW = true ∧ copyCheck (admitting
    slotsW) 0 slotsW (shapeWords (admitting slotsW) 0 slotsW) = none) ∧
    (coreExists copyRing 0 = true ∧ (Machine.core copyRing 0).copy.adm = none ∧ copyHead copyRing 0 = some
    (encodeCommand (Instr.cnop noWs), true) ∧ 8 ≤ (Machine.core copyRing 0).copy.jobs.length) ∧
    (coreExists (copying [madeJob]) 0 = true ∧ findJob (Machine.core (settle (copying [madeJob]) 0) 0) 1 = some
    madeJob ∧ madeJob.accessed = true ∧ madeJob.left = [] ∧ madeJob.stopped = false ∧ madeJob.refused = none ∧
    madeJob.failed = none ∧ jobOutstanding (settle (copying [madeJob]) 0) 0 1 = false ∧ handlesDone madeJob = true) ∧
    (coreExists (copying [refusedJob]) 0 = true ∧ findJob (Machine.core (copying [refusedJob]) 0) 1 = some refusedJob
    ∧ refusedAt (copying [refusedJob]) 0 refusedJob (2 ^ 33) = some (19 : Word) ∧ (getRole (copying [refusedJob]) 0
    refusedJob.role).fin = false ∧ trapPending (getRole (copying [refusedJob]) 0 refusedJob.role) = false ∧ ∀ (i :
    CJob), i ∈ (Machine.core (copying [refusedJob]) 0).copy.jobs → i.stopped = true → i.role ≠ refusedJob.role) :=
  ⟨by exact ⟨by decide, by decide, by decide, by decide, by decide, rfl, by decide, by decide⟩,
    by decide,
    by decide,
    by exact ⟨by decide, by decide, by decide, by decide, by decide, by decide⟩⟩

theorem witness_contributions :
    (∃ t fl, (contributing (contribOf 0 .sent (carveTarget 0 0))).contribs = [contribOf 0 .sent (carveTarget 0 0)] ∧
    (contribOf 0 .sent (carveTarget 0 0)).st = .sent ∧ (contribOf 0 .sent (carveTarget 0 0)).x.group = 0 ∧ (contribOf
    0 .sent (carveTarget 0 0)).x.src = .job 0 1 ∧ applyLine (contributing (contribOf 0 .sent (carveTarget 0 0))) .loc
    (carveTarget 0 0) (contrib 0) = .done t fl) ∧
    ((contributing (contribOf 1#8 ContribSt.sent (carveTarget 0 0))).contribs = [contribOf 1#8 ContribSt.sent
    (carveTarget 0 0)] ∧ (contribOf 1#8 ContribSt.sent (carveTarget 0 0)).st = ContribSt.sent ∧ (contribOf 1#8
    ContribSt.sent (carveTarget 0 0)).x.group ≠ 0#8 ∧ groupOn (contributing (contribOf 1#8 ContribSt.sent (carveTarget
    0 0))) (contribOf 1#8 ContribSt.sent (carveTarget 0 0)).x.group.toNat = true ∧ slotOf (contributing (contribOf 1#8
    ContribSt.sent (carveTarget 0 0))) (contribOf 1#8 ContribSt.sent (carveTarget 0 0)).x.group.toNat (contribOf 1#8
    ContribSt.sent (carveTarget 0 0)).x.srcid = some 1 ∧ 1 ≠ 0 ∧ roundAt (contributing (contribOf 1#8 ContribSt.sent
    (carveTarget 0 0))) (contribOf 1#8 ContribSt.sent (carveTarget 0 0)).x.group.toNat (contribOf 1#8 ContribSt.sent
    (carveTarget 0 0)).x.line = none) ∧
    (plainLine carved (contrib 0#8).line ∧ tabSorted carved.deck = true ∧ Memory.wf carved.mem = true ∧ lineHeld
    carved (contrib 0#8).line = false ∧ ∀ (b : Nat), b < 128 → bit (contrib 0#8).mask b = bit (contrib 0#8).mask ((b /
    if (contrib 0#8).dbl = true then 8 else 4) * if (contrib 0#8).dbl = true then 8 else 4)) ∧
    (coreExists (jobContributing (contribOf 1#8 ContribSt.retry (carveTarget 0 0))) 0 = true ∧ findJob (Machine.core
    (jobContributing (contribOf 1#8 ContribSt.retry (carveTarget 0 0))) 0) 1 = some (jobOf fillW) ∧ (jobOf
    fillW).stopped = false ∧ (jobOf fillW).failed = none ∧ (jobContributing (contribOf 1#8 ContribSt.retry
    (carveTarget 0 0))).contribs = [contribOf 1#8 ContribSt.retry (carveTarget 0 0)] ∧ (contribOf 1#8 ContribSt.retry
    (carveTarget 0 0)).x.src = ContribFrom.job 0 1 ∧ (contribOf 1#8 ContribSt.retry (carveTarget 0 0)).st =
    ContribSt.retry ∧ (contribOf 1#8 ContribSt.retry (carveTarget 0 0)).tgt.peer = none) ∧
    (coreExists (jobContributing (contribOf 1#8 ContribSt.retry farTarget)) 0 = true ∧ findJob (Machine.core
    (jobContributing (contribOf 1#8 ContribSt.retry farTarget)) 0) 1 = some (jobOf fillW) ∧ (jobOf fillW).stopped =
    false ∧ (jobOf fillW).failed = none ∧ (jobContributing (contribOf 1#8 ContribSt.retry farTarget)).contribs =
    [contribOf 1#8 ContribSt.retry farTarget] ∧ (contribOf 1#8 ContribSt.retry farTarget).x.src = ContribFrom.job 0 1
    ∧ (contribOf 1#8 ContribSt.retry farTarget).st = ContribSt.retry ∧ (contribOf 1#8 ContribSt.retry
    farTarget).tgt.peer = some 9) :=
  ⟨by exact ⟨_, _, rfl, rfl, rfl, rfl, rfl⟩,
    by decide,
    by exact ⟨carved_plain carved (.inl rfl), by decide, by decide, by decide⟩,
    by decide,
    by decide⟩

theorem witness_submissions :
    (0 < 4 ∧ booted (hosted State.reset) = true ∧ tripped (hosted State.reset) = false) ∧
    (3 < 4 ∧ booted (hosted State.reset) = true ∧ tripped (hosted State.reset) = false) ∧
    (0 < 4 ∧ (collie (submitted (subOf 0 none)) 0).subs = [subOf 0 none]) ∧
    (0 < 4 ∧ (collie spawned 0).subs = [subOf 0 (some (0, RoleId.C))]) ∧
    (0 < 4 ∧ (collie (submitted (subOf 5 none)) 0).subs = [subOf 5 none]) ∧
    (3 < 256 ∧ 0 = (3 / 64 : Nat) ∧ List.findSome? (fun x => x.fill) (slice (launching 72057594037927936 State.reset)
    3).queue = some (launch0 72057594037927936) ∧ recordFault (launch0 72057594037927936).words true ≠ none) :=
  ⟨by decide,
    by decide,
    by decide,
    by decide,
    by decide,
    by decide⟩

theorem witness_submissions_2 :
    (3 < 256 ∧ 0 = (3 / 64 : Nat) ∧ List.findSome? (fun x => x.fill) (slice (launching 4 crowdedPool) 3).queue = some
    (launch0 4) ∧ recordFault (launch0 4).words true = none ∧ placing (launching 4 crowdedPool) 0 (launch0 4).xid 0#16
    false = Placing.refused) ∧
    (3 < 256 ∧ 0 = (3 / 64 : Nat) ∧ List.findSome? (fun x => x.fill) (slice (launching 4 State.reset) 3).queue = some
    (launch0 4) ∧ recordFault (launch0 4).words true = none ∧ placing (launching 4 State.reset) 0 (launch0 4).xid 0#16
    false ≠ Placing.refused ∧ ∀ (u : Machine.Task), u ∈ (collie (launching 4 State.reset) 0).kennel → u.origin =
    Origin.cont → u.slice ≠ 3) ∧
    (3 < 256 ∧ circNext (slice holding 3).ring (slice holding 3).lastAdm = some 9 ∧ (slice holding 3).queue.length <
    32 ∧ (slice holding 3).ovf = []) ∧
    (0 < 4 ∧ (collie (kenneled State.reset) 0).kennel = [task0 0 TaskSt.ready] ∧ (task0 0 TaskSt.ready).decided =
    false ∧ (collie (kenneled State.reset) 0).pool.length < bits (reg (kenneled State.reset) (rClcfg 0)) 9 0 ∧
    opensTooMany (collie (kenneled State.reset) 0) (task0 0 TaskSt.ready).xid (task0 0 TaskSt.ready).gi = false) ∧
    (0 < 4 ∧ (collie (kenneled crowdedPool) 0).kennel = [task0 0 TaskSt.ready] ∧ (task0 0 TaskSt.ready).decided =
    false ∧ (bits (reg (kenneled crowdedPool) (rClcfg 0)) 9 0 ≤ (collie (kenneled crowdedPool) 0).pool.length ∨
    opensTooMany (collie (kenneled crowdedPool) 0) (task0 0 TaskSt.ready).xid (task0 0 TaskSt.ready).gi = true)) :=
  ⟨by decide,
    by decide,
    by decide,
    by decide,
    by decide⟩

theorem witness_releasesAndNodes :
    (instOf (collie (counting 1) 0) 0#16 4#16 = some inst4 ∧ inst4.next ≤ 5) ∧
    (instOf (collie (counting 1) 0) 0#16 4#16 = some inst4 ∧ 2 < inst4.next ∧ (collie (counting 1) 0).kennel = [] ∧
    List.find? (fun x => x.xid == 0#16 && x.gi == 4#16 && x.pos == 2) (collie (counting 1) 0).pool = some (countT 1) ∧
    (countT 1).expl = 0 + 1) ∧
    (instOf (collie (counting 0) 0) 0#16 4#16 = some inst4 ∧ 2 < inst4.next ∧ (collie (counting 0) 0).kennel = [] ∧
    List.find? (fun x => x.xid == 0#16 && x.gi == 4#16 && x.pos == 2) (collie (counting 0) 0).pool = some (countT 0) ∧
    (countT 0).expl = 0) ∧
    (∃ s1 s2 pb es na, 0 < 4 ∧ List.foldl (fun l t => byReady t l) [] (List.filter (fun t => isNode t && t.st ==
    TaskSt.ready) (collie deciding 0).pool) = [node0] ∧ collieWaits deciding 0 node0.id node0.xid (bits (taskWord
    node0 7) 56 0) 8 = false ∧ listWaits deciding 0 node0 = false ∧ collieRead deciding 0 node0.id node0.xid (bits
    (taskWord node0 7) 56 0) 8 = some (s1, pb) ∧ readList s1 0 node0 = Except.ok (s2, es, na)) :=
  ⟨by decide,
    by decide,
    by decide,
    by refine ⟨_, _, _, _, _, by decide, by decide, by decide, by decide, rfl, rfl⟩⟩

theorem witness_dispatching :
    (0 < 4 ∧ findTask (collie (rising 2) 0) 1 = some levelTwo ∧ levelTwo.st = TaskSt.ready ∧ isNode levelTwo = false ∧
    bits (reg (rising 2) (rClcfg 0)) 31 16 ≠ 0 ∧ levelTwo.level < 3) ∧
    (0 < 4 ∧ findTask (collie (rising 3) 0) 1 = some levelThree ∧ levelThree.st = TaskSt.ready ∧ isNode levelThree =
    false ∧ bits (reg (rising 3) (rClcfg 0)) 31 16 ≠ 0 ∧ 3 ≤ levelThree.level) ∧
    (0 < 4 ∧ (choose State.reset 0 (collie State.reset 0).reserve (readyOrder (collie State.reset 0)) []).snd = none) ∧
    (0 < 4 ∧ (choose (rising 0) 0 (collie (rising 0) 0).reserve (readyOrder (collie (rising 0) 0)) []).snd = some
    (task0 0 TaskSt.ready, 0, 0, 0)) ∧
    (0 < 4 ∧ readyOrder (collie (rising 0) 0) = [task0 0 TaskSt.ready] ∧ (0, 0, 0) ∈ positions (rising 0) 0 (task0 0
    TaskSt.ready) ∧ ∀ (c : Nat), c ∈ coresAt (task0 0 TaskSt.ready) (0, 0, 0) → coreTaken (rising 0) 0 c = false) ∧
    (0 < 4 ∧ (pooled [heldT] State.reset).probes = [] ∧ List.find? (fun x => x.st == TaskSt.held && x.saved.isNone)
    (collie (pooled [heldT] State.reset) 0).pool = some heldT ∧ heldT.probes = 4 ∧ bits (taskWord heldT 2) 56 0 = 0 ∧
    ∀ (c : Nat), c ∈ taskCores heldT → coreFree (pooled [heldT] State.reset) c = true) :=
  ⟨by decide,
    by decide,
    by decide,
    by decide,
    by decide,
    by decide⟩

theorem witness_dispatching_2 :
    0 < 4 ∧ findTask (collie (ended loopT) 0) 1 = some loopT ∧ loopT.id = 1 ∧ loopT.st = TaskSt.running ∧ lastSegment
    loopT = false ∧ allFin (ended loopT) loopT = true ∧ preempting (ended loopT) 0 1 = false := by
  decide

theorem witness_retirement :
    (0 < 4 ∧ findTask (collie (ended (task0 0 TaskSt.running)) 0) 1 = some (task0 0 TaskSt.running) ∧ (task0 0
    TaskSt.running).st = TaskSt.running ∧ lastSegment (task0 0 TaskSt.running) = true ∧ allFin (ended (task0 0
    TaskSt.running)) (task0 0 TaskSt.running) = true ∧ (∀ (c : Nat), c ∈ taskCores (task0 0 TaskSt.running) →
    enginesIdle (ended (task0 0 TaskSt.running)) c = true) ∧ (∀ (c : Nat), c ∈ taskCores (task0 0 TaskSt.running) →
    (Machine.core (List.foldl l1Flush (ended (task0 0 TaskSt.running)) (taskCores (task0 0 TaskSt.running))) c).writes
    = []) ∧ listWaits (List.foldl l1Flush (ended (task0 0 TaskSt.running)) (taskCores (task0 0 TaskSt.running))) 0
    (task0 0 TaskSt.running) = false) ∧
    (0 < 4 ∧ findTask (collie endedWriting 0) 1 = some (task0 0 TaskSt.running) ∧ (task0 0 TaskSt.running).st =
    TaskSt.running ∧ lastSegment (task0 0 TaskSt.running) = true ∧ allFin endedWriting (task0 0 TaskSt.running) = true
    ∧ (∀ (c : Nat), c ∈ taskCores (task0 0 TaskSt.running) → enginesIdle endedWriting c = true) ∧ ∃ c, c ∈ taskCores
    (task0 0 TaskSt.running) ∧ (Machine.core (List.foldl l1Flush endedWriting (taskCores (task0 0 TaskSt.running)))
    c).writes ≠ []) ∧
    (0 < 4 ∧ findTask (collie (ended loopT) 0) 1 = some loopT ∧ (loopT.st ≠ TaskSt.running ∨ lastSegment loopT = false
    ∨ allFin (ended loopT) loopT = false)) ∧
    (0 < 4 ∧ (collie (ended (task0 0 TaskSt.running)) 0).pool = [task0 0 TaskSt.running] ∧ (collie (ended (task0 0
    TaskSt.running)) 0).kennel = [] ∧ (task0 0 TaskSt.running).st = TaskSt.running ∧ lastSegment (task0 0
    TaskSt.running) = true ∧ allFin (ended (task0 0 TaskSt.running)) (task0 0 TaskSt.running) = true ∧ bits (taskWord
    (task0 0 TaskSt.running) 6) 56 0 = 0 ∧ (task0 0 TaskSt.running).todo = [] ∧ (task0 0 TaskSt.running).cw = (0 : VA)
    ∧ (task0 0 TaskSt.running).gi = 0#16 ∧ taskKind (task0 0 TaskSt.running) ≤ 1 ∧ ∀ (c : Nat), c ∈ taskCores (task0 0
    TaskSt.running) → enginesIdle (ended (task0 0 TaskSt.running)) c = true ∧ (Machine.core (ended (task0 0
    TaskSt.running)) c).l1 = [] ∧ (Machine.core (ended (task0 0 TaskSt.running)) c).writes = []) :=
  ⟨by decide,
    by decide,
    by decide,
    by decide⟩

theorem witness_preemption :
    (0 < 4 ∧ ((collie preemptedT 0).pre.isSome = true ∨ 2 ≤ bits (0 : Word) 63 62)) ∧
    (0 < 4 ∧ (collie State.reset 0).pre = none ∧ bits (4611686018427387904 : Word) 63 62 = 1 ∧ List.find? (fun t =>
    t.st == TaskSt.running && t.place == some (5 * 0 + bits (4611686018427387904 : Word) 57 55, bits
    (4611686018427387904 : Word) 54 52, bits (4611686018427387904 : Word) 51 49)) (collie State.reset 0).pool = none) ∧
    (0 < 4 ∧ (collie originated 0).pre = none ∧ bits (4611686018429485056 : Word) 63 62 = 1 ∧ List.find? (fun t =>
    t.st == TaskSt.running && t.place == some (5 * 0 + bits (4611686018429485056 : Word) 57 55, bits
    (4611686018429485056 : Word) 54 52, bits (4611686018429485056 : Word) 51 49)) (collie originated 0).pool = some
    (task0 0 TaskSt.running)) ∧
    (0 < 4 ∧ (collie preemptedT 0).pre = some (PreReq.mk 1 2097152) ∧ findTask (collie preemptedT 0) (PreReq.mk 1
    2097152).id = some (task0 0 TaskSt.running) ∧ (task0 0 TaskSt.running).id = (PreReq.mk 1 2097152).id ∧ (task0 0
    TaskSt.running).st = TaskSt.running ∧ taskKind (task0 0 TaskSt.running) ≠ 1 ∧ (∀ (c : Nat), c ∈ taskCores (task0 0
    TaskSt.running) → coreStoppable preemptedT false c = true ∧ (Machine.core preemptedT c).l1 = [] ∧ (Machine.core
    preemptedT c).writes = []) ∧ collectiveOpen preemptedT 0 (task0 0 TaskSt.running).id = false) ∧
    (0 < 4 ∧ List.find? (fun x => x.st == TaskSt.held && x.saved.isSome && (taskCores x).all (coreFree (pooled
    [savedT] State.reset))) (collie (pooled [savedT] State.reset) 0).pool = some savedT ∧ savedT.saved = some
    (2097152, [Core.reset]) ∧ [Core.reset].length = (taskCores savedT).length) :=
  ⟨by decide,
    by decide,
    by decide,
    by decide,
    by decide⟩

theorem witness_ports :
    (11 < 12 ∧ portState (linked 11 2 State.reset) 11 ≠ 0) ∧
    (0 < 12 ∧ portState State.reset 0 = 0) ∧
    (11 < 12) ∧
    (11 < 12 ∧ reg State.reset (rPortcfg 11) = ofFields [(63, (bit (reg State.reset (rPortcfg 11)) 63).toNat), (56,
    bits (reg State.reset (rPortcfg 11)) 57 56)]) ∧
    (0 < 12 ∧ portState (setReg (linked 0 1 State.reset) (rPortcfg 0) (9439544818968559616 : Word)) 0 = 1 ∧ bit (reg
    (setReg (linked 0 1 State.reset) (rPortcfg 0) (9439544818968559616 : Word)) (rPortcfg 0)) 63 = true) ∧
    (11 < 12 ∧ (portState (linked 11 2 State.reset) 11 ≠ 1 ∨ bit (reg (linked 11 2 State.reset) (rPortcfg 11)) 63 =
    false)) :=
  ⟨by decide,
    by decide,
    by decide,
    by decide,
    by decide,
    by decide⟩

theorem witness_routesAndMulticast :
    (bit (28 : Word) 4 = true ∧ 11 < bits (28 : Word) 3 0) ∧
    (bit (268369947 : Word) 4 = false ∨ bits (268369947 : Word) 3 0 ≤ 11) ∧
    (11 < 12 ∧ (portState (linked 11 1 State.reset) 11 ≠ 2 ∨ 1 ≤ tabD (linked 11 1 State.reset).ptmcLast 1 0 ∨
    entryHeld (linked 11 1 State.reset) (BitVec.toNat 0#44) = true)) ∧
    (11 < 12 ∧ portState (linked 11 2 State.reset) 11 = 2 ∧ tabD (linked 11 2 State.reset).ptmcLast 1 0 < 1 ∧
    entryHeld (linked 11 2 State.reset) (BitVec.toNat 0#44) = false) ∧
    (multicasting.ptmcOut = [PtmcOut.mk (PtmcOut.mk 0 3 (0 : DPA) (5 : Word) []).origin (PtmcOut.mk 0 3 (0 : DPA) (5 :
    Word) []).sq (PtmcOut.mk 0 3 (0 : DPA) (5 : Word) []).dpa (PtmcOut.mk 0 3 (0 : DPA) (5 : Word) []).val [2, 4]]) :=
  ⟨by decide,
    by decide,
    by decide,
    by decide,
    by decide⟩

theorem witness_peerAccesses :
    (11 < 12 ∧ portState (linked 11 1 State.reset) 11 ≠ 2) ∧
    (11 < 12 ∧ portState (linked 11 2 State.reset) 11 = 2 ∧ peerNoMem (linked 11 2 State.reset) (peerDpa (readReq
    17592186044400#44).op) = true) ∧
    (11 < 12 ∧ portState (linked 11 2 streams) 11 = 2 ∧ peerNoMem (linked 11 2 streams) (peerDpa (PeerReq.mk
    (PeerOp.read 0#44 16) 5#48 7).op) = false ∧ peerWaits (linked 11 2 streams) 11 (PeerReq.mk (PeerOp.read 0#44 16)
    5#48 7).op = false ∧ genClash (linked 11 2 streams) (peerDpa (PeerReq.mk (PeerOp.read 0#44 16) 5#48 7).op)
    (PeerReq.mk (PeerOp.read 0#44 16) 5#48 7).gn = true) ∧
    (11 < 12 ∧ portState heldLine 11 = 2 ∧ peerNoMem heldLine (peerDpa (readReq 640#44).op) = false ∧ peerWaits
    heldLine 11 (readReq 640#44).op = true) ∧
    (11 < 12 ∧ portState (linked 11 2 lined) 11 = 2 ∧ peerNoMem (linked 11 2 lined) (peerDpa (readReq 640#44).op) =
    false ∧ peerWaits (linked 11 2 lined) 11 (readReq 640#44).op = false ∧ genClash (linked 11 2 lined) (peerDpa
    (readReq 640#44).op) (readReq 640#44).gn = false ∧ (readReq 640#44).op = PeerOp.read (BitVec.ofNat 44 (peerDpa
    (readReq 640#44).op)) 16) ∧
    (∃ t, 11 < 12 ∧ portState (linked 11 2 lined) 11 = 2 ∧ peerNoMem (linked 11 2 lined) (peerDpa writeReq.op) = false
    ∧ peerWaits (linked 11 2 lined) 11 writeReq.op = false ∧ genClash (linked 11 2 lined) (peerDpa writeReq.op)
    writeReq.gn = false ∧ writeReq.op = PeerOp.write (BitVec.ofNat 44 (peerDpa writeReq.op)) 255#128 9#1024 ∧
    sliceWrite (linked 11 2 lined) (WriteSrc.peer writeReq.gn) Policy.second false (peerDpa writeReq.op / 128) 255#128
    9#1024 = WriteRes.done t) :=
  ⟨by decide,
    by decide,
    by decide,
    by decide,
    by decide,
    by refine ⟨_, by decide, by decide, by decide, by decide, by decide, rfl, rfl⟩⟩

theorem witness_peerAccesses_2 :
    (∃ t old fl, 11 < 12 ∧ portState (linked 11 2 lined) 11 = 2 ∧ peerNoMem (linked 11 2 lined) (peerDpa amoReq.op) =
    false ∧ peerWaits (linked 11 2 lined) 11 amoReq.op = false ∧ genClash (linked 11 2 lined) (peerDpa amoReq.op)
    amoReq.gn = false ∧ amoReq.op = PeerOp.amo (BitVec.ofNat 44 (peerDpa amoReq.op)) SliceOp.add true 9#64 ∧ sliceRmw
    (linked 11 2 lined) (WriteSrc.peer amoReq.gn) Policy.second (peerDpa amoReq.op) (if true = true then 8 else 4)
    (amoStep SliceOp.add (if true = true then 8 else 4) (BitVec.toNat 9#64)) = RmwRes.done t old fl) ∧
    (∀ (p : PeerOut), p ∈ State.reset.peerOut → p.tag ≠ 3) ∧
    ((asked (PeerOp.read 0#44 8) (PeerFor.fetch 0 RoleId.C 0) 2 1 State.reset).peerOut = [askedOut (PeerOp.read 0#44
    8) (PeerFor.fetch 0 RoleId.C 0) 2] ∧ (askedOut (PeerOp.read 0#44 8) (PeerFor.fetch 0 RoleId.C 0) 2).port < 12 ∧
    portState (asked (PeerOp.read 0#44 8) (PeerFor.fetch 0 RoleId.C 0) 2 1 State.reset) (askedOut (PeerOp.read 0#44 8)
    (PeerFor.fetch 0 RoleId.C 0) 2).port = 1) ∧
    ((asked (PeerOp.read 0#44 8) (PeerFor.fetch 0 RoleId.C 0) 2 2 State.reset).peerOut = [askedOut (PeerOp.read 0#44
    8) (PeerFor.fetch 0 RoleId.C 0) 2] ∧ ¬((askedOut (PeerOp.read 0#44 8) (PeerFor.fetch 0 RoleId.C 0) 2).port < 12 ∧
    portState (asked (PeerOp.read 0#44 8) (PeerFor.fetch 0 RoleId.C 0) 2 2 State.reset) (askedOut (PeerOp.read 0#44 8)
    (PeerFor.fetch 0 RoleId.C 0) 2).port = 1) ∧ (askedOut (PeerOp.read 0#44 8) (PeerFor.fetch 0 RoleId.C 0) 2).who =
    PeerFor.fetch 0 RoleId.C 0 ∧ answered (asked (PeerOp.read 0#44 8) (PeerFor.fetch 0 RoleId.C 0) 2 2 State.reset)
    (askedOut (PeerOp.read 0#44 8) (PeerFor.fetch 0 RoleId.C 0) 2) PeerStatus.ok = PeerStatus.ok) ∧
    ((asked (PeerOp.read 0#44 8) (PeerFor.load 0 RoleId.C 1 0) 2 2 (loading farLoad)).peerOut = [askedOut (PeerOp.read
    0#44 8) (PeerFor.load 0 RoleId.C 1 0) 2] ∧ ¬((askedOut (PeerOp.read 0#44 8) (PeerFor.load 0 RoleId.C 1 0) 2).port
    < 12 ∧ portState (asked (PeerOp.read 0#44 8) (PeerFor.load 0 RoleId.C 1 0) 2 2 (loading farLoad)) (askedOut
    (PeerOp.read 0#44 8) (PeerFor.load 0 RoleId.C 1 0) 2).port = 1) ∧ (askedOut (PeerOp.read 0#44 8) (PeerFor.load 0
    RoleId.C 1 0) 2).who = PeerFor.load 0 RoleId.C 1 0 ∧ (askedOut (PeerOp.read 0#44 8) (PeerFor.load 0 RoleId.C 1 0)
    2).op = PeerOp.read 0#44 8 ∧ findLoad (asked (PeerOp.read 0#44 8) (PeerFor.load 0 RoleId.C 1 0) 2 2 (loading
    farLoad)) 0 RoleId.C 1 = some farLoad ∧ farLoad.parts[0]? = some farPart ∧ answered (asked (PeerOp.read 0#44 8)
    (PeerFor.load 0 RoleId.C 1 0) 2 2 (loading farLoad)) (askedOut (PeerOp.read 0#44 8) (PeerFor.load 0 RoleId.C 1 0)
    2) PeerStatus.ok = PeerStatus.ok) ∧
    ((asked (PeerOp.write 0#44 255#128 7#1024) (PeerFor.write 0 1) 2 2 (writing farWrite)).peerOut = [askedOut
    (PeerOp.write 0#44 255#128 7#1024) (PeerFor.write 0 1) 2] ∧ ¬((askedOut (PeerOp.write 0#44 255#128 7#1024)
    (PeerFor.write 0 1) 2).port < 12 ∧ portState (asked (PeerOp.write 0#44 255#128 7#1024) (PeerFor.write 0 1) 2 2
    (writing farWrite)) (askedOut (PeerOp.write 0#44 255#128 7#1024) (PeerFor.write 0 1) 2).port = 1) ∧ (askedOut
    (PeerOp.write 0#44 255#128 7#1024) (PeerFor.write 0 1) 2).who = PeerFor.write 0 1 ∧ findWrite (Machine.core (asked
    (PeerOp.write 0#44 255#128 7#1024) (PeerFor.write 0 1) 2 2 (writing farWrite)) 0) 1 = some farWrite ∧
    farWrite.thru = false ∧ answered (asked (PeerOp.write 0#44 255#128 7#1024) (PeerFor.write 0 1) 2 2 (writing
    farWrite)) (askedOut (PeerOp.write 0#44 255#128 7#1024) (PeerFor.write 0 1) 2) PeerStatus.ok = PeerStatus.ok) :=
  ⟨by refine ⟨_, _, _, by decide, by decide, by decide, by decide, by decide, rfl, rfl⟩,
    by decide,
    by decide,
    by decide,
    by decide,
    by decide⟩

theorem witness_peerAccesses_3 :
    ((asked (PeerOp.write 0#44 255#128 7#1024) (PeerFor.write 0 1) 12 2 (running (task0 0 TaskSt.running) (writing
    farWrite))).peerOut = [askedOut (PeerOp.write 0#44 255#128 7#1024) (PeerFor.write 0 1) 12] ∧ ¬((askedOut
    (PeerOp.write 0#44 255#128 7#1024) (PeerFor.write 0 1) 12).port < 12 ∧ portState (asked (PeerOp.write 0#44 255#128
    7#1024) (PeerFor.write 0 1) 12 2 (running (task0 0 TaskSt.running) (writing farWrite))) (askedOut (PeerOp.write
    0#44 255#128 7#1024) (PeerFor.write 0 1) 12).port = 1) ∧ (askedOut (PeerOp.write 0#44 255#128 7#1024)
    (PeerFor.write 0 1) 12).who = PeerFor.write 0 1 ∧ findWrite (Machine.core (asked (PeerOp.write 0#44 255#128
    7#1024) (PeerFor.write 0 1) 12 2 (running (task0 0 TaskSt.running) (writing farWrite))) 0) 1 = some farWrite ∧
    farWrite.thru = false ∧ answered (asked (PeerOp.write 0#44 255#128 7#1024) (PeerFor.write 0 1) 12 2 (running
    (task0 0 TaskSt.running) (writing farWrite))) (askedOut (PeerOp.write 0#44 255#128 7#1024) (PeerFor.write 0 1) 12)
    PeerStatus.ok = PeerStatus.noRoute ∧ contextAt (asked (PeerOp.write 0#44 255#128 7#1024) (PeerFor.write 0 1) 12 2
    (running (task0 0 TaskSt.running) (writing farWrite))) 0 = true) ∧
    (∃ t v, 11 < 12 ∧ portState (linked 11 2 guarded) 11 = 2 ∧ peerNoMem (linked 11 2 guarded) (peerDpa fullReq.op) =
    false ∧ peerWaits (linked 11 2 guarded) 11 fullReq.op = false ∧ genClash (linked 11 2 guarded) (peerDpa
    fullReq.op) fullReq.gn = false ∧ fullReq.op = PeerOp.write (BitVec.ofNat 44 (peerDpa fullReq.op)) 255#128 9#1024 ∧
    sliceWrite (linked 11 2 guarded) (WriteSrc.peer fullReq.gn) Policy.second false (peerDpa fullReq.op / 128) 255#128
    9#1024 = WriteRes.full t v) ∧
    (∃ t, 11 < 12 ∧ portState (linked 11 2 blockLined) 11 = 2 ∧ peerNoMem (linked 11 2 blockLined) (peerDpa
    blockReq.op) = false ∧ peerWaits (linked 11 2 blockLined) 11 blockReq.op = false ∧ genClash (linked 11 2
    blockLined) (peerDpa blockReq.op) blockReq.gn = false ∧ blockReq.op = PeerOp.block (BitVec.ofNat 44 (peerDpa
    blockReq.op)) 7#16384 ∧ writeBlock blockReq.gn (linked 11 2 blockLined) (List.map (fun x => (x.fst, blockLine
    7#16384 x.snd)) (peerLines blockReq.op).zipIdx) = WriteRes.done t) :=
  ⟨by decide,
    by refine ⟨_, _, by decide, by decide, by decide, by decide, by decide, rfl, rfl⟩,
    by refine ⟨_, by decide, by decide, by decide, by decide, by decide, rfl, rfl⟩⟩

theorem witness_collectives :
    (11 < 12 ∧ portState (linked 11 1 State.reset) 11 ≠ 2) ∧
    (11 < 12 ∧ portState (linked 11 2 State.reset) 11 = 2 ∧ matchPart (linked 11 2 State.reset) 11 (partOf 0#16 256) =
    none ∧ parkedBytes (port (linked 11 2 State.reset) 11) + (partOf 0#16 256).bytes.length ≤ 2 ^ 18) ∧
    (11 < 12 ∧ portState (linked 11 2 (posting (posted 0) State.reset)) 11 = 2 ∧ matchPart (linked 11 2 (posting
    (posted 0) State.reset)) 11 (partOf 0#16 256) = some (0, posted 0) ∧ partFits (posted 0) (partOf 0#16 256) = true) ∧
    (11 < 12 ∧ portState (linked 11 2 (posting (posted 0) State.reset)) 11 = 2 ∧ matchPart (linked 11 2 (posting
    (posted 0) State.reset)) 11 (partOf 0#16 255) = some (0, posted 0) ∧ partFits (posted 0) (partOf 0#16 255) =
    false) ∧
    (0 < 12 ∧ (port parked 0).parked = [partOf 1#16 256]) ∧
    (0 < 12 ∧ findPosted (posting (posted 1) State.reset) 0 0 = some (posted 1) ∧ (posted 1).walked = spanTuples
    (posted 1).words ∧ (posted 1).closed * spanBound (posted 1).words 0 = spanTuples (posted 1).words ∧ (posted 1).out
    = []) :=
  ⟨by decide,
    by decide,
    by decide,
    by decide,
    by decide,
    by decide⟩

theorem witness_collectives_2 :
    (0 < 12 ∧ findPosted (posting (posted 0) State.reset) 0 0 = some (posted 0) ∧ spanDone (posted 0) = false) ∧
    (2 < 12 ∧ (sending 1).sent = [sentPart] ∧ sentPart.tag = 6 ∧ sentPart.port < 12 ∧ findPosted (sending 1)
    sentPart.home sentPart.k = some postedOut ∧ portState (sending 1) sentPart.port = 1) ∧
    (2 < 12 ∧ (sending 2).sent = [sentPart] ∧ sentPart.tag = 6 ∧ sentPart.port < 12 ∧ findPosted (sending 2)
    sentPart.home sentPart.k = some postedOut ∧ portState (sending 2) sentPart.port = 2 ∧ PartStatus.ok =
    PartStatus.ok) ∧
    (2 < 12 ∧ (sending 2).sent = [sentPart] ∧ sentPart.tag = 6 ∧ sentPart.port < 12 ∧ findPosted (sending 2)
    sentPart.home sentPart.k = some postedOut ∧ (portState (sending 2) sentPart.port = 0 ∨ portState (sending 2)
    sentPart.port = 2 ∧ PartStatus.refused ≠ PartStatus.ok)) :=
  ⟨by decide,
    by decide,
    by decide,
    by decide⟩

theorem witness_hostRegisterReads :
    (hostReads (Instr.fqptrRead 3) = some 1111 ∧ hostOpen (hosted State.reset)) ∧
    (hostReads Instr.ksstatRead = some 273 ∧ hostOpen (hosted State.reset)) ∧
    (hostOpen (hosted State.reset)) ∧
    (3 < 4 ∧ hostOpen (hosted State.reset)) ∧
    (hostOpen (hosted State.reset) ∧ 2049 % 8 ≠ 0) ∧
    (hostOpen (hosted State.reset) ∧ 8192 = 8 * 1024 ∧ 256 ≤ 1024 ∧ 1024 < 2048) :=
  ⟨by exact ⟨rfl, ⟨by decide, by decide⟩⟩,
    by exact ⟨rfl, ⟨by decide, by decide⟩⟩,
    by exact ⟨by decide, by decide⟩,
    by exact ⟨by decide, by decide, by decide⟩,
    by exact ⟨⟨by decide, by decide⟩, by decide⟩,
    by exact ⟨⟨by decide, by decide⟩, by decide, by decide, by decide⟩⟩

theorem witness_hostRegisterReads_2 :
    (hostOpen (hosted State.reset) ∧ 3 < 4 ∧ 1064992 = 1064968 + 8 * 3) ∧
    (hostOpen (hosted State.reset) ∧ coreExists (hosted State.reset) 0 = true ∧ 4 < 5 ∧ 33554464 = 33554432 + 4096 * 0
    + 8 * 4) ∧
    (tripped (setting rThermctl (9223372036854775808 : Word) State.reset) = true ∧ (1184 = 1137 ∨ 1184 = 1184)) ∧
    (tripped (setting rThermctl (9223372036854775808 : Word) State.reset) = true ∧ 1136 ≠ 1137 ∧ 1136 ≠ 1184) ∧
    (tripped (setting rBootstat (72339069014638592 : Word) State.reset) = false ∧ booted (setting rBootstat
    (72339069014638592 : Word) State.reset) = false ∧ bits (reg (setting rBootstat (72339069014638592 : Word)
    State.reset) 1137) 63 56 ≠ 0) :=
  ⟨by exact ⟨⟨by decide, by decide⟩, by decide, by decide⟩,
    by exact ⟨⟨by decide, by decide⟩, by decide, by decide, by decide⟩,
    by exact ⟨by decide, .inr rfl⟩,
    by exact ⟨by decide, by decide, by decide⟩,
    by exact ⟨by decide, by decide, by decide⟩⟩

theorem witness_hostAccesses :
    (hostOpen (hosted State.reset) ∧ hostLocate Want.read 0 (hosted State.reset) (linesOf 0 8) = none) ∧
    (∃ t ps, hostOpen windowed ∧ hostLocate Want.read 4 windowed (linesOf 4 8) = some (t, ps) ∧ ps.any (hostHeld
    windowed false) = false ∧ (hostGet t ps).snd.snd = false) ∧
    (∃ t ps, hostOpen readPartner ∧ hostLocate Want.read 4 readPartner (linesOf 4 8) = some (t, ps) ∧ ps.any (hostHeld
    readPartner false) = false ∧ (hostGet t ps).snd.snd = true) ∧
    (hostOpen (hosted State.reset) ∧ hostLocate Want.write 0 (hosted State.reset) (linesOf 0 [(1 : Byte)].length) =
    none) ∧
    (∃ t ps, hostOpen windowed ∧ hostLocate Want.write 4 windowed (linesOf 4 [(1 : Byte), (2 : Byte)].length) = some
    (t, ps) ∧ ps.any (hostHeld windowed true) = false ∧ (hostPut [(1 : Byte), (2 : Byte)] (ps.length + 1) t ps).snd =
    false) ∧
    (hostOpen (hosted State.reset) ∧ (4 % 8 ≠ 0 ∨ 8 ≠ 8)) :=
  ⟨by exact ⟨⟨by decide, by decide⟩, rfl⟩,
    by refine ⟨_, _, ⟨by decide, by decide⟩, rfl, by decide, by decide⟩,
    by refine ⟨_, _, ⟨by decide, by decide⟩, rfl, by decide, by decide⟩,
    by exact ⟨⟨by decide, by decide⟩, rfl⟩,
    by refine ⟨_, _, ⟨by decide, by decide⟩, rfl, by decide, by decide⟩,
    by exact ⟨⟨by decide, by decide⟩, by decide⟩⟩

theorem witness_hostAccesses_2 :
    (hostOpen (hosted State.reset)) ∧
    (hostOpen (hosted State.reset) ∧ 256 ≤ 2047 ∧ 2047 < 2048 ∧ (2047 < 1140 ∨ 1144 ≤ 2047)) ∧
    (((∃ va n, Instr.herrRead = Instr.hostRead va n) ∨ (∃ va bs, Instr.herrRead = Instr.hostWrite va bs) ∨
    Instr.herrRead = Instr.herrRead ∨ ∃ n x, Instr.herrRead = Instr.registerWrite n x) ∧ tripped (setting rThermctl
    (9223372036854775808 : Word) State.reset) = true) ∧
    (((∃ va n, Instr.hostRead 0 8 = Instr.hostRead va n) ∨ (∃ va bs, Instr.hostRead 0 8 = Instr.hostWrite va bs) ∨
    Instr.hostRead 0 8 = Instr.herrRead ∨ ∃ n x, Instr.hostRead 0 8 = Instr.registerWrite n x) ∧ tripped State.reset =
    false ∧ booted State.reset = false) :=
  ⟨by exact ⟨by decide, by decide⟩,
    by exact ⟨⟨by decide, by decide⟩, by decide, by decide, by decide⟩,
    by exact ⟨.inr (.inr (.inl rfl)), by decide⟩,
    by exact ⟨.inl ⟨0, 8, rfl⟩, by decide, by decide⟩⟩

theorem witness_debugWindow :
    (coreExists unhalted 0 = true ∧ hostOpen unhalted ∧ bits (263 : Word) 6 4 = 0) ∧
    (roleExists (halted 0 1) 0 RoleId.C = true ∧ hostOpen (halted 0 1)) ∧
    (roleExists breakingAt 0 RoleId.C = true ∧ roleHeld breakingAt 0 RoleId.C = false ∧ (getRole breakingAt 0
    RoleId.C).bpPass = false ∧ breakAt (Machine.core breakingAt 0) RoleId.C (getRole breakingAt 0 RoleId.C).pc = true
    ∧ peekWord breakingAt 0 RoleId.C (BitVec.toNat (getRole breakingAt 0 RoleId.C).pc) = some (0 : Word) ∧ executes 0
    RoleId.C (0 : Word) = true) ∧
    (coreExists unhalted 0 = true ∧ hostOpen unhalted ∧ bit (Machine.core unhalted 0).dbg.halt (roleNum (selRole 0
    (Machine.core unhalted 0))) = false) ∧
    (coreExists (halted 0 1) 0 = true ∧ hostOpen (halted 0 1) ∧ bit (Machine.core (halted 0 1) 0).dbg.halt (roleNum
    (selRole 0 (Machine.core (halted 0 1) 0))) = true ∧ selKind (Machine.core (halted 0 1) 0) = 0 ∧ 1 ≤ selIndex
    (Machine.core (halted 0 1) 0) ∧ selIndex (Machine.core (halted 0 1) 0) < 48 ∧ tabGet (getRole (halted 0 1) 0
    (selRole 0 (Machine.core (halted 0 1) 0))).g (selIndex (Machine.core (halted 0 1) 0)) = some (Reg.mk (BitVec.ofNat
    64 (NW + 262144)) false)) ∧
    (coreExists (halted 0 47) 0 = true ∧ hostOpen (halted 0 47) ∧ bit (Machine.core (halted 0 47) 0).dbg.halt (roleNum
    (selRole 0 (Machine.core (halted 0 47) 0))) = true ∧ selKind (Machine.core (halted 0 47) 0) = 0 ∧ 1 ≤ selIndex
    (Machine.core (halted 0 47) 0) ∧ selIndex (Machine.core (halted 0 47) 0) < 48 ∧ tabGet (getRole (halted 0 47) 0
    (selRole 0 (Machine.core (halted 0 47) 0))).g (selIndex (Machine.core (halted 0 47) 0)) = none) :=
  ⟨by exact ⟨by decide, ⟨by decide, by decide⟩, by decide⟩,
    by exact ⟨by decide, by decide, by decide⟩,
    by decide,
    by exact ⟨by decide, ⟨by decide, by decide⟩, by decide⟩,
    by exact ⟨by decide, ⟨by decide, by decide⟩, by decide, by decide, by decide, by decide, by decide⟩,
    by exact ⟨by decide, ⟨by decide, by decide⟩, by decide, by decide, by decide, by decide, by decide⟩⟩

theorem witness_debugWindow_2 :
    (coreExists (halted 1 127) 0 = true ∧ hostOpen (halted 1 127) ∧ bit (Machine.core (halted 1 127) 0).dbg.halt
    (roleNum (selRole 0 (Machine.core (halted 1 127) 0))) = true ∧ selKind (Machine.core (halted 1 127) 0) = 1 ∧
    selIndex (Machine.core (halted 1 127) 0) / 64 < 28 ∧ tabGet (getRole (halted 1 127) 0 (selRole 0 (Machine.core
    (halted 1 127) 0))).v (selIndex (Machine.core (halted 1 127) 0) / 64) = some (ofLanes fun _ => 3#32)) ∧
    (coreExists (halted 3 0) 0 = true ∧ hostOpen (halted 3 0) ∧ bit (Machine.core (halted 3 0) 0).dbg.halt (roleNum
    (selRole 0 (Machine.core (halted 3 0) 0))) = true ∧ selKind (Machine.core (halted 3 0) 0) = 3) ∧
    (coreExists unhalted 0 = true ∧ hostOpen unhalted ∧ bit (Machine.core unhalted 0).dbg.halt (roleNum (selRole 0
    (Machine.core unhalted 0))) = false) ∧
    (coreExists (halted 0 47) 0 = true ∧ hostOpen (halted 0 47) ∧ bit (Machine.core (halted 0 47) 0).dbg.halt (roleNum
    (selRole 0 (Machine.core (halted 0 47) 0))) = true ∧ selKind (Machine.core (halted 0 47) 0) = 0 ∧ 1 ≤ selIndex
    (Machine.core (halted 0 47) 0) ∧ selIndex (Machine.core (halted 0 47) 0) < 48) ∧
    (coreExists (halted 3 0) 0 = true ∧ hostOpen (halted 3 0) ∧ bit (Machine.core (halted 3 0) 0).dbg.halt (roleNum
    (selRole 0 (Machine.core (halted 3 0) 0))) = true ∧ selKind (Machine.core (halted 3 0) 0) = 3) :=
  ⟨by exact ⟨by decide, ⟨by decide, by decide⟩, by decide, by decide, by decide, rfl⟩,
    by exact ⟨by decide, ⟨by decide, by decide⟩, by decide, by decide⟩,
    by exact ⟨by decide, ⟨by decide, by decide⟩, by decide⟩,
    by exact ⟨by decide, ⟨by decide, by decide⟩, by decide, by decide, by decide, by decide⟩,
    by exact ⟨by decide, ⟨by decide, by decide⟩, by decide, by decide⟩⟩

theorem witness_wordsComplete :
    ((∃ x, alu3Of (worker three) (Instr.popc mA (4 : G6) (1 : G6) (Guard.mk false 5#3)) = some x ∧ mA = x.m ∧ Guard.mk
    false 5#3 = x.g) ∨ (∃ x, alu2Of (Instr.popc mA (4 : G6) (1 : G6) (Guard.mk false 5#3)) = some x ∧ mA = x.m ∧
    Guard.mk false 5#3 = x.g) ∨ (∃ x, predOf (Instr.popc mA (4 : G6) (1 : G6) (Guard.mk false 5#3)) = some x ∧ mA =
    x.m ∧ Guard.mk false 5#3 = x.g) ∨ (∃ x, loadOf (Instr.popc mA (4 : G6) (1 : G6) (Guard.mk false 5#3)) = some x ∧
    mA = x.m ∧ Guard.mk false 5#3 = x.g) ∨ ∃ sz a e, Instr.popc mA (4 : G6) (1 : G6) (Guard.mk false 5#3) = Instr.st
    mA sz a e (Guard.mk false 5#3)) ∧ ready (worker three) (Instr.popc mA (4 : G6) (1 : G6) (Guard.mk false 5#3)) mA 1
    = true ∧ guardHolds (worker three) (Guard.mk false 5#3) = false := by
  exact ⟨.inr (.inl ⟨_, rfl, rfl, rfl⟩), by decide, by decide⟩

theorem witness_operandForms :
    (1 ≤ BitVec.toNat (1 : G6) ∧ BitVec.toNat (1 : G6) < 48 ∧ BitVec.toNat (2 : G6) < 48 ∧ (2 : G6) ≠ (1 : G6)) ∧
    (48 ≤ BitVec.toNat (48 : G6) ∧ tabD (Machine.core (queued 0 [QSlot.full (Reg.mk (9 : Word) true)]) (queued 0
    [QSlot.full (Reg.mk (9 : Word) true)]).cur.fst).queues (queueOf (48 : G6)) [] = [QSlot.full (Reg.mk (9 : Word)
    true)]) ∧
    (48 ≤ BitVec.toNat (56 : G6) ∧ tabD (Machine.core (queued 0 [QSlot.full (Reg.mk (9 : Word) true)]) (queued 0
    [QSlot.full (Reg.mk (9 : Word) true)]).cur.fst).queues (queueOf (56 : G6)) [] = [QSlot.full (Reg.mk (9 : Word)
    true)]) ∧
    (48 ≤ BitVec.toNat (50 : G6)) ∧
    (∃ x, alu2Of (Instr.popc mA (4 : G6) (47 : G6) ng) = some x ∧ ready (worker three) (Instr.popc mA (4 : G6) (47 :
    G6) ng) x.m 1 = true ∧ guardHolds (worker three) x.g = true ∧ (getRole (worker three) (worker three).cur.fst
    (worker three).cur.snd).loads = [] ∧ 1 ≤ BitVec.toNat x.ra ∧ BitVec.toNat x.ra < 48 ∧ tabGet (getRole (worker
    three) (worker three).cur.fst (worker three).cur.snd).g (BitVec.toNat x.ra) = none) ∧
    (∃ x, alu2Of (Instr.popc mA (4 : G6) (50 : G6) ng) = some x ∧ ready (worker three) (Instr.popc mA (4 : G6) (50 :
    G6) ng) x.m 1 = true ∧ guardHolds (worker three) x.g = true ∧ (getRole (worker three) (worker three).cur.fst
    (worker three).cur.snd).loads = [] ∧ 48 ≤ BitVec.toNat x.ra ∧ (qRoles (Machine.core (worker three) (worker
    three).cur.fst) (queueOf x.ra)).snd ≠ some (worker three).cur.snd) :=
  ⟨by decide,
    by decide,
    by decide,
    by decide,
    by exact ⟨_, rfl, by decide, by decide, by decide, by decide, by decide, by decide⟩,
    by exact ⟨_, rfl, by decide, by decide, by decide, by decide, by decide⟩⟩

theorem witness_operandForms_2 :
    (∃ x, alu2Of (Instr.popc mA (4 : G6) (54 : G6) ng) = some x ∧ ready (worker three) (Instr.popc mA (4 : G6) (54 :
    G6) ng) x.m 1 = true ∧ guardHolds (worker three) x.g = true ∧ (getRole (worker three) (worker three).cur.fst
    (worker three).cur.snd).loads = [] ∧ 48 ≤ BitVec.toNat x.ra ∧ qRoles (Machine.core (worker three) (worker
    three).cur.fst) (queueOf x.ra) = (some (worker three).cur.snd, some (worker three).cur.snd) ∧ qLen (Machine.core
    (worker three) (worker three).cur.fst) (queueOf x.ra) = 0) ∧
    (∃ x, alu2Of (Instr.popc mA (0 : G6) (48 : G6) ng) = some x ∧ ready (worker three) (Instr.popc mA (0 : G6) (48 :
    G6) ng) x.m 1 = true ∧ guardHolds (worker three) x.g = true ∧ (getRole (worker three) (worker three).cur.fst
    (worker three).cur.snd).loads = [] ∧ 48 ≤ BitVec.toNat x.ra ∧ x.rd = (0 : G6) ∧ (qRoles (Machine.core (worker
    three) (worker three).cur.fst) (queueOf x.ra)).snd = some (worker three).cur.snd ∧ (qRoles (Machine.core (worker
    three) (worker three).cur.fst) (queueOf x.ra)).fst ≠ some (worker three).cur.snd ∧ qFilled (Machine.core (worker
    three) (worker three).cur.fst) (queueOf x.ra) 0 = false) ∧
    (ready (worker three) (Instr.li mA (48 : G6) 9#32 ng) mA 1 = true ∧ guardHolds (worker three) ng = true ∧ 48 ≤
    BitVec.toNat (48 : G6) ∧ (qRoles (Machine.core (worker three) (worker three).cur.fst) (queueOf (48 : G6))).fst ≠
    some (worker three).cur.snd) ∧
    (ready (queued 6 (List.replicate 4 (QSlot.full (Reg.mk (9 : Word) true)))) (Instr.li mA (54 : G6) 9#32 ng) mA 1 =
    true ∧ guardHolds (queued 6 (List.replicate 4 (QSlot.full (Reg.mk (9 : Word) true)))) ng = true ∧ 48 ≤
    BitVec.toNat (54 : G6) ∧ qRoles (Machine.core (queued 6 (List.replicate 4 (QSlot.full (Reg.mk (9 : Word) true))))
    (queued 6 (List.replicate 4 (QSlot.full (Reg.mk (9 : Word) true)))).cur.fst) (queueOf (54 : G6)) = (some (queued 6
    (List.replicate 4 (QSlot.full (Reg.mk (9 : Word) true)))).cur.snd, some (queued 6 (List.replicate 4 (QSlot.full
    (Reg.mk (9 : Word) true)))).cur.snd) ∧ 4 ≤ qLen (Machine.core (queued 6 (List.replicate 4 (QSlot.full (Reg.mk (9 :
    Word) true)))) (queued 6 (List.replicate 4 (QSlot.full (Reg.mk (9 : Word) true)))).cur.fst) (queueOf (54 : G6))) :=
  ⟨by exact ⟨_, rfl, by decide, by decide, by decide, by decide, by decide, by decide⟩,
    by exact ⟨_, rfl, by decide, by decide, by decide, by decide, by decide, by decide, by decide, by decide⟩,
    by decide,
    by decide⟩

theorem witness_registerWordFrame :
    (∃ x, alu3Of (worker three) (Instr.sub mA (4 : G6) (1 : G6) (2 : G6) ng) = some x ∧ ready (worker three)
    (Instr.sub mA (4 : G6) (1 : G6) (2 : G6) ng) x.m 1 = true ∧ guardHolds (worker three) x.g = true ∧ usable (worker
    three) [Src.g x.ra, Src.g x.rb] (Dst.g x.rd) = true) ∧
    (∃ x, alu2Of (Instr.popc mA (0 : G6) (3 : G6) ng) = some x ∧ ready (worker three) (Instr.popc mA (0 : G6) (3 : G6)
    ng) x.m 1 = true ∧ guardHolds (worker three) x.g = true ∧ usable (worker three) [Src.g x.ra] (Dst.g x.rd) = true) ∧
    (∃ x, predOf (Instr.pand mA (7 : P3) (2 : P3) (3 : P3) ng) = some x ∧ ready (worker three) (Instr.pand mA (7 : P3)
    (2 : P3) (3 : P3) ng) x.m 1 = true ∧ guardHolds (worker three) x.g = true) ∧
    (ready (worker three) (Instr.cmp mA Cond.lt (7 : P3) (1 : G6) (2 : G6) ng) mA 1 = true ∧ guardHolds (worker three)
    ng = true ∧ usable (worker three) [Src.g (1 : G6), Src.g (2 : G6)] Dst.none = true) :=
  ⟨by exact ⟨_, rfl, by decide, by decide, by decide⟩,
    by exact ⟨_, rfl, by decide, by decide, by decide⟩,
    by exact ⟨_, rfl, by decide, by decide⟩,
    by decide⟩

theorem witness_storeFrame :
    (∃ t, ready storing (Instr.st mA Size.d (2 : G6) base0 ng) mA 1 = true ∧ guardHolds storing ng = true ∧ usable
    storing [Src.g (2 : G6), Src.g base0.rb, Src.g base0.ri] Dst.none = true ∧ Memory.wf storing.mem = true ∧ coreLoc
    storing storing.cur.fst Want.write (!systemMode storing storing.cur.fst storing.cur.snd) false true (storeArgs
    storing (2 : G6) base0).snd.fst (sizeBytes Size.d) = Except.ok (t, Loc.pool (poolBase 0 + 262144)) ∧ (storeArgs
    storing (2 : G6) base0).snd.fst % sizeBytes Size.d = 0 ∧ locBusy storing storing.cur.fst storing.cur.snd (Loc.pool
    (poolBase 0 + 262144)) = false ∧ relSettled storing storing.cur.fst storing.cur.snd = true ∧ stage storing.cur.fst
    storing.cur.snd storing = 0) ∧
    (∃ t tgt leaf, ready carved (Instr.st mA Size.d (2 : G6) base0 ng) mA 1 = true ∧ guardHolds carved ng = true ∧
    usable carved [Src.g (2 : G6), Src.g base0.rb, Src.g base0.ri] Dst.none = true ∧ coreLoc carved carved.cur.fst
    Want.write (!systemMode carved carved.cur.fst carved.cur.snd) false true (storeArgs carved (2 : G6) base0).snd.fst
    (sizeBytes Size.d) = Except.ok (t, Loc.dev tgt leaf) ∧ (storeArgs carved (2 : G6) base0).snd.fst % sizeBytes
    Size.d = 0 ∧ locBusy t carved.cur.fst carved.cur.snd (Loc.dev tgt leaf) = false ∧ relSettled carved carved.cur.fst
    carved.cur.snd = true ∧ stage carved.cur.fst carved.cur.snd carved = 0 ∧ inOpenRange t tgt = false) :=
  ⟨by exact ⟨_, by decide, by decide, by decide, by decide, rfl, by decide, by decide, by decide, by decide⟩,
    by exact ⟨_, _, _, by decide, by decide, by decide, rfl, by decide, by decide, by decide, by decide, by decide⟩⟩

theorem witness_stepRunsDecoded :
    (∃ t, (stepping [(184647584722190336 : Word)] (Choice.role 0 RoleId.C)).sched = [if false = true then
    Choice.roleAlt 0 RoleId.C else Choice.role 0 RoleId.C] ∧ clockGated (stepping [(184647584722190336 : Word)]
    (Choice.role 0 RoleId.C)) 0 = false ∧ roleExists (stepping [(184647584722190336 : Word)] (Choice.role 0 RoleId.C))
    0 RoleId.C = true ∧ booted (stepping [(184647584722190336 : Word)] (Choice.role 0 RoleId.C)) = true ∧ tripped
    (stepping [(184647584722190336 : Word)] (Choice.role 0 RoleId.C)) = false ∧ (isSystem 0 = true ∨ (Machine.core
    (stepping [(184647584722190336 : Word)] (Choice.role 0 RoleId.C)) 0).task ≠ none) ∧ roleHeld (stepping
    [(184647584722190336 : Word)] (Choice.role 0 RoleId.C)) 0 RoleId.C = false ∧ (getRole (stepping
    [(184647584722190336 : Word)] (Choice.role 0 RoleId.C)) 0 RoleId.C).pushDue = false ∧ fetch (acting (stepping
    [(184647584722190336 : Word)] (Choice.role 0 RoleId.C)) false 0 RoleId.C []) 0 RoleId.C (BitVec.toNat (getRole
    (stepping [(184647584722190336 : Word)] (Choice.role 0 RoleId.C)) 0 RoleId.C).pc) = Except.ok (t, some
    (184647584722190336 : Word)) ∧ executes 0 RoleId.C (184647584722190336 : Word) = true ∧ (breakAt (Machine.core t
    0) RoleId.C (getRole (stepping [(184647584722190336 : Word)] (Choice.role 0 RoleId.C)) 0 RoleId.C).pc = false ∨
    (getRole t 0 RoleId.C).bpPass = true) ∧ takesTwo (184647584722190336 : Word) = false ∧ decodeWords
    (184647584722190336 : Word) none = Except.ok (Instr.fin (Mark.mk RoleTag.C false false))) ∧
    (∃ t i u, (stepping [(189151184349562368 : Word), (1143914305352105987 : Word)] (Choice.role 0 RoleId.C)).sched =
    [if false = true then Choice.roleAlt 0 RoleId.C else Choice.role 0 RoleId.C] ∧ clockGated (stepping
    [(189151184349562368 : Word), (1143914305352105987 : Word)] (Choice.role 0 RoleId.C)) 0 = false ∧ roleExists
    (stepping [(189151184349562368 : Word), (1143914305352105987 : Word)] (Choice.role 0 RoleId.C)) 0 RoleId.C = true
    ∧ booted (stepping [(189151184349562368 : Word), (1143914305352105987 : Word)] (Choice.role 0 RoleId.C)) = true ∧
    tripped (stepping [(189151184349562368 : Word), (1143914305352105987 : Word)] (Choice.role 0 RoleId.C)) = false ∧
    (isSystem 0 = true ∨ (Machine.core (stepping [(189151184349562368 : Word), (1143914305352105987 : Word)]
    (Choice.role 0 RoleId.C)) 0).task ≠ none) ∧ roleHeld (stepping [(189151184349562368 : Word), (1143914305352105987
    : Word)] (Choice.role 0 RoleId.C)) 0 RoleId.C = false ∧ (getRole (stepping [(189151184349562368 : Word),
    (1143914305352105987 : Word)] (Choice.role 0 RoleId.C)) 0 RoleId.C).pushDue = false ∧ fetch (acting (stepping
    [(189151184349562368 : Word), (1143914305352105987 : Word)] (Choice.role 0 RoleId.C)) false 0 RoleId.C []) 0
    RoleId.C (BitVec.toNat (getRole (stepping [(189151184349562368 : Word), (1143914305352105987 : Word)] (Choice.role
    0 RoleId.C)) 0 RoleId.C).pc) = Except.ok (t, some (189151184349562368 : Word)) ∧ executes 0 RoleId.C
    (189151184349562368 : Word) = true ∧ (breakAt (Machine.core t 0) RoleId.C (getRole (stepping [(189151184349562368
    : Word), (1143914305352105987 : Word)] (Choice.role 0 RoleId.C)) 0 RoleId.C).pc = false ∨ (getRole t 0
    RoleId.C).bpPass = true) ∧ takesTwo (189151184349562368 : Word) = true ∧ fetch t 0 RoleId.C ((BitVec.toNat
    (getRole (stepping [(189151184349562368 : Word), (1143914305352105987 : Word)] (Choice.role 0 RoleId.C)) 0
    RoleId.C).pc + 8) % 2 ^ 57) = Except.ok (u, some (1143914305352105987 : Word)) ∧ decodeWords (189151184349562368 :
    Word) (some (1143914305352105987 : Word)) = Except.ok i) ∧
    (eventState.sched = [Choice.event Instr.warmReset] ∧ tripped eventState = false ∧ ∀ (c : Nat) (r : RoleId),
    Instr.warmReset ≠ Instr.overdue c r) ∧
    (overdueTurn.sched = [Choice.event (Instr.overdue 0 RoleId.C)] ∧ (getRole overdueTurn 0 RoleId.C).safecnt.toNat ≠
    4096) ∧
    (matrixTurn.sched = [Choice.matrix 0 MStage.prepare false] ∧ tripped matrixTurn = false ∧ clockGated matrixTurn 0
    = false ∧ stageWord (Machine.core matrixTurn 0).matrix MStage.prepare = some (prepWord mmaW) ∧ decodeMatrix
    (prepWord mmaW) = Except.ok mmaW) ∧
    (jobTurn.sched = [Choice.job 0 1] ∧ tripped jobTurn = false ∧ clockGated jobTurn 0 = false ∧ findJob (Machine.core
    jobTurn 0) 1 = some (jobOf fillW) ∧ decodeCopy (jobOf fillW).words = Except.ok fillW) :=
  ⟨by exact ⟨_, rfl, by decide, by decide, by decide, by decide, by decide, by decide, by decide, rfl, by decide, by decide, by decide, rfl⟩,
    by exact ⟨_, _, _, rfl, by decide, by decide, by decide, by decide, by decide, by decide, by decide, rfl, by decide, by decide, by decide, rfl, rfl⟩,
    by exact ⟨rfl, by decide, by intro c r h; cases h⟩,
    by decide,
    by exact ⟨rfl, by decide, by decide, by decide, rfl⟩,
    by exact ⟨rfl, by decide, by decide, by decide, rfl⟩⟩

/-- What StepKeepsInvariant asks: a state that meets the invariant, and a step from it. -/
theorem witness_stepKeepsInvariant : RunInv State.reset ∧ ∃ t, step State.reset = .next t := by
  refine ⟨by unfold RunInv; decide, _, rfl⟩

end Sys2Proof.Tests
end

section
/-! Home slices and the translation of an address leave every core as it was (R34 to R39, R120). -/

namespace Sys2Proof.Machine

/-! ## Home slices and translation leave every core as it was -/

theorem foldl_cores {β : Type} (f : State → β → State) (hf : ∀ s b, (f s b).cores = s.cores) (l : List β) (s : State) :
    (l.foldl f s).cores = s.cores := by
  induction l generalizing s with
  | nil => rfl
  | cons b l ih => exact (ih _).trans (hf s b)

@[simp] theorem setBad_cores (s : State) (n : Nat) (bad : BitVec 2) : (setBad s n bad).cores = s.cores := by
  unfold setBad
  split <;> rfl

@[simp] theorem tagCheck_cores (s : State) (n : Nat) : (tagCheck s n).cores = s.cores := by
  unfold tagCheck
  split
  · rfl
  · dsimp only
    split <;> rfl

@[simp] theorem deckDropLine_cores (s : State) (n : Nat) : (deckDropLine s n).cores = s.cores := rfl

@[simp] theorem putHbm_cores (s : State) (n : Nat) (l : Line) : (putHbm s n l).cores = s.cores := by
  unfold putHbm
  rfl

@[simp] theorem setPoison_cores (s : State) (n : Nat) (bad : BitVec 2) : (setPoison s n bad).cores = s.cores := rfl

@[simp] theorem deckEvictLine_cores (s : State) (n : Nat) : (deckEvictLine s n).cores = s.cores := by
  unfold deckEvictLine
  dsimp only
  split
  · exact tagCheck_cores s n
  · split <;> simp

@[simp] theorem deckRoom_cores (sl n fuel : Nat) (s : State) : (deckRoom sl n fuel s).cores = s.cores := by
  induction fuel generalizing s with
  | zero => rfl
  | succ fuel ih =>
    unfold deckRoom
    dsimp only
    split
    · rfl
    · exact (ih _).trans (foldl_cores _ deckEvictLine_cores _ s)

@[simp] theorem deckInsert_cores (s : State) (n : Nat) (d : DeckLine) : (deckInsert s n d).cores = s.cores := by
  unfold deckInsert
  split
  · rfl
  · exact deckRoom_cores _ 1 1 s

@[simp] theorem deckAlloc_cores (s : State) (n : Nat) (tag : BitVec 8) (ver cmp : Bool) :
    (deckAlloc s n tag ver cmp).cores = s.cores := by
  unfold deckAlloc
  split
  · refine (foldl_cores _ (fun s i => ?_) _ _).trans (deckRoom_cores _ _ _ s)
    rfl
  · exact deckInsert_cores s n _

@[simp] theorem deckMerge_cores (s : State) (n : Nat) (ver : Bool) (tag : BitVec 8) (mask : BitVec 128) (l : Line)
    (bad : BitVec 2) : (deckMerge s n ver tag mask l bad).cores = s.cores := by
  unfold deckMerge
  refine foldl_cores _ (fun s m => ?_) _ s
  dsimp only
  split <;> rfl

@[simp] theorem setTag_cores (s : State) (n : Nat) (tag : BitVec 8) (ver : Bool) :
    (setTag s n tag ver).cores = s.cores := by
  unfold setTag
  split <;> rfl

@[simp] theorem allocates_cores (s : State) (p : Policy) (n key : Nat) : (allocates s p n key).1.cores = s.cores := by
  unfold allocates touch
  dsimp only
  split
  · rfl
  · cases p with
    | always => rfl
    | never => rfl
    | second =>
      dsimp only
      split <;> rfl

@[simp] theorem rawPut_cores (s : State) (n : Nat) (mask : BitVec 128) (l : Line) :
    (rawPut s n mask l).cores = s.cores := by
  unfold rawPut
  dsimp only
  split <;> rfl

@[simp] theorem rawWrite_cores (s : State) (dpa : Nat) (bs : List Byte) : (rawWrite s dpa bs).cores = s.cores :=
  foldl_cores _ (fun _ _ => rawPut_cores _ _ _ _) _ s

@[simp] theorem metaBack_cores (s : State) (e : Nat × Word × Bool) : (metaBack s e).cores = s.cores := by
  unfold metaBack
  split
  · exact rawWrite_cores s _ _
  · rfl

@[simp] theorem metaPut_cores (s : State) (key : Nat) (w : Word) (dirty : Bool) :
    (metaPut s key w dirty).cores = s.cores := by
  unfold metaPut
  dsimp only
  split
  · rfl
  · split
    · rfl
    · exact metaBack_cores _ _

@[simp] theorem setMeta_cores (s : State) (dpa : Nat) (w : Word) : (setMeta s dpa w).cores = s.cores := by
  unfold setMeta
  split
  · rfl
  · exact metaPut_cores s _ _ _

@[simp] theorem fetchMeta_cores (s : State) (dpa : Nat) : (fetchMeta s dpa).cores = s.cores := by
  unfold fetchMeta
  split
  · rfl
  · split
    · rfl
    · exact metaPut_cores s _ _ _

@[simp] theorem raiseFlags_cores (s : State) (f : BitVec 8) : (raiseFlags s f).cores = s.cores := by
  unfold raiseFlags
  split <;> rfl

@[simp] theorem countReg_cores (s : State) (n hi lo k : Nat) : (countReg s n hi lo k).cores = s.cores := rfl

@[simp] theorem ehLog_cores (s : State) (n kind dpa pc bank row nsym : Nat) :
    (ehLog s n kind dpa pc bank row nsym).cores = s.cores := by
  unfold ehLog
  dsimp only
  simp only [apply_ite State.cores, countReg_cores, putReg_cores, rawWrite_cores, raiseFlags_cores, ite_self]

@[simp] theorem copyForward_cores (s : State) (blk c n : Nat) (tag : BitVec 8) (ver : Bool) :
    (copyForward s blk c n tag ver).cores = s.cores :=
  foldl_cores _ (fun s i => by simp) _ s

@[simp] theorem placeLine_cores (s : State) (pol : Policy) (cmp full ver : Bool) (tag : BitVec 8) (blk n : Nat)
    (mask : BitVec 128) (l : Line) : (placeLine s pol cmp full ver tag blk n mask l).cores = s.cores := by
  unfold placeLine
  dsimp only
  split
  · simp
  · simp [apply_ite State.cores]

@[simp] theorem recount_cores (s : State) (blk k : Nat) : (recount s blk k).cores = s.cores := by
  unfold recount
  dsimp only
  split
  · exact setMeta_cores s _ _
  · rfl

@[simp] theorem performWrite_cores (s : State) (pol : Policy) (full : Bool) (frame : Nat) (mask : BitVec 128) (l : Line) :
    (performWrite s pol full frame mask l).cores = s.cores := by
  unfold performWrite
  simp only [apply_ite State.cores, recount_cores, placeLine_cores, setMeta_cores, copyForward_cores, ite_self]

@[simp] theorem restoreBad_cores (s : State) (n : Nat) (bad : BitVec 2) : (restoreBad s n bad).cores = s.cores := by
  unfold restoreBad
  simp only [apply_ite State.cores, ehLog_cores, setBad_cores, ite_self]

@[simp] theorem applyMark_cores (s : State) (n : Nat) (m : SnMark) : (applyMark s n m).cores = s.cores := by
  unfold applyMark
  split
  · rfl
  · dsimp only
    split
    · rfl
    · split
      · exact (restoreBad_cores _ _ _).trans (performWrite_cores _ _ _ _ _ _)
      · split
        · rfl
        · split <;> rfl

@[simp] theorem resolvePending_cores (s : State) (n : Nat) : (resolvePending s n).cores = s.cores :=
  foldl_cores _ (fun s m => applyMark_cores s n m) s.marks s

/-- The state that a write at the home slice leaves; the one before it, when the slice refuses it. -/
def writeState (s : State) : WriteRes → State
  | .done t => t
  | .full t _ => t
  | _ => s

@[simp] theorem writeState_done (s t : State) : writeState s (.done t) = t := rfl

@[simp] theorem writeState_full (s t : State) (v : Word) : writeState s (.full t v) = t := rfl

@[simp] theorem writeState_voted (s : State) : writeState s .voted = s := rfl

@[simp] theorem writeState_genMismatch (s : State) : writeState s .genMismatch = s := rfl

@[simp] theorem takeShadow_cores (s : State) (n c l : Nat) : (takeShadow s n c l).cores = s.cores := rfl

theorem sliceWrite_cores (s : State) (src : WriteSrc) (pol : Policy) (full : Bool) (frame : Nat) (mask : BitVec 128)
    (l : Line) : (writeState s (sliceWrite s src pol full frame mask l)).cores = s.cores := by
  have h : (resolvePending (fetchMeta s (128 * frame)) frame).cores = s.cores := by simp
  unfold sliceWrite
  dsimp only
  generalize resolvePending (fetchMeta s (128 * frame)) frame = u at h ⊢
  cases needsShadow u frame <;> simp [apply_ite (writeState s), apply_ite State.cores, h]

/-- A read at the home slice leaves every core as it was. -/
@[simp] theorem sliceRead_cores (s : State) (pol : Policy) (cv : Bool) (frame off n : Nat) :
    (sliceRead s pol cv frame off n).1.cores = s.cores := by
  unfold sliceRead
  dsimp only
  split
  · simp
  · simp [apply_ite State.cores]

/-- The state that a read-modify-write at the home slice leaves; the one before it, when the slice refuses it. -/
def rmwState (s : State) : RmwRes → State
  | .done t _ _ => t
  | .full t _ => t
  | _ => s

theorem rmwState_ite_cores {p : Prop} [Decidable p] {s : State} {a b : RmwRes} (ha : (rmwState s a).cores = s.cores)
    (hb : (rmwState s b).cores = s.cores) : (rmwState s (if p then a else b)).cores = s.cores := by
  split
  · exact ha
  · exact hb

/-- A read-modify-write at the home slice leaves every core as it was. -/
theorem sliceRmw_cores (s : State) (src : WriteSrc) (pol : Policy) (dpa n : Nat) (f : Nat → Option Nat × BitVec 5) :
    (rmwState s (sliceRmw s src pol dpa n f)).cores = s.cores := by
  unfold sliceRmw
  dsimp only
  refine rmwState_ite_cores rfl (rmwState_ite_cores rfl ?_)
  generalize hu : tagCheck (resolvePending (fetchMeta s dpa) (dpa / 128)) _ = u
  have h : u.cores = s.cores := by simp [← hu]
  refine rmwState_ite_cores rfl ?_
  split
  · exact (sliceRead_cores _ _ _ _ _ _).trans h
  · rename_i v fl _
    have hw := sliceWrite_cores u src pol false (dpa / 128) (byteMask (dpa % 128) n) (bytesAt (dpa % 128) (leBytes n v))
    split <;> rename_i e <;> rw [e] at hw
    · exact hw.trans h
    · exact hw.trans h
    · rfl
    · rfl

/-- Marking a leaf entry leaves every core as it was (R39). -/
@[simp] theorem orEntry_cores (s : State) (lptr : Nat) (w : Word) : (orEntry s lptr w).cores = s.cores := by
  have h := sliceRmw_cores s .loc .never lptr 8 fun old => (some (old ||| w.toNat), 0)
  unfold orEntry orAtSlice
  split <;> rename_i e
  · rw [e] at h
    exact h
  · rw [e] at h
    exact h
  · rfl

theorem translate_cores {s t : State} {u : XUnit} {want : Want} {user spec dirty : Bool} {va : Nat}
    {tlb : List TlbEntry} {tgt : Target} {leaf : Option Nat}
    (h : translate s u want user spec dirty va = .ok (t, tlb, tgt, leaf)) : t.cores = s.cores := by
  unfold translate at h
  split at h
  · cases h
  · rename_i f _
    split at h
    · cases h
    · dsimp only at h
      split at h
      · cases h
        rfl
      · generalize (if ((tlbFind u.tlb u.xid va).isSome || bit f.leaf 9) = true then (0 : Word) else bitA) ||| _ = need at h
        split at h
        · cases h
        · split at h
          · cases h
          · cases h
            split
            · rfl
            · exact orEntry_cores _ _ _

/-- Translating an address for a core leaves every role's registers as they were. -/
theorem coreTarget_role {s t : State} {c : Nat} {want : Want} {user spec dirty : Bool} {va : Nat} {tgt : Target}
    {leaf : Option Nat} (h : coreTarget s c want user spec dirty va = .ok (t, tgt, leaf)) (d : Nat) (q : RoleId) :
    getRole t d q = getRole s d q := by
  unfold coreTarget at h
  split at h
  · dsimp only at h
    split at h
    · cases h
      rfl
    · cases h
  · split at h
    · cases h
    · rename_i v tlb tgt leaf e
      cases h
      rw [getRole_modCore v c d q _ fun _ => by cases q <;> rfl]
      simp only [getRole, core, translate_cores e]

theorem coreLoc_role {s t : State} {c : Nat} {want : Want} {user spec dirty : Bool} {va n : Nat} {loc : Loc}
    (h : coreLoc s c want user spec dirty va n = .ok (t, loc)) (d : Nat) (q : RoleId) :
    getRole t d q = getRole s d q := by
  unfold coreLoc at h
  split at h
  · split at h
    · cases h
    · split at h
      · cases h
      · cases h
        rfl
  · split at h
    · cases h
    · rename_i e
      cases h
      exact coreTarget_role e d q

end Sys2Proof.Machine
end

section
/-! The roles of a core after a word's operands are popped, after it completes (R241), and after a change of the core's L1 or
of its writes in flight. -/

namespace Sys2Proof.Machine

/-! ## What a word's operands and its end leave of the roles -/

/-- A role without what completing a word counts: its counter, WALK and SAFECNT, and its marks of the word's stage, tokens,
stops and waits. -/
def keptRole (x : Role) : Role :=
  { x with
    pc := 0, walk := 0, safecnt := 0, mid := 0, pushDue := false, popDone := false, atSafe := false, bpPass := false,
    returning := false, why := none }

theorem readG_role (c d : Nat) (r q : RoleId) (s : State) (x : G6) :
    getRole (readG c r s x).1 d q = getRole s d q := by
  unfold readG
  dsimp only
  split
  · rfl
  · split
    · exact touchSlot_role c d r q s _ _
    · split
      · exact getRole_modCore s c d q _ fun _ => by cases q <;> rfl
      · rfl

theorem setUp_role (k : Core) (r q : RoleId) (n : Nat) : (setUp k r n).role q = k.role q := by
  cases r <;> cases q <;> rfl

theorem setDown_role (k : Core) (r q : RoleId) (n : Nat) : (setDown k r n).role q = k.role q := by
  cases r <;> cases q <;> rfl

theorem popTokens_role (s : State) (c d : Nat) (r q : RoleId) (n : Nat) :
    getRole (popTokens s c r n) d q = getRole s d q :=
  getRole_modCore s c d q _ fun k => setUp_role k r q _

theorem pushTokens_role (s : State) (c d : Nat) (r q : RoleId) (n : Nat) :
    getRole (pushTokens s c r n) d q = getRole s d q :=
  getRole_modCore s c d q _ fun k => setDown_role k r q _

theorem debugStop_role (s : State) (c d : Nat) (r q : RoleId) (why : Nat) :
    getRole (debugStop s c r why) d q = getRole s d q :=
  getRole_modCore s c d q (fun k => { k with dbg := _ }) fun _ => by cases q <;> rfl

theorem endStep_role (s : State) (c d : Nat) (r q : RoleId) : getRole (endStep s c r) d q = getRole s d q := by
  unfold endStep lateHalt
  dsimp only
  split
  · exact debugStop_role s c d r q 2
  · split
    · rfl
    · split
      · exact debugStop_role s c d r q 1
      · rfl

theorem settlePush_kept (s : State) (c : Nat) (r : RoleId) :
    keptRole (getRole (settlePush s c r) c r) = keptRole (getRole s c r) := by
  unfold settlePush
  dsimp only
  split
  · rw [pushTokens_role, getRole_putRole_same]
    rfl
  · rfl

theorem settlePush_role_other (s : State) (c : Nat) (r q : RoleId) (h : q ≠ r) :
    getRole (settlePush s c r) c q = getRole s c q := by
  unfold settlePush
  dsimp only
  split
  · rw [pushTokens_role, getRole_putRole_role _ _ _ _ _ h]
  · rfl

/-- The pop-before of a word that completes. -/
theorem popBefore_role (s : State) (p : Prop) [Decidable p] (c d : Nat) (r q : RoleId) :
    getRole (if p then popTokens s c r 1 else s) d q = getRole s d q := by
  split
  · exact popTokens_role s c d r q 1
  · rfl

/-- A word that completes keeps its role's registers (R241). -/
theorem complete_kept (s : State) (c : Nat) (r : RoleId) (m : Mark) (len : Nat) (fl : Flow) :
    keptRole (getRole (complete s c r m len fl) c r) = keptRole (getRole s c r) := by
  unfold complete
  dsimp only
  rw [endStep_role, settlePush_kept, countEvent_role, getRole_putRole_same, popBefore_role]
  rfl

/-- A word that completes leaves its core's other roles as they were. -/
theorem complete_role_other (s : State) (c : Nat) (r q : RoleId) (m : Mark) (len : Nat) (fl : Flow) (h : q ≠ r) :
    getRole (complete s c r m len fl) c q = getRole s c q := by
  unfold complete
  dsimp only
  rw [endStep_role, settlePush_role_other _ _ _ _ h, countEvent_role, getRole_putRole_role _ _ _ _ _ h, popBefore_role]

/-! ## The L1 and the writes in flight leave registers as they were -/

/-- A role's registers: what completing a word keeps, but for the loads it awaits. -/
def boundRole (x : Role) : Role := { keptRole x with loads := [] }

theorem postWrite_role (s : State) (c d : Nat) (w : Write) (q : RoleId) :
    getRole (postWrite s c w) d q = getRole s d q :=
  getRole_modCore (freshId s).1 c d q _ fun _ => by cases q <;> rfl

theorem postWrite_core_other (s : State) (c d : Nat) (w : Write) (h : d ≠ c) : core (postWrite s c w) d = core s d :=
  core_modCore_other (freshId s).1 c d _ h

/-- t has the memory and the Decks of s, and core c's roles have the same registers. -/
def L1Kept (c : Nat) (s t : State) : Prop :=
  t.mem = s.mem ∧ t.deck = s.deck ∧ ∀ q, boundRole (getRole t c q) = boundRole (getRole s c q)

theorem L1Kept.refl (c : Nat) (s : State) : L1Kept c s s := ⟨rfl, rfl, fun _ => rfl⟩

theorem L1Kept.trans {c : Nat} {s t u : State} (h : L1Kept c s t) (k : L1Kept c t u) : L1Kept c s u := by
  obtain ⟨hm, hd, hr⟩ := h
  obtain ⟨km, kd, kr⟩ := k
  exact ⟨km.trans hm, kd.trans hd, fun q => (kr q).trans (hr q)⟩

/-- A change of the core that leaves its roles' registers keeps what the L1 keeps. -/
theorem modCore_l1Kept (s : State) (c : Nat) (f : Core → Core)
    (h : ∀ (k : Core) (q : RoleId), boundRole ((f k).role q) = boundRole (k.role q)) : L1Kept c s (modCore s c f) :=
  ⟨rfl, rfl, fun q => by rw [getRole, core_modCore_same, h]; rfl⟩

theorem postWrite_l1Kept (s : State) (c : Nat) (w : Write) : L1Kept c s (postWrite s c w) :=
  ⟨rfl, rfl, fun q => by rw [postWrite_role]⟩

theorem writeBackLine_l1Kept (s : State) (c : Nat) (l : L1Line) : L1Kept c s (writeBackLine s c l) := by
  unfold writeBackLine
  split
  · exact .refl c s
  · exact postWrite_l1Kept s c _

theorem stopFill_l1Kept (s : State) (c key : Nat) : L1Kept c s (stopFill s c key) :=
  modCore_l1Kept s c _ fun _ q => by cases q <;> rfl

theorem l1Evict_l1Kept (s : State) (c key : Nat) : L1Kept c s (l1Evict s c key) := by
  unfold l1Evict
  split
  · exact .refl c s
  · exact ((writeBackLine_l1Kept s c _).trans (modCore_l1Kept _ c _ fun _ q => by cases q <;> rfl)).trans
      (stopFill_l1Kept _ c key)

theorem l1Room_l1Kept (s : State) (c key : Nat) : L1Kept c s (l1Room s c key) := by
  unfold l1Room
  dsimp only
  split
  · exact .refl c s
  · split
    · exact .refl c s
    · exact l1Evict_l1Kept s c _

theorem putL1_l1Kept (s : State) (c key : Nat) (l : L1Line) : L1Kept c s (putL1 s c key l) :=
  modCore_l1Kept s c _ fun _ q => by cases q <;> rfl

/-- A store into the L1 changes no byte of memory and no register (R55). -/
theorem l1Store_l1Kept (s : State) (c : Nat) (r : RoleId) (t : Target) (mask : BitVec 128) (d : Line) :
    L1Kept c s (l1Store s c r t mask d) := by
  unfold l1Store
  dsimp only
  split
  · exact putL1_l1Kept s c _ _
  · exact (l1Room_l1Kept s c _).trans (putL1_l1Kept _ c _ _)

end Sys2Proof.Machine
end

section
/-! The bytes of a masked write of one line, and the addresses of st: in a pool, the key keeps the address's place within its
line (R22, R28). -/

namespace Sys2Proof.Machine

/-! ## The bytes of a masked write of one line -/

theorem leBytes_length (n v : Nat) : (leBytes n v).length = n := by
  induction n generalizing v with
  | zero => rfl
  | succ n ih => simp [leBytes, ih]

theorem leBytes_getElem (n v i : Nat) (h : i < (leBytes n v).length) :
    (leBytes n v)[i] = BitVec.ofNat 8 (v / 256 ^ i) := by
  induction n generalizing v i with
  | zero => simp [leBytes] at h
  | succ n ih =>
    cases i with
    | zero => simp [leBytes]
    | succ i => simp only [leBytes, List.getElem_cons_succ, ih, Nat.div_div_eq_div_mul, Nat.pow_succ']

theorem leNat_leBytes (n v : Nat) : leNat (leBytes n v) = v % 256 ^ n := by
  induction n generalizing v with
  | zero => simp [leBytes, leNat, Nat.mod_one]
  | succ n ih => simp [leBytes, leNat, ih, Nat.pow_succ', Nat.mod_mul]

theorem byteMask_getLsbD (off n i : Nat) (h : off + n ≤ 128) :
    (byteMask off n).getLsbD i = decide (off ≤ i ∧ i < off + n) := by
  simp only [byteMask, BitVec.getLsbD_ofNat, Nat.testBit_shiftLeft, Nat.testBit_two_pow_sub_one, ← Bool.decide_and]
  exact decide_eq_decide.2 (by omega)

/-- Byte off + j of the line that holds the bytes of a number from byte off on. -/
theorem lineByte_bytesAt (off n d j : Nat) (h : off + n ≤ 128) (hj : j < n) :
    BitVec.ofNat 8 ((bytesAt off (leBytes n d)).toNat / 256 ^ (off + j)) = BitVec.ofNat 8 (d / 256 ^ j) := by
  have e (k : Nat) : (256 : Nat) ^ k = 2 ^ (8 * k) := by rw [Nat.pow_mul]
  apply BitVec.eq_of_getLsbD_eq
  intro i hi
  have hline : i + 8 * (off + j) < 1024 := by omega
  have hfrom : i + 8 * (off + j) ≥ 8 * off := by omega
  have hplace : i + 8 * (off + j) - 8 * off = i + 8 * j := by omega
  have hto : i + 8 * j < 8 * n := by omega
  simp only [bytesAt, leNat_leBytes, e, BitVec.getLsbD_ofNat, BitVec.toNat_ofNat, Nat.testBit_div_two_pow,
    Nat.testBit_mod_two_pow, Nat.testBit_shiftLeft, hline, hfrom, hplace, hto, decide_true, Bool.true_and]

/-- A masked write leaves a byte whose mask bit is not set as it was, and every byte before its first. -/
theorem memRead_writeMasked_other (mask : BitVec 128) (m : List Host.Cell) (a i b : Nat) (bs : List Byte)
    (h : Memory.wf m = true) (hb : a ≤ b → mask.getLsbD (i + (b - a)) = false) :
    memRead (writeMasked mask m a i bs) b = memRead m b := by
  induction bs generalizing m a i with
  | nil => rfl
  | cons x bs ih =>
    simp only [writeMasked]
    have hrest (hlt : a + 1 ≤ b) : mask.getLsbD (i + 1 + (b - (a + 1))) = false := by
      rw [show i + 1 + (b - (a + 1)) = i + (b - a) by omega]
      exact hb (by omega)
    split
    · rename_i hm
      have hne : b ≠ a := by
        rintro rfl
        simp [hm] at hb
      rw [ih _ _ _ (memWrite_wf m a x h) hrest, memRead_write_other m a b x h hne]
    · exact ih _ _ _ h hrest

/-- A masked write leaves its byte where its mask bit is set. -/
theorem memRead_writeMasked_same (mask : BitVec 128) (m : List Host.Cell) (a i k : Nat) (bs : List Byte)
    (h : Memory.wf m = true) (hk : k < bs.length) (hm : mask.getLsbD (i + k) = true) :
    memRead (writeMasked mask m a i bs) (a + k) = bs[k] := by
  induction bs generalizing m a i k with
  | nil => exact absurd hk (Nat.not_lt_zero k)
  | cons x bs ih =>
    simp only [writeMasked]
    cases k with
    | zero =>
      rw [if_pos (by simpa using hm), memRead_writeMasked_other mask _ _ _ _ _ (memWrite_wf m a x h) (by omega)]
      exact memRead_write_same m a x h
    | succ k =>
      have hw : Memory.wf (if mask.getLsbD i = true then memWrite m a x else m) = true := by
        split
        · exact memWrite_wf m a x h
        · exact h
      rw [show a + (k + 1) = a + 1 + k by omega,
        ih _ _ _ k hw (Nat.lt_of_succ_lt_succ hk) (by rw [← hm]; congr 1; omega)]
      rfl

/-- A masked write of n bytes within a line leaves every byte outside them alone. -/
theorem poolMasked_other (s : State) (key n b : Nat) (l : Line) (h : Memory.wf s.mem = true) (hn : key % 128 + n ≤ 128)
    (hb : b < key ∨ key + n ≤ b) : memRead (poolMasked s key (byteMask (key % 128) n) l).mem b = memRead s.mem b :=
  memRead_writeMasked_other _ _ _ _ _ _ h fun _ => by
    rw [byteMask_getLsbD _ _ _ hn]
    exact decide_eq_false (by omega)

/-- A masked write of the n bytes of a number within a line leaves them there. -/
theorem poolMasked_same (s : State) (key n d j : Nat) (h : Memory.wf s.mem = true) (hn : key % 128 + n ≤ 128)
    (hj : j < n) :
    memRead (poolMasked s key (byteMask (key % 128) n) (bytesAt (key % 128) (leBytes n d))).mem (key + j) =
      BitVec.ofNat 8 (d / 256 ^ j) := by
  have hk : key % 128 + j < (lineBytes (bytesAt (key % 128) (leBytes n d))).length := by
    rw [lineBytes, leBytes_length]
    omega
  have hm : (byteMask (key % 128) n).getLsbD (0 + (key % 128 + j)) = true := by
    rw [byteMask_getLsbD _ _ _ hn]
    exact decide_eq_true (by omega)
  have he : key + j = key / 128 * 128 + (key % 128 + j) := by omega
  rw [he, poolMasked, memRead_writeMasked_same _ _ _ _ _ _ h hk hm]
  simp only [lineBytes, leBytes_getElem]
  exact lineByte_bytesAt _ _ _ _ hn hj

/-- The bytes of a word, as numbers and as bits. -/
theorem ofNat_div_eq_extractLsb' (w : Word) (j : Nat) :
    BitVec.ofNat 8 (w.toNat / 256 ^ j) = w.extractLsb' (8 * j) 8 := by
  rw [show (256 : Nat) ^ j = 2 ^ (8 * j) by rw [Nat.pow_mul], ← Nat.shiftRight_eq_div_pow]
  rfl

/-! ## Addresses -/

/-- The sum of a base, a scaled index and an offset in 64 bits gives the 57-bit address of their sum as integers (R22). -/
theorem effAddr_eq (b i : Word) (sc : BitVec 2) (off : BitVec 20) :
    effAddr b i sc off = (((b.toNat : Int) + i.toNat * 2 ^ sc.toNat + off.toInt) % 2 ^ 57).toNat := by
  have e : b + i * BitVec.ofNat 64 (2 ^ sc.toNat) + off.signExtend 64 =
      BitVec.ofInt 64 ((b.toNat : Int) + i.toNat * 2 ^ sc.toNat + off.toInt) := by
    rw [BitVec.ofInt_add, BitVec.ofInt_add, BitVec.ofInt_mul, BitVec.ofInt_natCast, BitVec.ofInt_natCast,
      show (2 : Int) ^ sc.toNat = ((2 ^ sc.toNat : Nat) : Int) by norm_cast, BitVec.ofInt_natCast, BitVec.ofNat_toNat,
      BitVec.ofNat_toNat, BitVec.setWidth_eq, BitVec.setWidth_eq]
    rfl
  rw [effAddr, e, BitVec.toNat_ofInt]
  generalize (b.toNat : Int) + i.toNat * 2 ^ sc.toNat + off.toInt = v
  omega

theorem poolLoc_eq {s : State} {c b n : Nat} {l : Loc} (h : poolLoc s c b n = some l) : l = .pool (poolBase c + b) := by
  unfold poolLoc at h
  dsimp only at h
  split at h
  · exact (Option.some.inj h).symm
  · cases h

theorem poolBase_add_mod (c b : Nat) : (poolBase c + b) % 128 = b % 128 := by
  unfold poolBase
  omega

/-- A near-window access to a pool keeps its place within a line (R28). -/
theorem nearLoc_pool_mod {s : State} {c o n key : Nat} (h : nearLoc s c o n = some (.pool key)) : key % 128 = o % 128 := by
  unfold nearLoc at h
  split at h
  · rw [Loc.pool.inj (poolLoc_eq h), poolBase_add_mod]
  · split at h
    · dsimp only at h
      split at h
      · cases h
      · rw [Loc.pool.inj (poolLoc_eq h), poolBase_add_mod]
        omega
    · split at h
      · dsimp only at h
        split at h <;> cases h
      · split at h
        · dsimp only at h
          split at h <;> cases h
        · cases h

/-- An address in a pool is located with no change of the state, and keeps its place within a line. -/
theorem coreLoc_pool {s t : State} {c : Nat} {want : Want} {user spec dirty : Bool} {va n key : Nat}
    (h : coreLoc s c want user spec dirty va n = .ok (t, .pool key)) : t = s ∧ key % 128 = va % 128 := by
  unfold coreLoc at h
  split at h
  · split at h
    · cases h
    · rename_i hlow
      split at h
      · cases h
      · rename_i e
        cases h
        refine ⟨rfl, ?_⟩
        rw [nearLoc_pool_mod e]
        simp only [NW] at hlow ⊢
        omega
  · split at h
    · cases h
    · cases h

end Sys2Proof.Machine
end

section
/-! The frame of st (R294, R297). -/

namespace Sys2Proof.Machine
open Sys2Proof.Claims

/-! ## A store's operands and its end -/

/-- The operands that a store reads are its address and its data (R20, R22). -/
theorem storeOperands_eq (s : State) (rs : G6) (ea : EA) :
    storeOperands s.cur.1 s.cur.2 s rs ea =
      ((storeArgs s rs ea).1, (storeArgs s rs ea).2.1, (storeArgs s rs ea).2.2.toNat) := by
  simp only [storeOperands, storeArgs, eaOf, src, effAddr_eq]

theorem storeOperands_only (c : Nat) (r : RoleId) (s : State) (rs : G6) (ea : EA) :
    CoreOnly c s (storeOperands c r s rs ea).1 :=
  ((readG_only c r s rs).trans (readG_only c r _ ea.rb)).trans (readG_only c r _ ea.ri)

theorem storeOperands_role (c d : Nat) (r q : RoleId) (s : State) (rs : G6) (ea : EA) :
    getRole (storeOperands c r s rs ea).1 d q = getRole s d q := by
  simp only [storeOperands, readG_role]

/-- The end of a store whose write stands in a state: its operands are popped and the word completes. -/
def storeEnd (c : Nat) (r : RoleId) (u : State) (m : Mark) (rs : G6) (ea : EA) : State :=
  complete (storeOperands c r u rs ea).1 c r m 1 .seq

theorem storeEnd_only (c : Nat) (r : RoleId) (u : State) (m : Mark) (rs : G6) (ea : EA) :
    CoreOnly c u (storeEnd c r u m rs ea) :=
  (storeOperands_only c r u rs ea).trans (complete_only _ c r m 1 .seq)

theorem storeEnd_kept (c : Nat) (r : RoleId) (u : State) (m : Mark) (rs : G6) (ea : EA) :
    keptRole (getRole (storeEnd c r u m rs ea) c r) = keptRole (getRole u c r) := by
  rw [storeEnd, complete_kept, storeOperands_role]

theorem storeEnd_role_other (c : Nat) (r q : RoleId) (u : State) (m : Mark) (rs : G6) (ea : EA) (h : q ≠ r) :
    getRole (storeEnd c r u m rs ea) c q = getRole u c q := by
  rw [storeEnd, complete_role_other _ _ _ _ _ _ _ h, storeOperands_role]

/-- A store of one element that begins, finds its line free and places the element is done. -/
theorem storeElems_one {c : Nat} {r : RoleId} {word : Word} {s u : State} {a n d : Nat} {loc : Loc} (fin : State → State)
    (hb : locBusy s c r loc = false)
    (hp : placeElems c r (getRole s c r).pc word s [storeElem a n d loc] = .done u) :
    storeElems c r word s 0 [storeElem a n d loc] fin = .ok (fin u, .seq) := by
  have hall : ([storeElem a n d loc].filter fun e => decide (0 < e.next)) = [storeElem a n d loc] := rfl
  have hfree : (([storeElem a n d loc].head?.map fun e => locBusy s c r e.loc).getD false) = false := hb
  simp only [storeElems, hall, hfree, hp, done, Bool.false_eq_true, if_false]

/-- A st that issues with usable operands at an aligned address that is located, finds its line free and its role's
releases done, ends when its one element is placed (R297). -/
theorem exec_st_placed {s t u : State} {m : Mark} {sz : Size} {rs : G6} {ea : EA} {g : Guard} {loc : Loc}
    (hr : ready s (.st m sz rs ea g) m 1 = true) (hg : guardHolds s g = true)
    (hu : usable s [.g rs, .g ea.rb, .g ea.ri] .none = true)
    (hl : coreLoc s s.cur.1 .write (!systemMode s s.cur.1 s.cur.2) false true (storeArgs s rs ea).2.1 (sizeBytes sz) =
      .ok (t, loc))
    (ha : (storeArgs s rs ea).2.1 % sizeBytes sz = 0) (hb : locBusy t s.cur.1 s.cur.2 loc = false)
    (hs : relSettled s s.cur.1 s.cur.2 = true) (h0 : stage s.cur.1 s.cur.2 s = 0)
    (hp : placeElems s.cur.1 s.cur.2 (getRole t s.cur.1 s.cur.2).pc ((encode (.st m sz rs ea g)).headD 0) t
      [storeElem (storeArgs s rs ea).2.1 (sizeBytes sz) (storeArgs s rs ea).2.2.toNat loc] = .done u) :
    exec (.st m sz rs ea g) s = .next (storeEnd s.cur.1 s.cur.2 u m rs ea) := by
  have hbody : storeBody ((encode (.st m sz rs ea g)).headD 0) (sizeBytes sz) rs ea s.cur.1 s.cur.2 s =
      .ok ((storeOperands s.cur.1 s.cur.2 u rs ea).1, .seq) := by
    have hstart : storeOnce (getRole s s.cur.1 s.cur.2) = 0 := by
      rw [storeOnce, show (getRole s s.cur.1 s.cur.2).mid = 0 from h0]
    simp only [storeBody, check_usable hu, storeOperands_eq s, ha, hs, userRole, hl, orFatal, hstart, bind, Except.bind]
    simpa using storeElems_one _ hb hp
  exact issue_done hr (scalarGuard g) _ hg hbody (by simp)

/-! ## Where a store's element goes -/

/-- v is s after a store of n bytes of w to scratch at key, by core c: performed at once, or, the other way of the step, in
flight to the bank (log 3). -/
structure ScratchStored (c key n : Nat) (w : Word) (s v : State) : Prop where
  outside : ∀ b, b < key ∨ key + n ≤ b → memRead v.mem b = memRead s.mem b
  atOnce : s.alt = false → ∀ j, j < n → memRead v.mem (key + j) = w.extractLsb' (8 * j) 8
  inFlight : s.alt = true → v.mem = s.mem
  deck : v.deck = s.deck
  regs : v.regs = s.regs
  role : ∀ q, getRole v c q = getRole s c q
  core : ∀ d, d ≠ c → core v d = core s d

theorem poolStore_stored (c : Nat) (r : RoleId) (site : Site) (s : State) (key n : Nat) (w : Word)
    (h : Memory.wf s.mem = true) (hn : key % 128 + n ≤ 128) :
    ScratchStored c key n w s
      (poolStore c r site s key (byteMask (key % 128) n) (bytesAt (key % 128) (leBytes n w.toNat))) := by
  unfold poolStore
  split
  · rename_i ha
    exact {
      outside := fun _ _ => rfl
      atOnce := fun hf => absurd ha (by simp [hf])
      inFlight := fun _ => rfl
      deck := rfl
      regs := rfl
      role := postWrite_role s c c _
      core := fun d hd => postWrite_core_other s c d _ hd }
  · rename_i ha
    exact {
      outside := fun b hb => poolMasked_other s key n b _ h hn hb
      atOnce := fun _ j hj => (poolMasked_same s key n w.toNat j h hn hj).trans (ofNat_div_eq_extractLsb' w j)
      inFlight := fun ht => absurd ht ha
      deck := rfl
      regs := rfl
      role := fun _ => rfl
      core := fun _ _ => rfl }

/-- A store to scratch, whose address and key have one place within their lines, is placed in the pool (R294). -/
theorem placeElems_pool {c : Nat} {r : RoleId} {s : State} {key a n : Nat} (pc : VA) (word w : Word)
    (h : locBusy s c r (.pool key) = false) (hw : Memory.wf s.mem = true) (hk : key % 128 = a % 128)
    (hn : a % 128 + n ≤ 128) :
    ∃ v, placeElems c r pc word s [storeElem a n w.toNat (.pool key)] = .done v ∧ ScratchStored c key n w s v := by
  simp only [placeElems, storeElem, h, ← hk, Bool.false_eq_true, if_false]
  exact ⟨_, rfl, poolStore_stored c r _ s key n w hw (hk ▸ hn)⟩

/-- A store to a line elsewhere, outside the open snapshot ranges, goes to the L1 or leaves as a write in flight (R294): no
byte of memory and no register changes. -/
theorem placeElems_dev {c : Nat} {r : RoleId} {s : State} {tgt : Target} {leaf : Option Nat} (pc : VA) (word : Word)
    (a n d : Nat) (h : locBusy s c r (.dev tgt leaf) = false) (ho : inOpenRange s tgt = false) :
    ∃ u, placeElems c r pc word s [storeElem a n d (.dev tgt leaf)] = .done u ∧ L1Kept c s u := by
  simp only [placeElems, storeElem, h, ho, betweenElems, Bool.false_eq_true, if_false, Bool.false_and]
  split
  · exact ⟨_, rfl, l1Store_l1Kept s c r tgt _ _⟩
  · exact ⟨_, rfl, postWrite_l1Kept s c _⟩

/-- An access aligned to its size lies within one line. -/
theorem aligned_within_line (sz : Size) (a : Nat) (h : a % sizeBytes sz = 0) : a % 128 + sizeBytes sz ≤ 128 := by
  cases sz <;> simp only [sizeBytes] at h ⊢ <;> omega

/-! ## The frame of st -/

theorem keptRole_roleKept {x y : Role} (h : keptRole y = keptRole x) : roleKept x y 0 ∧ y.g = x.g ∧ y.p = x.p := by
  have hg : y.g = x.g := (congrArg Role.g h :)
  refine ⟨⟨fun n _ => by rw [hg], ?_⟩, hg, (congrArg Role.p h :)⟩
  exact ⟨(congrArg Role.v h :), (congrArg Role.lc h :), (congrArg Role.flags h :), (congrArg Role.vgen h :),
    (congrArg Role.tvec h :), (congrArg Role.tpc h :), (congrArg Role.tcause h :), (congrArg Role.tval h :),
    (congrArg Role.vstart h :), (congrArg Role.tstat h :), (congrArg Role.loads h :), (congrArg Role.fin h :),
    (congrArg Role.block h :)⟩

theorem boundRole_fields {x y : Role} (h : boundRole y = boundRole x) :
    y.g = x.g ∧ y.v = x.v ∧ y.p = x.p ∧ y.flags = x.flags ∧ y.tstat = x.tstat :=
  ⟨(congrArg Role.g h :), (congrArg Role.v h :), (congrArg Role.p h :), (congrArg Role.flags h :),
    (congrArg Role.tstat h :)⟩

/-- Settles O54. Scratch: the state is the one its masked write, or its write in flight, leaves, with the operands popped and
the word complete. Elsewhere: the state that translation leaves, with the bytes in the L1 or in flight. -/
theorem storeFrame : Obligations.StoreFrame := by
  unfold Obligations.StoreFrame
  constructor
  · intro s m sz rs ea g t key hr hg hu hw a n hl ha hb hs h0
    obtain ⟨rfl, hkey⟩ := coreLoc_pool hl
    obtain ⟨v, hp, hv⟩ := placeElems_pool (getRole t t.cur.1 t.cur.2).pc ((encode (.st m sz rs ea g)).headD 0) a.2.2 hb hw
      hkey (aligned_within_line sz a.2.1 ha)
    have hend := storeEnd_only t.cur.1 t.cur.2 v m rs ea
    obtain ⟨hrole, hgen, hpred⟩ := keptRole_roleKept
      ((storeEnd_kept t.cur.1 t.cur.2 v m rs ea).trans (congrArg keptRole (hv.role t.cur.2)))
    refine ⟨_, exec_st_placed hr hg hu hl ha hb hs h0 hp, ?_, ?_, ?_, hend.deck.trans hv.deck, hend.regs.trans hv.regs,
      hrole, hgen, hpred, ?_, ?_⟩
    · rw [hend.mem]
      exact hv.outside
    · rw [hend.mem]
      exact hv.atOnce
    · rw [hend.mem]
      exact hv.inFlight
    · intro q hq
      exact (storeEnd_role_other _ _ _ _ _ _ _ hq).trans (hv.role q)
    · intro d hd
      exact (hend.core hd).trans (hv.core d hd)
  · intro s m sz rs ea g t tgt leaf hr hg hu a n hl ha hb hs h0 ho
    obtain ⟨v, hp, hmem, hdeck, hrole⟩ := placeElems_dev (getRole t s.cur.1 s.cur.2).pc
      ((encode (.st m sz rs ea g)).headD 0) a.2.1 n a.2.2.toNat hb ho
    have hend := storeEnd_only s.cur.1 s.cur.2 v m rs ea
    have hregs : boundRole (getRole (storeEnd s.cur.1 s.cur.2 v m rs ea) s.cur.1 s.cur.2) =
        boundRole (getRole s s.cur.1 s.cur.2) := by
      rw [boundRole, storeEnd_kept, ← boundRole, hrole, coreLoc_role hl]
    exact ⟨_, exec_st_placed hr hg hu hl ha hb hs h0 hp, hend.mem.trans hmem, hend.deck.trans hdeck,
      boundRole_fields hregs⟩

end Sys2Proof.Machine
end
